-- ==== Sys2Proof/Word.lean ====
section
/-! DEFINITION. The widths of the machine's words (00_scope.md R3; 09 Table 9-1). -/

namespace Sys2Proof

/-- One byte of memory, scratchpad or code. -/
abbrev Byte := BitVec 8

/-- A vector register's lane, an instruction word, a port word: 32 bits. -/
abbrev Word := BitVec 32

/-- A uniform register and a record word: 64 bits. -/
abbrev DWord := BitVec 64

end Sys2Proof
end

