-- ==== Sys2Proof/Machine/Bits.lean ====
section
/-! DEFINITION. Bit fields, sign extension, byte order and the sorted tables that hold sparse state. -/

namespace Sys2Proof

/-- Bits `[lo + n - 1 : lo]` of a word, as the manual writes a field (00 R3). -/
def fld {k : Nat} (w : BitVec k) (lo n : Nat) : BitVec n := w.extractLsb' lo n

/-- Field `[lo + n - 1 : lo]` of a natural number. -/
def nfld (x lo n : Nat) : Nat := (x / 2 ^ lo) % 2 ^ n

/-- A number with its field `[lo + n - 1 : lo]` replaced by the low `n` bits of `v`. -/
def nput (x lo n v : Nat) : Nat := x - nfld x lo n * 2 ^ lo + (v % 2 ^ n) * 2 ^ lo

/-- The low `n` bits of `x`, read as a two's-complement integer. -/
def sextNat (n x : Nat) : Int :=
  let y := x % 2 ^ n
  if 2 * y < 2 ^ n then (y : Int) else (y : Int) - (2 ^ n : Nat)

/-- An integer reduced modulo `2 ^ n`. -/
def wrap (n : Nat) (x : Int) : Nat := (x % ((2 ^ n : Nat) : Int)).toNat

/-- `sat(x, lo, hi)` of 00 R8. -/
def sat (x lo hi : Int) : Int := if x < lo then lo else if hi < x then hi else x

/-- Bit `n` of a number. -/
def bitAt (x n : Nat) : Bool := (x / 2 ^ n) % 2 == 1

/-- A Bool as 0 or 1. -/
def b2n (b : Bool) : Nat := if b then 1 else 0

/-- The little-endian bytes of a number (00 R3). -/
def leBytes : Nat → Nat → List Byte
  | 0, _ => []
  | n + 1, x => BitVec.ofNat 8 x :: leBytes n (x / 256)

/-- The number that little-endian bytes hold. -/
def leNat : List Byte → Nat
  | [] => 0
  | b :: bs => b.toNat + 256 * leNat bs

/-- The mask with bit `n` set. -/
def maskBit (n : Nat) : Word := BitVec.ofNat 32 (2 ^ n)

/-- Is lane `n` in the mask? -/
def inMask (m : Word) (n : Nat) : Bool := m.getLsbD n

/-- The mask of the lanes below 32 that satisfy `f`. -/
def maskOf (f : Nat → Bool) : Word :=
  (List.range 32).foldl (fun m i => if f i then m ||| maskBit i else m) 0#32

/-- The lanes of a mask, ascending. -/
def lanesOf (m : Word) : List Nat := (List.range 32).filter (inMask m)

/-- The lowest lane of a mask, if it has one. -/
def lowLane (m : Word) : Option Nat := (List.range 32).find? (inMask m)

/-- A table: entries in strictly rising key order. -/
abbrev Tab (α : Type) := List (Nat × α)

/-- The entry of a key. -/
def Tab.get? {α : Type} : Tab α → Nat → Option α
  | [], _ => none
  | (k, v) :: t, n => if k = n then some v else Tab.get? t n

/-- The entry of a key, or a default. -/
def Tab.getD {α : Type} (t : Tab α) (n : Nat) (d : α) : α := (Tab.get? t n).getD d

/-- Set the entry of a key, keeping the order. -/
def Tab.set {α : Type} : Tab α → Nat → α → Tab α
  | [], n, x => [(n, x)]
  | (k, v) :: t, n, x =>
    if n < k then (n, x) :: (k, v) :: t
    else if n = k then (n, x) :: t
    else (k, v) :: Tab.set t n x

/-- Remove a key. -/
def Tab.del {α : Type} (t : Tab α) (n : Nat) : Tab α := t.filter (fun e => e.1 != n)

/-- The keys of a table. -/
def Tab.keys {α : Type} (t : Tab α) : List Nat := t.map (·.1)

/-- The values of a table. -/
def Tab.vals {α : Type} (t : Tab α) : List α := t.map (·.2)

/-- Change the entry of a key, if it has one. -/
def Tab.adjust {α : Type} (t : Tab α) (n : Nat) (f : α → α) : Tab α :=
  t.map (fun e => if e.1 = n then (e.1, f e.2) else e)

/-- Replace element `n` of a list. -/
def setAt {α : Type} : List α → Nat → α → List α
  | [], _, _ => []
  | _ :: t, 0, x => x :: t
  | h :: t, n + 1, x => h :: setAt t n x

/-- Change element `n` of a list. -/
def modAt {α : Type} : List α → Nat → (α → α) → List α
  | [], _, _ => []
  | h :: t, 0, f => f h :: t
  | h :: t, n + 1, f => h :: modAt t n f

/-- Add an element to a list that holds no repeats. -/
def addNew {α : Type} [BEq α] (l : List α) (x : α) : List α := if l.contains x then l else l ++ [x]

/-- Add elements that a list does not hold yet. -/
def addAll {α : Type} [BEq α] (l xs : List α) : List α := xs.foldl addNew l

/-- The least element of a list of numbers. -/
def minNat : List Nat → Option Nat
  | [] => none
  | x :: xs => match minNat xs with
    | none => some x
    | some y => some (min x y)

/-- The greatest element of a list of numbers, or 0. -/
def maxNat (l : List Nat) : Nat := l.foldl max 0

/-- `x` saturated at the width of a counter. -/
def satN (n x : Nat) : Nat := min x (2 ^ n - 1)

/-- Insert an element behind those of no greater rank. -/
def insertOn {α : Type} (f : α → Nat) (x : α) : List α → List α
  | [] => [x]
  | y :: ys => if f y ≤ f x then y :: insertOn f x ys else x :: y :: ys

/-- A list by ascending rank, equal ranks as they stand. -/
def sortOn {α : Type} (f : α → Nat) (l : List α) : List α := l.foldl (fun acc x => insertOn f x acc) []

/-- Round up to a multiple. -/
def ceilTo (m x : Nat) : Nat := (x + m - 1) / m * m

end Sys2Proof
end

