-- ==== Sys2Proof/Syntax.lean ====
section
/-! DEFINITION. The instruction set of the Ziltus Z64 as syntax: one constructor for each row of spec/opcode_table.json.
Rows with an encoding carry the fields of their word (02 Tables 2-1 to 2-10), high field first. Rows without one are
the device's own steps (95_what_each_step_holds.md); their operands say which unit acts and what it meets. -/

namespace Sys2Proof

/-- The rows of the table of operations and events. -/
inductive Instr where
  /-- ADD (R297). Integer add, 32-bit or 64-bit pair selected by m. -/
  | add (d : BitVec 7) (a : BitVec 7) (b : BitVec 7) (g : BitVec 3) (m : BitVec 1)
  /-- SUB (R297). Integer subtract, 32-bit or 64-bit pair selected by m. -/
  | sub (d : BitVec 7) (a : BitVec 7) (b : BitVec 7) (g : BitVec 3) (m : BitVec 1)
  /-- MUL (R297). Low 32 bits of the product. -/
  | mul (d : BitVec 7) (a : BitVec 7) (b : BitVec 7) (g : BitVec 3)
  /-- MULHI (R297). High 32 bits of the signed or unsigned product. -/
  | mulhi (d : BitVec 7) (a : BitVec 7) (b : BitVec 7) (g : BitVec 3) (m : BitVec 1)
  /-- MAD (R297). Multiply-add into vd, 32-bit or 64-bit accumulator. -/
  | mad (d : BitVec 7) (a : BitVec 7) (b : BitVec 7) (g : BitVec 3) (m : BitVec 1)
  /-- DIV (R301). Integer quotient under the division rule, trapping when the arithmetic-trap mask enables it. -/
  | div (d : BitVec 7) (a : BitVec 7) (b : BitVec 7) (g : BitVec 3) (m : BitVec 1)
  /-- REM (R301). Integer remainder under the division rule. -/
  | rem (d : BitVec 7) (a : BitVec 7) (b : BitVec 7) (g : BitVec 3) (m : BitVec 1)
  /-- MIN (R297). Signed or unsigned minimum. -/
  | min (d : BitVec 7) (a : BitVec 7) (b : BitVec 7) (g : BitVec 3) (m : BitVec 1)
  /-- MAX (R297). Signed or unsigned maximum. -/
  | max (d : BitVec 7) (a : BitVec 7) (b : BitVec 7) (g : BitVec 3) (m : BitVec 1)
  /-- ABS (R297). Absolute value modulo 2^32. -/
  | abs (d : BitVec 7) (a : BitVec 7) (g : BitVec 3)
  /-- NEG (R297). Two's-complement negation. -/
  | neg (d : BitVec 7) (a : BitVec 7) (g : BitVec 3)
  /-- AND (R297). Bitwise and. -/
  | and (d : BitVec 7) (a : BitVec 7) (b : BitVec 7) (g : BitVec 3)
  /-- OR (R297). Bitwise or. -/
  | or (d : BitVec 7) (a : BitVec 7) (b : BitVec 7) (g : BitVec 3)
  /-- XOR (R297). Bitwise exclusive or. -/
  | xor (d : BitVec 7) (a : BitVec 7) (b : BitVec 7) (g : BitVec 3)
  /-- ANDN (R297). a and not b. -/
  | andn (d : BitVec 7) (a : BitVec 7) (b : BitVec 7) (g : BitVec 3)
  /-- SHL (R298). Shift left, 32-bit or 64-bit pair. -/
  | shl (d : BitVec 7) (a : BitVec 7) (b : BitVec 7) (g : BitVec 3) (m : BitVec 1)
  /-- SHR (R298). Logical or arithmetic shift right. -/
  | shr (d : BitVec 7) (a : BitVec 7) (b : BitVec 7) (g : BitVec 3) (m : BitVec 1)
  /-- ROT (R297). Rotate left by b mod 32. -/
  | rot (d : BitVec 7) (a : BitVec 7) (b : BitVec 7) (g : BitVec 3)
  /-- BFX (R299). Bit-field extract, signed or unsigned. -/
  | bfx (d : BitVec 7) (a : BitVec 7) (b : BitVec 7) (g : BitVec 3) (m : BitVec 1)
  /-- BFI (R299). Bit-field insert into vd. -/
  | bfi (d : BitVec 7) (a : BitVec 7) (b : BitVec 7) (g : BitVec 3)
  /-- POPC (R297). Population count. -/
  | popc (d : BitVec 7) (a : BitVec 7) (g : BitVec 3)
  /-- CLZ (R297). Count leading zeros. -/
  | clz (d : BitVec 7) (a : BitVec 7) (g : BitVec 3)
  /-- BREV (R297). Bit reverse. -/
  | brev (d : BitVec 7) (a : BitVec 7) (g : BitVec 3)
  /-- PERM (R300). Byte permute under the selector in vd. -/
  | perm (d : BitVec 7) (a : BitVec 7) (b : BitVec 7) (g : BitVec 3)
  /-- ADDS (R297). Saturating add, signed or unsigned. -/
  | adds (d : BitVec 7) (a : BitVec 7) (b : BitVec 7) (g : BitVec 3) (m : BitVec 1)
  /-- ADDI (R302). Add sign-extended immediate. -/
  | addi (d : BitVec 7) (a : BitVec 7) (i : BitVec 8) (g : BitVec 3)
  /-- ANDI (R302). And with zero-extended immediate. -/
  | andi (d : BitVec 7) (a : BitVec 7) (i : BitVec 8) (g : BitVec 3)
  /-- ORI (R302). Or with zero-extended immediate. -/
  | ori (d : BitVec 7) (a : BitVec 7) (i : BitVec 8) (g : BitVec 3)
  /-- XORI (R302). Xor with zero-extended immediate. -/
  | xori (d : BitVec 7) (a : BitVec 7) (i : BitVec 8) (g : BitVec 3)
  /-- SHLI (R302). Shift left by immediate count. -/
  | shli (d : BitVec 7) (a : BitVec 7) (i : BitVec 8) (g : BitVec 3)
  /-- SHRI (R302). Logical shift right by immediate count. -/
  | shri (d : BitVec 7) (a : BitVec 7) (i : BitVec 8) (g : BitVec 3)
  /-- CMP (R303). Integer compare combined into a predicate. -/
  | cmp (p : BitVec 5) (a : BitVec 7) (b : BitVec 7) (c : BitVec 4) (k : BitVec 2)
  /-- SEL (R305). Per-lane select between va and vb by a predicate. -/
  | sel (d : BitVec 7) (a : BitVec 7) (b : BitVec 7) (g : BitVec 3)
  /-- MOV (R306). Register move. -/
  | mov (d : BitVec 7) (a : BitVec 7) (g : BitVec 3)
  /-- MOVI (R306). Move immediate to every live thread. -/
  | movi (d : BitVec 7) (i : BitVec 18)
  /-- MOVU (R306). Move the troupe-start value of a uniform register. -/
  | movu (d : BitVec 7) (s : BitVec 9)
  /-- LDC (R44). Load a literal word through the instruction cache. -/
  | ldc (d : BitVec 7) (i : BitVec 18)
  /-- PSET (R304). Predicate truth-table combination. -/
  | pset (p : BitVec 5) (a : BitVec 5) (b : BitVec 5) (c : BitVec 4) (k : BitVec 2)
  /-- CVTI (R307). Integer width conversion, saturating when narrowing. -/
  | cvti (d : BitVec 7) (a : BitVec 7) (c : BitVec 7) (g : BitVec 3)
  /-- FADD (R323). FP32 add rounded once. -/
  | fadd (d : BitVec 7) (a : BitVec 7) (b : BitVec 7) (g : BitVec 3)
  /-- FSUB (R323). FP32 subtract rounded once. -/
  | fsub (d : BitVec 7) (a : BitVec 7) (b : BitVec 7) (g : BitVec 3)
  /-- FMUL (R323). FP32 multiply rounded once. -/
  | fmul (d : BitVec 7) (a : BitVec 7) (b : BitVec 7) (g : BitVec 3)
  /-- FFMA (R323). FP32 fused multiply-add with vd as addend. -/
  | ffma (d : BitVec 7) (a : BitVec 7) (b : BitVec 7) (g : BitVec 3)
  /-- FMIN (R324). FP32 minimum returning an operand unchanged. -/
  | fmin (d : BitVec 7) (a : BitVec 7) (b : BitVec 7) (g : BitVec 3)
  /-- FMAX (R324). FP32 maximum returning an operand unchanged. -/
  | fmax (d : BitVec 7) (a : BitVec 7) (b : BitVec 7) (g : BitVec 3)
  /-- FCMP (R325). FP32 compare combined into a predicate. -/
  | fcmp (p : BitVec 5) (a : BitVec 7) (b : BitVec 7) (c : BitVec 4) (k : BitVec 2)
  /-- FCLASS (R326). Classify an FP32 value into one result bit. -/
  | fclass (d : BitVec 7) (a : BitVec 7) (g : BitVec 3)
  /-- FRINT (R329). Round FP32 to an integral value. -/
  | frint (d : BitVec 7) (a : BitVec 7) (g : BitVec 3)
  /-- FCVT (R330). Convert between floating formats by kind and element index. -/
  | fcvt (d : BitVec 7) (a : BitVec 7) (c : BitVec 7) (g : BitVec 3)
  /-- FICVT (R332). Convert FP32 to a saturated integer. -/
  | ficvt (d : BitVec 7) (a : BitVec 7) (c : BitVec 7) (g : BitVec 3)
  /-- IFCVT (R333). Convert an integer to FP32. -/
  | ifcvt (d : BitVec 7) (a : BitVec 7) (c : BitVec 7) (g : BitVec 3)
  /-- HADD2 (R328). Packed BF16 or FP16 add. -/
  | hadd2 (d : BitVec 7) (a : BitVec 7) (b : BitVec 7) (g : BitVec 3) (m : BitVec 1)
  /-- HMUL2 (R328). Packed BF16 or FP16 multiply. -/
  | hmul2 (d : BitVec 7) (a : BitVec 7) (b : BitVec 7) (g : BitVec 3) (m : BitVec 1)
  /-- HFMA2 (R328). Packed BF16 or FP16 fused multiply-add. -/
  | hfma2 (d : BitVec 7) (a : BitVec 7) (b : BitVec 7) (g : BitVec 3) (m : BitVec 1)
  /-- HMAX2 (R328). Packed BF16 or FP16 maximum. -/
  | hmax2 (d : BitVec 7) (a : BitVec 7) (b : BitVec 7) (g : BitVec 3) (m : BitVec 1)
  /-- RCP (R334). Correctly rounded reciprocal. -/
  | rcp (d : BitVec 7) (a : BitVec 7) (h : BitVec 4) (g : BitVec 3)
  /-- RSQRT (R334). Correctly rounded reciprocal square root. -/
  | rsqrt (d : BitVec 7) (a : BitVec 7) (h : BitVec 4) (g : BitVec 3)
  /-- SQRT (R334). Correctly rounded square root. -/
  | sqrt (d : BitVec 7) (a : BitVec 7) (h : BitVec 4) (g : BitVec 3)
  /-- EX2 (R334). Correctly rounded 2^x. -/
  | ex2 (d : BitVec 7) (a : BitVec 7) (h : BitVec 4) (g : BitVec 3)
  /-- LG2 (R334). Correctly rounded log2. -/
  | lg2 (d : BitVec 7) (a : BitVec 7) (h : BitVec 4) (g : BitVec 3)
  /-- SINPI (R334). Correctly rounded sin(pi x). -/
  | sinpi (d : BitVec 7) (a : BitVec 7) (h : BitVec 4) (g : BitVec 3)
  /-- COSPI (R334). Correctly rounded cos(pi x). -/
  | cospi (d : BitVec 7) (a : BitVec 7) (h : BitVec 4) (g : BitVec 3)
  /-- TANH (R334). Correctly rounded tanh. -/
  | tanh (d : BitVec 7) (a : BitVec 7) (h : BitVec 4) (g : BitVec 3)
  /-- RNGS (R336). Seed each lane's generator. -/
  | rngs (a : BitVec 7) (g : BitVec 3)
  /-- RNG (R336). Step each lane's generator and return the state. -/
  | rng (d : BitVec 7) (g : BitVec 3)
  /-- DOT4 (R337). Four-way byte dot product accumulated into vd. -/
  | dot4 (d : BitVec 7) (a : BitVec 7) (b : BitVec 7) (g : BitVec 3) (m : BitVec 1)
  /-- SYSR (R308). Read a step-stream special value. -/
  | sysr (d : BitVec 7) (i : BitVec 18)
  /-- BALLOT (R311). Mask of active lanes whose predicate is true. -/
  | ballot (d : BitVec 7) (a : BitVec 5) (g : BitVec 3)
  /-- VANY (R312). Set-wide OR vote into a predicate. -/
  | vany (p : BitVec 5) (a : BitVec 5) (c : BitVec 4) (k : BitVec 2)
  /-- VALL (R312). Set-wide AND vote into a predicate. -/
  | vall (p : BitVec 5) (a : BitVec 5) (c : BitVec 4) (k : BitVec 2)
  /-- SHFL (R313). Read another live lane's register. -/
  | shfl (d : BitVec 7) (a : BitVec 7) (b : BitVec 7) (g : BitVec 3)
  /-- SRED (R316). Set reduction over a fixed lane tree. -/
  | sred (d : BitVec 7) (a : BitVec 7) (c : BitVec 7) (g : BitVec 3)
  /-- SSCAN (R316). Set scan over the fixed lane tree. -/
  | sscan (d : BitVec 7) (a : BitVec 7) (c : BitVec 7) (g : BitVec 3)
  /-- QSWP (R314). Exchange with a partner lane of the quad. -/
  | qswp (d : BitVec 7) (a : BitVec 7) (b : BitVec 7) (g : BitVec 3)
  /-- QBCAST (R314). Broadcast one quad lane's value. -/
  | qbcast (d : BitVec 7) (a : BitVec 7) (b : BitVec 7) (g : BitVec 3)
  /-- MATCH (R315). Mask of active lanes holding an equal value. -/
  | matchLanes (d : BitVec 7) (a : BitVec 7) (b : BitVec 7) (g : BitVec 3)
  /-- ELECT (R312). Predicate true in the lowest or highest live lane. -/
  | elect (p : BitVec 5) (c : BitVec 4) (k : BitVec 2)
  /-- LD (R243). Load from memory into a register group. -/
  | ld (d : BitVec 7) (a : BitVec 7) (h : BitVec 4) (g : BitVec 3) (m : BitVec 4)
  /-- ST (R243). Store a register group into the set's store queue. -/
  | st (d : BitVec 7) (a : BitVec 7) (g : BitVec 3) (m : BitVec 4)
  /-- LDS (R243). Load from scratchpad, waiting on empty lines. -/
  | lds (d : BitVec 7) (a : BitVec 7) (h : BitVec 4) (g : BitVec 3) (m : BitVec 4)
  /-- STS (R243). Store to scratchpad at drain. -/
  | sts (d : BitVec 7) (a : BitVec 7) (g : BitVec 3) (m : BitVec 4)
  /-- AMO (R249). Atomic read-modify-write at the home, as a one-operation chunk. -/
  | amo (d : BitVec 7) (a : BitVec 7) (h : BitVec 4) (g : BitVec 3) (m : BitVec 4)
  /-- RED (R250). Buffered reduction sent at commit, or a commutative-range contribution. -/
  | red (d : BitVec 7) (a : BitVec 7) (g : BitVec 3) (m : BitVec 4)
  /-- WAIT (R254). Close the chunk and spin until a word meets a condition. -/
  | wait (d : BitVec 7) (a : BitVec 7) (g : BitVec 3) (s : BitVec 1) (m : BitVec 3)
  /-- FENCE (R256). Fence; at system scope waits for acknowledgements. -/
  | fence (g : BitVec 3)
  /-- TX_BEG (R262). Open a transaction with a fallback target. -/
  | txBeg (o : BitVec 19)
  /-- TX_END (R263). Resolve lanes and commit the transaction. -/
  | txEnd (p : BitVec 5) (k : BitVec 2)
  /-- TX_ABORT (R264). Abort the transaction with a code. -/
  | txAbort (i : BitVec 8) (g : BitVec 3)
  /-- BAR_ARRIVE (R259). Arrive at a barrier object and return its generation. -/
  | barArrive (d : BitVec 7) (a : BitVec 7) (h : BitVec 4) (g : BitVec 3)
  /-- BAR_WAIT (R260). Wait until the barrier generation changes. -/
  | barWait (d : BitVec 7) (a : BitVec 7) (g : BitVec 3)
  /-- SEAL (R266). Seal or unseal a write-once buffer. -/
  | seal (d : BitVec 7) (a : BitVec 7) (g : BitVec 3)
  /-- CFLUSH (R268). Write dirty host, pooled or peer bytes back to the target. -/
  | cflush (a : BitVec 7) (g : BitVec 3) (n : BitVec 4)
  /-- CINV (R269). Write back, drop and invalidate host, pooled or peer lines. -/
  | cinv (a : BitVec 7) (g : BitVec 3) (n : BitVec 4)
  /-- CPY_IN (R178). Lane copy from memory into scratchpad, taking effect at commit. -/
  | cpyIn (d : BitVec 7) (a : BitVec 7) (g : BitVec 3) (m : BitVec 4)
  /-- CPY_OUT (R178). Lane copy from scratchpad to memory, taking effect at commit. -/
  | cpyOut (d : BitVec 7) (a : BitVec 7) (g : BitVec 3) (m : BitVec 4)
  /-- FE_CLR (R191). Clear full and skip bits of scratchpad lines. -/
  | feClr (a : BitVec 7) (g : BitVec 3) (n : BitVec 4)
  /-- FE_SET (R191). Set full bits of scratchpad lines. -/
  | feSet (a : BitVec 7) (g : BitVec 3) (n : BitVec 4)
  /-- FE_TEST (R192). Test a scratchpad line's full or skip state into a predicate. -/
  | feTest (p : BitVec 5) (a : BitVec 7) (c : BitVec 4) (k : BitVec 2)
  /-- RSB_DRAIN (R193). Wait for every earlier engine operation of the troupe. -/
  | rsbDrain (g : BitVec 3)
  /-- BSUM (R119). Issue reduction commands per lane from parameter blocks. -/
  | bsum (a : BitVec 7) (g : BitVec 3)
  /-- MMA (R351). One matrix step into a tile. -/
  | mma (t : BitVec 4) (a : BitVec 7) (b : BitVec 7) (f : BitVec 3)
  /-- MLOOP (R352). Place a matrix loop engine operation over scratchpad blocks. -/
  | mloop (t : BitVec 4) (a : BitVec 7) (f : BitVec 3)
  /-- MLD (R355). Load a tile quarter from registers. -/
  | mld (t : BitVec 4) (a : BitVec 7) (q : BitVec 2)
  /-- MRD (R355). Read a tile quarter into registers. -/
  | mrd (t : BitVec 4) (a : BitVec 7) (h : BitVec 4) (q : BitVec 2)
  /-- MCLR (R356). Zero a tile and set its type tag. -/
  | mclr (t : BitVec 4)
  /-- MCVT (R357). Place a tile conversion to scratchpad. -/
  | mcvt (t : BitVec 4) (a : BitVec 7) (b : BitVec 7) (f : BitVec 3)
  /-- BRA (R376). Per-thread branch, conditional on a predicate. -/
  | bra (p : BitVec 5) (s : BitVec 1) (o : BitVec 19)
  /-- BRX (R377). Per-thread computed branch. -/
  | brx (a : BitVec 7) (g : BitVec 3)
  /-- CALL (R376). Write return address to v7 and branch. -/
  | call (o : BitVec 19)
  /-- RET (R377). Computed return branch. -/
  | ret (a : BitVec 7) (g : BitVec 3)
  /-- JOIN (R379). Wait for the set's live threads at this address or 64 cycles. -/
  | join (g : BitVec 3)
  /-- EXIT (R378). End each active thread and close the chunk. -/
  | exit (g : BitVec 3)
  /-- YIELD (R379). Make the thread not ready for 32 cycles. -/
  | yield (g : BitVec 3)
  /-- NOP (R379). No operation. -/
  | nop (g : BitVec 3)
  /-- TRAP (R452). Raise a software trap with a code. -/
  | trap (a : BitVec 7) (i : BitVec 8) (g : BitVec 3)
  /-- RETT (R454). Return from a step handler to the interrupted threads. -/
  | rett
  /-- BRK (R452). Raise a breakpoint trap. -/
  | brk (i : BitVec 8) (g : BitVec 3)
  /-- SYSW (R456). Write a step-stream special register. -/
  | sysw (d : BitVec 7) (i : BitVec 18)
  /-- NLD (R104). Near-bank load from the unit's stripe. -/
  | nld (d : BitVec 7) (a : BitVec 7) (h : BitVec 4) (g : BitVec 3) (m : BitVec 4)
  /-- NST (R105). Near-bank store, merging partial granules. -/
  | nst (d : BitVec 7) (a : BitVec 7) (g : BitVec 3) (m : BitVec 4)
  /-- NMAC (R106). Near-bank BF16 pair multiply-accumulate. -/
  | nmac (d : BitVec 7) (a : BitVec 7) (h : BitVec 4) (g : BitVec 3) (m : BitVec 4)
  /-- HINT (R37). Hint word modifying the next instruction of its group, in either stream. -/
  | hint (k : BitVec 3) (p : BitVec 22)
  /-- ILLEGAL_INSTRUCTION (R53). A decoded word that is not an instruction raises cause 0x01 precisely. -/
  | illegalInstruction (reason : Nat)
  /-- SADD (R366). Cue 64-bit add. -/
  | sadd (d : BitVec 9) (a : BitVec 8) (b : BitVec 8)
  /-- SSUB (R366). Cue subtract. -/
  | ssub (d : BitVec 9) (a : BitVec 8) (b : BitVec 8)
  /-- SMUL (R366). Cue multiply, low 64 bits. -/
  | smul (d : BitVec 9) (a : BitVec 8) (b : BitVec 8)
  /-- SMULHI (R366). Cue signed high multiply. -/
  | smulhi (d : BitVec 9) (a : BitVec 8) (b : BitVec 8)
  /-- SDIV (R368). Cue signed division. -/
  | sdiv (d : BitVec 9) (a : BitVec 8) (b : BitVec 8)
  /-- SREM (R368). Cue signed remainder. -/
  | srem (d : BitVec 9) (a : BitVec 8) (b : BitVec 8)
  /-- SMIN (R366). Cue signed minimum. -/
  | smin (d : BitVec 9) (a : BitVec 8) (b : BitVec 8)
  /-- SMAX (R366). Cue signed maximum. -/
  | smax (d : BitVec 9) (a : BitVec 8) (b : BitVec 8)
  /-- SAND (R366). Cue bitwise and. -/
  | sand (d : BitVec 9) (a : BitVec 8) (b : BitVec 8)
  /-- SOR (R366). Cue bitwise or. -/
  | sor (d : BitVec 9) (a : BitVec 8) (b : BitVec 8)
  /-- SXOR (R366). Cue bitwise xor. -/
  | sxor (d : BitVec 9) (a : BitVec 8) (b : BitVec 8)
  /-- SANDN (R366). Cue a and not b. -/
  | sandn (d : BitVec 9) (a : BitVec 8) (b : BitVec 8)
  /-- SSHL (R366). Cue shift left. -/
  | sshl (d : BitVec 9) (a : BitVec 8) (b : BitVec 8)
  /-- SSHR (R366). Cue logical shift right. -/
  | sshr (d : BitVec 9) (a : BitVec 8) (b : BitVec 8)
  /-- SSRA (R366). Cue arithmetic shift right. -/
  | ssra (d : BitVec 9) (a : BitVec 8) (b : BitVec 8)
  /-- SBFX (R367). Cue bit-field extract. -/
  | sbfx (d : BitVec 9) (a : BitVec 8) (b : BitVec 8)
  /-- SBFI (R367). Cue bit-field insert. -/
  | sbfi (d : BitVec 9) (a : BitVec 8) (b : BitVec 8)
  /-- SCMP (R369). Cue compare producing a condition mask. -/
  | scmp (d : BitVec 9) (a : BitVec 8) (b : BitVec 8)
  /-- SSEL (R366). Cue select by s[sd] nonzero. -/
  | ssel (d : BitVec 9) (a : BitVec 8) (b : BitVec 8)
  /-- SCLZ (R366). Cue count leading zeros. -/
  | sclz (d : BitVec 9) (a : BitVec 8)
  /-- SADDI (R370). Cue add immediate. -/
  | saddi (d : BitVec 9) (a : BitVec 8) (i : BitVec 8)
  /-- SLI (R370). Cue load sign-extended immediate. -/
  | sli (d : BitVec 9) (i : BitVec 16)
  /-- SLUI (R370). Cue load immediate into the upper half. -/
  | slui (d : BitVec 9) (i : BitVec 16)
  /-- SMOV (R370). Cue move reaching all 512 registers. -/
  | smov (d : BitVec 9) (a : BitVec 9)
  /-- SLDC (R44). Cue load of a 64-bit literal. -/
  | sldc (d : BitVec 9) (i : BitVec 16)
  /-- CUE_SYSR (R371). Cue read of a special value. -/
  | cueSysr (d : BitVec 9) (i : BitVec 16)
  /-- SLD (R270). Cue 8-byte load, one access in cue order. -/
  | sld (d : BitVec 9) (a : BitVec 8) (o : BitVec 4) (h : BitVec 4)
  /-- SST (R270). Cue 8-byte store committed as a one-line chunk. -/
  | sst (d : BitVec 9) (a : BitVec 8) (o : BitVec 4)
  /-- SAMO (R271). Cue atomic selected by a control word. -/
  | samo (d : BitVec 9) (a : BitVec 8) (o : BitVec 4) (h : BitVec 4)
  /-- SFENCE (R257). Cue fence; at system scope waits for acknowledgements. -/
  | sfence
  /-- SWAIT (R255). Cue wait on a memory or scratchpad word. -/
  | swait (d : BitVec 9) (a : BitVec 8) (o : BitVec 4)
  /-- SSEAL (R267). Cue seal or unseal of a write-once buffer. -/
  | sseal (a : BitVec 8) (b : BitVec 8)
  /-- QFILL (R208). Append an entry to a set's pop port. -/
  | qfill (m : BitVec 1) (p : BitVec 3) (a : BitVec 8) (b : BitVec 8)
  /-- QDRAIN (R209). Remove the head entry of a set's push port. -/
  | qdrain (m : BitVec 1) (p : BitVec 3) (a : BitVec 8) (b : BitVec 8)
  /-- QSTAT (R210). Read a set's port and liveness status. -/
  | qstat (d : BitVec 9) (b : BitVec 8)
  /-- TCPY_IN (R185). Issue a tensor copy of a box into scratchpad. -/
  | tcpyIn (a : BitVec 8) (b : BitVec 8)
  /-- TCPY_OUT (R185). Issue a tensor copy of a box to memory. -/
  | tcpyOut (a : BitVec 8) (b : BitVec 8)
  /-- TLAY (R181). Register or invalidate a layout handle. -/
  | tlay (a : BitVec 8) (b : BitVec 8)
  /-- SBRA (R372). Cue conditional branch on a register. -/
  | sbra (c : BitVec 5) (s : BitVec 1) (o : BitVec 19)
  /-- SJMP (R372). Cue unconditional branch. -/
  | sjmp (o : BitVec 19)
  /-- SCALL (R372). Cue call writing s12. -/
  | scall (o : BitVec 19)
  /-- SRET (R373). Cue computed return. -/
  | sret (a : BitVec 8)
  /-- SEXIT (R374). Wait for the cue stream's tensor copies, then end the cue stream. -/
  | sexit
  /-- SYIELD (R375). Skip the troupe in the cue front end for 32 cycles. -/
  | syield
  /-- STRAP (R453). Cue software trap. -/
  | strap (d : BitVec 9) (i : BitVec 16)
  /-- SRETT (R455). Return from the cue handler, applying a copy disposition. -/
  | srett
  /-- CUE_SYSW (R456). Cue write of trap.amask. -/
  | cueSysw (d : BitVec 9) (i : BitVec 16)
  /-- CUE_BSUM (R120). Cue issue of one reduction command. -/
  | cueBsum (a : BitVec 8)
  /-- LSET (R384). Prologue write of a working-copy word. -/
  | lset (f : BitVec 9) (a : BitVec 8)
  /-- LCANCEL (R385). End the prologue run with a status and no grid. -/
  | lcancel (a : BitVec 8)
  /-- LREPEAT (R385). Launch the grid and rerun the prologue after it. -/
  | lrepeat
  /-- LGO (R385). Launch the grid from the working copy. -/
  | lgo
  /-- PROLOGUE_COUNT_LIMIT (R386). 256 counted prologue instructions without an ending instruction end the run. -/
  | prologueCountLimit (launch : Nat)
  /-- REGISTER_WRITE (R6). Write to a register field that has no behaviour of its own. -/
  | registerWrite (world off : Nat) (value : BitVec 64)
  /-- DOORBELL (R426). Doorbell write sets WPTR of a mapped slot. -/
  | doorbell (world slot : Nat) (value : BitVec 32)
  /-- GANG_MAP (R428). Map every queue of a gang or none. -/
  | gangMap (world : Nat)
  /-- GANG_UNMAP (R428). Stop dequeue and unmap every queue of a gang at record boundaries. -/
  | gangUnmap (world : Nat)
  /-- PREEMPT_REQUEUE (R457). Pre-empt placed companies and requeue them; `page` 65 is the management page. -/
  | preemptRequeue (page : Nat)
  /-- PREEMPT_HOLD (R457). Pre-empt placed companies and hold them. -/
  | preemptHold (page : Nat)
  /-- RELEASE_HELD (R460). Release held pre-empted companies for placement. -/
  | releaseHeld (page : Nat)
  /-- CONTEXT_SAVE (R460). Save a halted core's troupes once commits and engines finish. -/
  | contextSave (core : Nat)
  /-- CONTEXT_RESTORE (R462). Restore a company's saved context, checking its tag. -/
  | contextRestore (launch company : Nat)
  /-- VBUF_DECLARE (R91). Declare a versioned buffer and write its windows. -/
  | vbufDeclare (world : Nat)
  /-- VBUF_ADVANCE (R91). Advance a versioned buffer's version. -/
  | vbufAdvance (world : Nat)
  /-- VBUF_WITHDRAW (R91). Withdraw a versioned buffer's windows. -/
  | vbufWithdraw (world : Nat)
  /-- FORM_CHANGE (R90). Change a frame between ordinary and bank-striped form. -/
  | formChange (slice : Nat)
  /-- QUIESCE_POINT (R476). At a world's quiesce point pending commands, home moves and carve changes are performed. -/
  | quiescePoint (world : Nat)
  /-- MSC_BASIC (R492). Restore reset values of MSC_CTL fields. -/
  | mscBasic
  /-- SCHED_BASIC (R492). Restore reset values of CH_SCHED_CTL fields. -/
  | schedBasic
  /-- PWR_BASIC (R492). Restore reset values of PWR_ block fields. -/
  | pwrBasic
  /-- S2_INVALIDATE (R151). Drop a world's TLB entries after a stage-two change. -/
  | s2Invalidate (world : Nat)
  /-- FAULT_RETRY (R160). Driver answers a stage-one fault with retry. -/
  | faultRetry (world : Nat)
  /-- FAULT_ABORT (R160). Driver answers a stage-one fault with abort, refusing the launch. -/
  | faultAbort (world : Nat)
  /-- S2_FAULT_RETRY (R161). Management answers a stage-two fault with retry. -/
  | s2FaultRetry
  /-- S2_FAULT_DENY (R161). Management denies a stage-two fault. -/
  | s2FaultDeny
  /-- LEASE_RELEASE (R156). Release an XL_LEASE entry once unused. -/
  | leaseRelease (world index : Nat)
  /-- LEASE_RECLAIM (R156). Reclaim a non-driver lease entry unused for 100 ms. -/
  | leaseReclaim (world index : Nat)
  /-- DRIVER_LEASE_REQUEST (R164). Grant a driver-held resident lease. -/
  | driverLeaseRequest (world : Nat)
  /-- LEASE_GRANT (R154). Walk, pin and snapshot a resident lease. -/
  | leaseGrant (world index : Nat)
  /-- SLICE_BIND (R477). Bind a world and generate its key set. -/
  | sliceBind
  /-- SLICE_UNBIND (R477). Unbind a world and destroy its key set. -/
  | sliceUnbind
  /-- SLICE_ASSIGN (R477). Assign a slice to a world. -/
  | sliceAssign
  /-- SLICE_RELEASE (R477). Release a slice, destroying the key and dropping its lines. -/
  | sliceRelease
  /-- SLICE_MIGRATE (R478). Copy a slice's frames to another and release the source. -/
  | sliceMigrate
  /-- CLEAR_CONTAINMENT (R477). Release a contained slice. -/
  | clearContainment
  /-- ZEROING_WRITE (R74). Background zeroing writes an encrypted zero granule. -/
  | zeroingWrite (granule : Nat)
  /-- LOCK_INTERFACE_REQUEST (R470). Lock a world's TDISP interface. -/
  | lockInterfaceRequest (world : Nat)
  /-- START_INTERFACE_REQUEST (R470). Move a locked interface to RUN. -/
  | startInterfaceRequest (world : Nat)
  /-- STOP_INTERFACE_REQUEST (R471). Stop a world, releasing slices and renewing its keys. -/
  | stopInterfaceRequest (world : Nat)
  /-- FUNCTION_LEVEL_RESET (R471). Function-level reset of a virtual function. -/
  | functionLevelReset (world : Nat)
  /-- PF_FUNCTION_LEVEL_RESET (R491). Function-level reset of the physical function. -/
  | pfFunctionLevelReset
  /-- INTERFACE_ERROR (R471). A world's interface enters ERROR. -/
  | interfaceError (world : Nat)
  /-- GET_MEASUREMENTS (R472). SPDM measurement request answered by the trust core. -/
  | getMeasurements (world index : Nat)
  /-- KEY_EXCHANGE (R472). SPDM key exchange opening a secured session. -/
  | keyExchange (world : Nat)
  /-- IDE_KM (R475). IDE key programming of a stream. -/
  | ideKm (port stream : Nat)
  /-- FIRMWARE_ACTIVATION (R474). Trust core accepts new choreographer firmware, opening the activation window. -/
  | firmwareActivation (image : Nat)
  /-- ACTIVATION_WINDOW_END (R474). First dequeue under the new image ends the window and raises FWGEN. -/
  | activationWindowEnd
  /-- COLD_RESET (R490). Cold reset runs the bring-up sequence. -/
  | coldReset
  /-- LINK_DOWN (R484). A port goes down; outstanding requests get error responses. -/
  | linkDown (port : Nat)
  /-- LINK_UP (R484). A port retrains and becomes usable. -/
  | linkUp (port : Nat)
  /-- HOST_RESET (R142). Host reset or surprise removal poisons host-held modified lines. -/
  | hostReset
  /-- HOST_MEM_ACCESS (R483). Companion processor CXL.mem access to device memory. -/
  | hostMemAccess (write : Bool) (dpa : Nat) (value : BitVec 64)
  /-- BACK_INVALIDATE (R483). Home snoops a host-held line back before a device access. -/
  | backInvalidate (line : Nat)
  /-- CXL_MEM_RESPONSE (R141). CXL.mem response adjusts the issue window by DevLoad. -/
  | cxlMemResponse (world port devLoad : Nat)
  /-- IDE_CHECK_PASS (R232). Integrity check of unverified data passes. -/
  | ideCheckPass (port : Nat)
  /-- IDE_CHECK_FAIL (R475). Integrity check fails; stream goes insecure and data is poisoned. -/
  | ideCheckFail (port stream : Nat)
  /-- GROUP_FORM (R485). Form a peer group by measuring its members. -/
  | groupForm (group : Nat)
  /-- GROUP_FORMED (R485). Every member has answered and the group becomes formed. -/
  | groupFormed (group : Nat)
  /-- MEMBER_RETURN (R486). An absent member returns and is re-measured. -/
  | memberReturn (group member digest : Nat)
  /-- MEMBER_ABSENCE_TIMEOUT (R486). A member absent over 100 ms is excluded. -/
  | memberAbsenceTimeout (group member : Nat)
  /-- PWR_LEVEL_CHANGE (R487). Host commands a slice performance level. -/
  | pwrLevelChange (slice level : Nat)
  /-- IDLE_REQUEST (R488). Host writes a slice's idle state. -/
  | idleRequest (slice idle : Nat)
  /-- IDLE_ENTER (R488). Slice enters the idle state once no work remains on it. -/
  | idleEnter (slice : Nat)
  /-- IDLE_EXIT_DONE (R488). Idle exit completes and placement resumes. -/
  | idleExitDone (slice : Nat)
  /-- THERMAL_TRIP (R489). Sensor passes 105 C and the slice runs at the L7 clock. -/
  | thermalTrip (slice temp : Nat)
  /-- THERMAL_RECOVER (R489). After 1 ms below 100 C the slice returns to its level. -/
  | thermalRecover (slice temp : Nat)
  /-- THERMAL_LOCKDOWN (R489). Sensor passes 115 C and the device locks down. -/
  | thermalLockdown (slice temp : Nat)
  /-- CONTAINMENT (R479). Uncorrectable slice fault contains the slice. -/
  | containment (slice : Nat)
  /-- LAUNCH_DEQUEUE (R433). Read a launch record into a working copy and advance RPTR. -/
  | launchDequeue (slot : Nat)
  /-- DEPENDENCY_MET (R434). Dependency word reaches 0 or less; bound fields are read and the prologue starts. -/
  | dependencyMet (launch : Nat)
  /-- LAUNCH_ADMISSION (R433). Check the working copy, descriptor and lists and grant leases. -/
  | launchAdmission (launch : Nat)
  /-- PLACEMENT_DECISION (R423). Place head companies by priority and deficit round robin under budgets. -/
  | placementDecision (world : Nat)
  /-- STAGING_COPY (R159). Copy staged regions into each troupe's scratchpad. -/
  | stagingCopy (troupe : Nat)
  /-- TROUPE_START (R211). Troupe starts both streams once staged regions are full. -/
  | troupeStart (troupe : Nat)
  /-- GRID_RUN_END (R413). Every company, command, range and store of a grid run has finished. -/
  | gridRunEnd (launch : Nat)
  /-- PRIORITY_PROMOTION (R422). A waiting head company's effective priority rises after PROMO. -/
  | priorityPromotion (slot : Nat)
  /-- PACING_WINDOW (R421). 10 us budget measure starts or ends pacing of a world's cores. `units` and `scratch` are the charges of its cores'
  matrix, vector and control units, and of their scratchpad and L1, for the cycles in which operations occupied them (R419; log 28). -/
  | pacingWindow (world units scratch : Nat)
  /-- BUNDLER_ROUND (R415). Core forms up to 8 figures in a 4-cycle round. -/
  | bundlerRound (core : Nat)
  /-- CUE_ISSUE (R417). Cue front end issues one ready cue instruction per cycle round robin. -/
  | cueIssue (core : Nat)
  /-- THREAD_AGED (R416). A thread ready 512 cycles without issuing becomes aged. -/
  | threadAged (troupe set lane : Nat)
  /-- JOIN_TIMEOUT (R379). A join proceeds after 64 cycles. -/
  | joinTimeout (troupe set : Nat)
  /-- YIELD_EXPIRY (R379). A yielding thread or syielding troupe becomes ready again after 32 cycles. -/
  | yieldExpiry (troupe set : Nat)
  /-- NB_SET_ISSUE (R94). Near-bank unit issues one set instruction round robin. -/
  | nbSetIssue (slice unit : Nat)
  /-- CHUNK_GRANT_REQUEST (R217). A closed chunk requests grants at its home arbiters. -/
  | chunkGrantRequest (troupe set : Nat)
  /-- SIGNATURE_RECEIVED (R217). A core receives a forwarded write signature and invalidates, squashes or refuses. -/
  | signatureReceived (core troupe set : Nat)
  /-- COMMIT_POINT (R217). All acknowledgements arrive and the chunk commits. -/
  | commitPoint (troupe set : Nat)
  /-- STORE_DRAIN (R217). Committed stores drain to their homes and grants are released. -/
  | storeDrain (troupe set : Nat)
  /-- HOME_ATOMIC_PERFORM (R129). Perform an atomic in the home's memory-port write queue. -/
  | homeAtomicPerform (slice : Nat)
  /-- RED_APPLY (R130). Apply merged red operations at the home in arrival order. -/
  | redApply (slice : Nat)
  /-- PARTIAL_SEND (R134). Send a combining-buffer partial to its home. -/
  | partialSend (core line : Nat)
  /-- SEALED_LINE_EVICT (R137). A sealed line leaves an L1 and decrements RC, freeing a draining buffer. -/
  | sealedLineEvict (core line : Nat)
  /-- L1_MISS_FILL (R146). An L1 miss is translated and filled from the home. -/
  | l1MissFill (core index upset : Nat)
  /-- MSC_EVICT (R122). A home evicts a line, writing dirty bytes back and squashing readers. -/
  | mscEvict (world line upset : Nat)
  /-- GRANULE_READ (R78). Base die reads and checks a granule. -/
  | granuleRead (granule symbols : Nat)
  /-- ROW_RETIREMENT_DONE (R83). Retirement copy ends and waiting bank requests complete. -/
  | rowRetirementDone (slice row : Nat)
  /-- PATROL_VISIT (R84). Patrol scrubber visits a row. -/
  | patrolVisit (slice row : Nat)
  /-- HOT_SCRUB (R82). Hot-list row scrubbed at 64 times patrol rate. -/
  | hotScrub (slice row : Nat)
  /-- PATROL_PERIOD_END (R85). Period ends; unmarked checkpoint rows are scheduled and MISSED counted. -/
  | patrolPeriodEnd (slice : Nat)
  /-- ACTIVATION_WINDOW_EXPIRY (R86). 32 ms activation-count window ends. -/
  | activationWindowExpiry (slice : Nat)
  /-- HOTNESS_RECORD (R162). Every 2^LOG2N-th counted access writes a hotness record. -/
  | hotnessRecord (cluster world : Nat)
  /-- SYSTEM_WAIT_POLL (R254). System-scope wait reads its target at most every 1 us. -/
  | systemWaitPoll (troupe set : Nat)
  /-- TCPY_TRANSFER (R185). Tensor copy transfers a row after the scoreboard admits it. -/
  | tcpyTransfer (core entry row : Nat)
  /-- LANE_COPY_TRANSFER (R178). Lane copy performs its transfers after its chunk commits. -/
  | laneCopyTransfer (core entry lane : Nat)
  /-- COPY_COMPLETE (R188). Copy completes, writes its completion word and frees its entry. -/
  | copyComplete (core entry : Nat)
  /-- MLOOP_RUN (R354). Placed mloop runs its steps once admitted. -/
  | mloopRun (core entry : Nat)
  /-- MCVT_RUN (R358). Placed mcvt converts the tile into scratchpad. -/
  | mcvtRun (core entry : Nat)
  /-- TILE_OP_RETIRE (R349). A tile operation retires, releasing later operations on its tile. -/
  | tileOpRetire (core entry : Nat)
  /-- RED_CMD_EXECUTE (R117). Reduction engine reads sources, writes destination and release-stores CVAL. -/
  | redCmdExecute (slice : Nat)
  /-- NB_ACCESS_RETURN (R107). Near-bank read returns, or fails and defers a trap. -/
  | nbAccessReturn (slice unit : Nat)
  /-- TRAP_TAKEN (R446). A trap is taken once its chunk commits and the action table is applied. -/
  | trapTaken (troupe set : Nat)
  /-- ASYNC_TRAP_ARRIVAL (R494). A trap from outside the figure is taken at the set's next boundary. -/
  | asyncTrapArrival (troupe set : Nat)
  /-- LINK_COMPLETION (R145). A completion, acknowledgement or error response (Unsupported Request, Completer Abort) for an outstanding
  host-region request arrives over a Rilem link. -/
  | linkCompletion (request status : Nat)
  deriving DecidableEq, Repr, Inhabited

end Sys2Proof
end

