-- ==== Sys2Proof/Machine/Turn.lean ====
section
/-! DEFINITION. Who acts next: a figure of step threads, a cue stream, a prologue run, or one of the device's own
steps (20 R415, R417; 16 R383; 95_what_each_step_holds.md). -/

namespace Sys2Proof.Machine

/-- The threads of one set in a figure, at one PC (20 R414, R415): a figure over several sets issues set by set, and `more`
marks the parts after its first. -/
structure Figure where
  troupe : Nat
  set : Nat
  mask : Word
  pc : Nat
  more : Bool
  deriving DecidableEq, Repr, Inhabited

/-- What fetches and issues an encoded instruction. -/
inductive Agent where
  | step (f : Figure)
  | cue (troupe : Nat)
  | prologue (launch : Nat)
  deriving DecidableEq, Repr, Inhabited

/-- One turn of the machine: a step of the device; an issue; what a round does after a figure, which may have been held back; the figures
that have no place in the round yet (20 R414, R415); and a core's next cue instruction after one that stalls (20 R417). -/
inductive Turn where
  | event (i : Instr)
  | issue (a : Agent)
  | settle (f : Figure)
  | spare (fs : List (List Figure))
  | cues (core : Nat)
  deriving DecidableEq, Repr, Inhabited

/-- An issue in progress (02 R37): the group's address, the address of the next word, and the hints met so far. -/
structure Issue where
  agent : Agent
  group : Nat
  word : Nat
  hints : List (Nat × BitVec 22)
  deriving DecidableEq, Repr, Inhabited

end Sys2Proof.Machine
end

