-- ==== Sys2Proof/Config.lean ====
section
/-! DEFINITION. What the manual leaves free: opaque constants with no body, so that no proof can see a value. -/

namespace Sys2Proof.Config

/-- Which agent takes the next turn when none stands on the agenda (log 2): any order of the agents the manual allows. -/
opaque schedule : Nat → Machine.Turn

/-- Periods of the 1.05 GHz reference that a step takes (13 R309; log 2). -/
opaque stepCycles : Nat → Nat

/-- The mean that a set of a launch has measured at a tick: power in 1/524,288 W, and link bytes in 10 microseconds
(20 R419; log 28). -/
opaque setMean : Nat → Nat → Nat × Nat

/-- The lanes of a Rilem port, whose width the manual does not give (25 Table 25-2; log 80). -/
opaque rilemLanes : Nat → Nat

/-- The CXL port a pooled address is routed to (07 Table 7-1 gives none; log 7). -/
opaque poolPort : Nat → Nat

/-- The 32-bit tag of a saved context under a world's key generation (22 R462, 04 R76; log 5). -/
opaque contextTag : Nat → Nat → Nat

/-- A byte of the device sections of a saved company (22 R461): by the tick at which its save began, and its place among them. -/
opaque sectionByte : Nat → Nat → Byte

/-- The trust core's digest of a measurement index of a world at its current generation (24 R472, R473; log 5). -/
opaque measurement : Nat → Nat → Nat → Nat

/-- The digest a peer package answers at group formation (25 R485; log 5). -/
opaque peerDigest : Nat → Nat → Nat

/-- Symbols in error that a tick finds in a granule which a scrub visits (04 R81, R82; log 31): 0 none. -/
opaque upset : Nat → Nat → Nat

/-- The completion status of an access of a target that a step performs itself, by tick and address (07 R145; log 11): 1 is
Unsupported Request or Completer Abort. -/
opaque linkStatus : Nat → Nat → Nat

/-- The number of a descriptor item, by its offset: Table 21-6 reports it in DETAIL and the manual numbers no items
(log 27). -/
opaque descItem : Nat → Nat

end Sys2Proof.Config
end

