-- ==== Sys2Proof/WellFormed.lean ====
section
/-! DEFINITION. Which instructions are well formed: the reserved values of defined fields (reason 0x07 of 02 Table 2-11),
the reserved payload bits of a hint (0x06), and for the device's own steps the ranges of their operands. -/

namespace Sys2Proof

/-- Does a register number start a pair? -/
def oddReg {n : Nat} (r : BitVec n) : Bool := r.toNat % 2 != 0

/-- Is a register number outside the multiples of `m`? -/
def offGroup {n : Nat} (m : Nat) (r : BitVec n) : Bool := r.toNat % m != 0

/-- Reason 0x07 when the condition holds. -/
def bad7 (b : Bool) : List Nat := if b then [0x07] else []

/-- Register group of an access type of 05 Table 5-4: is the base misaligned? -/
def groupOff (m : BitVec 4) (d : BitVec 7) : Bool :=
  (m = 5 && oddReg d) || (m = 6 && offGroup 4 d)

/-- The mod values of the nst column of 05 Table 5-4. -/
def storeMod (m : BitVec 4) : Bool := m = 0 || m = 2 || m = 4 || m = 5 || m = 6

/-- Greatest element index of an fcvt kind (14 Table 14-4). -/
def fcvtLimit (kind : Nat) : Nat :=
  if kind = 0 || kind = 1 || kind = 5 || kind = 6 then 1
  else if kind = 4 || kind = 9 then 7 else 3

/-- Numbers that sysr reads in the step stream (13 Table 13-4, 22 Table 22-6). -/
def stepSysNumber (n : Nat) : Bool :=
  n ≤ 0x0A || (0x10 ≤ n && n ≤ 0x14) || (0x18 ≤ n && n ≤ 0x1D) || n = 0x20 ||
  (0x40 ≤ n && n ≤ 0x44) || (0x100 ≤ n && n ≤ 0x10F) || n = 0x120 || n = 0x121 || n = 0x202 ||
  (0x1000 ≤ n && n ≤ 0x1077)

/-- Numbers that sysw writes in the step stream (22 Table 22-6). -/
def stepSyswNumber (n : Nat) : Bool :=
  n = 0x120 || n = 0x121 || n = 0x202 || (0x1000 ≤ n && n ≤ 0x1077)

/-- Numbers that sysr reads in the cue stream (16 Table 16-3). -/
def cueSysNumber (n : Nat) : Bool :=
  (0x04 ≤ n && n ≤ 0x08) || (0x10 ≤ n && n ≤ 0x14) || n = 0x40 || (0x42 ≤ n && n ≤ 0x44) || n = 0x80

/-- Reasons that a hint word's own payload gives (02 R38, R40, R53). -/
def hintFaults (k : BitVec 3) (p : BitVec 22) : List Nat :=
  let x := p.toNat
  let r6 (b : Bool) : List Nat := if b then [0x06] else []
  match k.toNat with
  | 0 => []
  | 1 => r6 (x / 64 != 0)
  | 2 => r6 (x / 16 != 0) ++ bad7 (decide (4 < x % 8))
  | 3 => r6 (x / 32 != 0) ++ bad7 (decide (4 < x % 8))
  | 4 => r6 (x / 16 != 0) ++ bad7 (nfld x 2 2 == 3)
  | 5 => r6 (x / 4 != 0) ++ bad7 (decide (1 < x % 4))
  | 6 => []
  | _ => r6 (x != 0) ++ [0x07]

/-- The reasons of 02 Table 2-11 that the defined fields of an instruction give by themselves. -/
def Instr.wordFaults : Instr → List Nat
  | .add d a b _ m | .sub d a b _ m => bad7 (m = 1 && (oddReg d || oddReg a || oddReg b))
  | .mad d _ _ _ m => bad7 (m = 1 && oddReg d)
  | .shl d a _ _ m => bad7 (m = 1 && (oddReg d || oddReg a))
  | .shli _ _ i _ | .shri _ _ i _ => bad7 (decide (31 < i.toNat))
  | .cmp _ _ _ c k | .fcmp _ _ _ c k => bad7 (decide (0xB < c.toNat) || k = 3)
  | .pset _ _ _ _ k => bad7 (k = 3)
  | .vany _ _ c k | .vall _ _ c k => bad7 (decide (1 < c.toNat) || k = 3)
  | .elect _ c k => bad7 (decide (1 < c.toNat) || k = 3)
  | .feTest _ _ c k => bad7 (decide (3 < c.toNat) || k = 3)
  | .txEnd _ k => bad7 (k = 3)
  | .cvti d a c _ =>
    bad7 (decide (0x0F < c.toNat) || ((c = 4 || c = 5) && oddReg d) || ((c = 0xC || c = 0xD) && oddReg a))
  | .fcvt _ _ c _ =>
    bad7 (decide (9 < c.toNat % 16) || decide (fcvtLimit (c.toNat % 16) < c.toNat / 16))
  | .ficvt d _ c _ => bad7 (decide (7 < c.toNat) || ((c = 2 || c = 3) && oddReg d))
  | .ifcvt _ a c _ => bad7 (decide (3 < c.toNat) || ((c = 2 || c = 3) && oddReg a))
  | .sysr _ i => bad7 (!stepSysNumber i.toNat)
  | .sysw _ i => bad7 (!stepSyswNumber i.toNat)
  | .cueSysr _ i => bad7 (!cueSysNumber i.toNat)
  | .cueSysw _ i => bad7 (i.toNat != 0x202)
  | .qswp _ _ b _ => bad7 (decide (2 < b.toNat))
  | .qbcast _ _ b _ => bad7 (decide (3 < b.toNat))
  | .matchLanes _ a b _ => bad7 (decide (1 < b.toNat) || (b = 1 && oddReg a))
  | .sred d a c _ => bad7 (decide (0xB < c.toNat) || (c = 0xB && (oddReg d || oddReg a)))
  | .sscan d a c _ =>
    bad7 (decide (0xB < c.toNat % 64) || (c.toNat % 64 == 0xB && (oddReg d || oddReg a)))
  | .ld d a _ _ m => bad7 (decide (6 < m.toNat) || groupOff m d || oddReg a)
  | .lds d _ _ _ m => bad7 (decide (6 < m.toNat) || groupOff m d)
  | .st d a _ m => bad7 (!storeMod m || groupOff m d || oddReg a)
  | .sts d _ _ m => bad7 (!storeMod m || groupOff m d)
  | .nld d _ _ _ m => bad7 (decide (6 < m.toNat) || groupOff m d)
  | .nst d _ _ m => bad7 (!storeMod m || groupOff m d)
  | .nmac d _ _ _ m => bad7 (m != 0 || oddReg d)
  | .amo d a _ _ m =>
    bad7 (decide (0xD < m.toNat) || oddReg a || ((m = 1 || m = 0xA || m = 0xB) && oddReg d) ||
      (m = 0xC && offGroup 4 d))
  | .red d a _ m =>
    bad7 (!(decide (m.toNat ≤ 9) || m = 0xD) || oddReg a || ((m = 1 || m = 9) && oddReg d))
  | .wait _ a _ s m => bad7 (m = 7 || (s = 0 && oddReg a))
  | .barArrive _ a _ _ | .barWait _ a _ | .seal _ a _ => bad7 (oddReg a)
  | .cflush a _ _ | .cinv a _ _ => bad7 (oddReg a)
  | .cpyIn _ a _ m | .cpyOut _ a _ m => bad7 (decide (2 < m.toNat) || oddReg a)
  | .mma _ a b f => bad7 (decide (5 < f.toNat) || offGroup 8 a || offGroup 8 b)
  | .mloop _ a f => bad7 (decide (5 < f.toNat) || offGroup 4 a)
  | .mld _ a _ => bad7 (offGroup 8 a)
  | .mrd _ a _ _ => bad7 (offGroup 8 a)
  | .mcvt _ a _ _ => bad7 (oddReg a)
  | .lset f _ => bad7 (decide (15 < f.toNat))
  | .hint k p => hintFaults k p
  | _ => []

/-- Ranges of the operands of the device's own steps. -/
def Instr.operandsOk : Instr → Bool
  | .illegalInstruction r => decide (r ≤ 0x0C)
  | .registerWrite w o _ => decide (w ≤ 64) && decide (o < 0x2000000)
  | .doorbell w i _ => decide (w ≤ 64) && decide (i < 2048)
  | .gangMap w | .gangUnmap w => decide (w ≤ 64)
  | .preemptRequeue page | .preemptHold page | .releaseHeld page => decide (page ≤ 65)
  | .vbufDeclare w | .vbufAdvance w | .vbufWithdraw w | .quiescePoint w => decide (w ≤ 64)
  | .s2Invalidate w | .faultRetry w | .faultAbort w | .driverLeaseRequest w => decide (w ≤ 64)
  | .leaseRelease w i | .leaseReclaim w i | .leaseGrant w i => decide (w ≤ 64) && decide (i < 256)
  | .lockInterfaceRequest w | .startInterfaceRequest w | .stopInterfaceRequest w
  | .functionLevelReset w | .interfaceError w => decide (1 ≤ w) && decide (w ≤ 64)
  | .getMeasurements w i => decide (w ≤ 64) && decide (1 ≤ i) && decide (i ≤ 6)
  | .keyExchange w | .placementDecision w => decide (w ≤ 64)
  | .ideKm p s => decide (p < 6) && decide (s ≤ 65)
  | .linkDown p | .linkUp p | .ideCheckPass p => decide (p < 6)
  | .ideCheckFail p s => decide (p < 6) && decide (s ≤ 65)
  | .cxlMemResponse w p d => decide (w ≤ 64) && decide (p < 4) && decide (d < 4)
  | .groupForm g | .groupFormed g => decide (g < 8)
  | .memberReturn g m _ | .memberAbsenceTimeout g m => decide (g < 8) && decide (m < 16)
  | .pwrLevelChange k l => decide (k < 64) && decide (l < 8)
  | .idleRequest k l => decide (k < 64) && decide (l < 4)
  | .formChange k | .idleEnter k | .idleExitDone k | .containment k | .homeAtomicPerform k | .redApply k
  | .redCmdExecute k | .patrolPeriodEnd k | .activationWindowExpiry k => decide (k < 64)
  | .thermalTrip k _ | .thermalRecover k _ | .thermalLockdown k _ => decide (k < 64)
  | .rowRetirementDone k _ | .patrolVisit k _ | .hotScrub k _ => decide (k < 64)
  | .launchDequeue i | .priorityPromotion i => decide (i < 2048)
  | .pacingWindow w _ _ => decide (w ≤ 64)
  | .bundlerRound c | .cueIssue c | .l1MissFill c _ _ | .sealedLineEvict c _ | .partialSend c _ => decide (c < 1024)
  | .tcpyTransfer c _ _ | .laneCopyTransfer c _ _ | .copyComplete c _ | .mloopRun c _ | .mcvtRun c _
  | .tileOpRetire c _ | .signatureReceived c _ _ => decide (c < 1024)
  | .nbSetIssue k u | .nbAccessReturn k u => decide (k < 64) && decide (u < 32)
  | .hotnessRecord c w => decide (c < 256) && decide (w ≤ 64)
  | .mscEvict w _ _ => decide (w ≤ 64)
  | _ => true

/-- An instruction whose fields hold no reserved value and whose operands name units that exist. -/
def Instr.wf (i : Instr) : Bool := i.wordFaults.isEmpty && i.operandsOk

end Sys2Proof
end

