-- ==== Sys2Proof/Decode.lean ====
section
/-! DEFINITION. The decoders of 02_instruction_word.md: the two opcode maps, the profiles that restrict them (R51, R52),
the reasons of Table 2-11, what a group's hints and a register file's size add to them, and the encoder. -/

namespace Sys2Proof

/-- The map a row belongs to: the step map, the cue map, both (hint), or none (a step of the device). -/
inductive Side where
  | step | cue | both | event
  deriving DecidableEq, Repr, Inhabited

/-- The front end that decodes a word (02_instruction_word.md, its four front ends). -/
inductive Profile where
  | core | nearBank | cue | prologue
  deriving DecidableEq, Repr, Inhabited

/-- Which map a row's word belongs to. -/
def Instr.side : Instr → Side
  | .add _ _ _ _ _ => .step
  | .sub _ _ _ _ _ => .step
  | .mul _ _ _ _ => .step
  | .mulhi _ _ _ _ _ => .step
  | .mad _ _ _ _ _ => .step
  | .div _ _ _ _ _ => .step
  | .rem _ _ _ _ _ => .step
  | .min _ _ _ _ _ => .step
  | .max _ _ _ _ _ => .step
  | .abs _ _ _ => .step
  | .neg _ _ _ => .step
  | .and _ _ _ _ => .step
  | .or _ _ _ _ => .step
  | .xor _ _ _ _ => .step
  | .andn _ _ _ _ => .step
  | .shl _ _ _ _ _ => .step
  | .shr _ _ _ _ _ => .step
  | .rot _ _ _ _ => .step
  | .bfx _ _ _ _ _ => .step
  | .bfi _ _ _ _ => .step
  | .popc _ _ _ => .step
  | .clz _ _ _ => .step
  | .brev _ _ _ => .step
  | .perm _ _ _ _ => .step
  | .adds _ _ _ _ _ => .step
  | .addi _ _ _ _ => .step
  | .andi _ _ _ _ => .step
  | .ori _ _ _ _ => .step
  | .xori _ _ _ _ => .step
  | .shli _ _ _ _ => .step
  | .shri _ _ _ _ => .step
  | .cmp _ _ _ _ _ => .step
  | .sel _ _ _ _ => .step
  | .mov _ _ _ => .step
  | .movi _ _ => .step
  | .movu _ _ => .step
  | .ldc _ _ => .step
  | .pset _ _ _ _ _ => .step
  | .cvti _ _ _ _ => .step
  | .fadd _ _ _ _ => .step
  | .fsub _ _ _ _ => .step
  | .fmul _ _ _ _ => .step
  | .ffma _ _ _ _ => .step
  | .fmin _ _ _ _ => .step
  | .fmax _ _ _ _ => .step
  | .fcmp _ _ _ _ _ => .step
  | .fclass _ _ _ => .step
  | .frint _ _ _ => .step
  | .fcvt _ _ _ _ => .step
  | .ficvt _ _ _ _ => .step
  | .ifcvt _ _ _ _ => .step
  | .hadd2 _ _ _ _ _ => .step
  | .hmul2 _ _ _ _ _ => .step
  | .hfma2 _ _ _ _ _ => .step
  | .hmax2 _ _ _ _ _ => .step
  | .rcp _ _ _ _ => .step
  | .rsqrt _ _ _ _ => .step
  | .sqrt _ _ _ _ => .step
  | .ex2 _ _ _ _ => .step
  | .lg2 _ _ _ _ => .step
  | .sinpi _ _ _ _ => .step
  | .cospi _ _ _ _ => .step
  | .tanh _ _ _ _ => .step
  | .rngs _ _ => .step
  | .rng _ _ => .step
  | .dot4 _ _ _ _ _ => .step
  | .sysr _ _ => .step
  | .ballot _ _ _ => .step
  | .vany _ _ _ _ => .step
  | .vall _ _ _ _ => .step
  | .shfl _ _ _ _ => .step
  | .sred _ _ _ _ => .step
  | .sscan _ _ _ _ => .step
  | .qswp _ _ _ _ => .step
  | .qbcast _ _ _ _ => .step
  | .matchLanes _ _ _ _ => .step
  | .elect _ _ _ => .step
  | .ld _ _ _ _ _ => .step
  | .st _ _ _ _ => .step
  | .lds _ _ _ _ _ => .step
  | .sts _ _ _ _ => .step
  | .amo _ _ _ _ _ => .step
  | .red _ _ _ _ => .step
  | .wait _ _ _ _ _ => .step
  | .fence _ => .step
  | .txBeg _ => .step
  | .txEnd _ _ => .step
  | .txAbort _ _ => .step
  | .barArrive _ _ _ _ => .step
  | .barWait _ _ _ => .step
  | .seal _ _ _ => .step
  | .cflush _ _ _ => .step
  | .cinv _ _ _ => .step
  | .cpyIn _ _ _ _ => .step
  | .cpyOut _ _ _ _ => .step
  | .feClr _ _ _ => .step
  | .feSet _ _ _ => .step
  | .feTest _ _ _ _ => .step
  | .rsbDrain _ => .step
  | .bsum _ _ => .step
  | .mma _ _ _ _ => .step
  | .mloop _ _ _ => .step
  | .mld _ _ _ => .step
  | .mrd _ _ _ _ => .step
  | .mclr _ => .step
  | .mcvt _ _ _ _ => .step
  | .bra _ _ _ => .step
  | .brx _ _ => .step
  | .call _ => .step
  | .ret _ _ => .step
  | .join _ => .step
  | .exit _ => .step
  | .yield _ => .step
  | .nop _ => .step
  | .trap _ _ _ => .step
  | .rett => .step
  | .brk _ _ => .step
  | .sysw _ _ => .step
  | .nld _ _ _ _ _ => .step
  | .nst _ _ _ _ => .step
  | .nmac _ _ _ _ _ => .step
  | .hint _ _ => .both
  | .illegalInstruction _ => .event
  | .sadd _ _ _ => .cue
  | .ssub _ _ _ => .cue
  | .smul _ _ _ => .cue
  | .smulhi _ _ _ => .cue
  | .sdiv _ _ _ => .cue
  | .srem _ _ _ => .cue
  | .smin _ _ _ => .cue
  | .smax _ _ _ => .cue
  | .sand _ _ _ => .cue
  | .sor _ _ _ => .cue
  | .sxor _ _ _ => .cue
  | .sandn _ _ _ => .cue
  | .sshl _ _ _ => .cue
  | .sshr _ _ _ => .cue
  | .ssra _ _ _ => .cue
  | .sbfx _ _ _ => .cue
  | .sbfi _ _ _ => .cue
  | .scmp _ _ _ => .cue
  | .ssel _ _ _ => .cue
  | .sclz _ _ => .cue
  | .saddi _ _ _ => .cue
  | .sli _ _ => .cue
  | .slui _ _ => .cue
  | .smov _ _ => .cue
  | .sldc _ _ => .cue
  | .cueSysr _ _ => .cue
  | .sld _ _ _ _ => .cue
  | .sst _ _ _ => .cue
  | .samo _ _ _ _ => .cue
  | .sfence => .cue
  | .swait _ _ _ => .cue
  | .sseal _ _ => .cue
  | .qfill _ _ _ _ => .cue
  | .qdrain _ _ _ _ => .cue
  | .qstat _ _ => .cue
  | .tcpyIn _ _ => .cue
  | .tcpyOut _ _ => .cue
  | .tlay _ _ => .cue
  | .sbra _ _ _ => .cue
  | .sjmp _ => .cue
  | .scall _ => .cue
  | .sret _ => .cue
  | .sexit => .cue
  | .syield => .cue
  | .strap _ _ => .cue
  | .srett => .cue
  | .cueSysw _ _ => .cue
  | .cueBsum _ => .cue
  | .lset _ _ => .cue
  | .lcancel _ => .cue
  | .lrepeat => .cue
  | .lgo => .cue
  | .prologueCountLimit _ => .event
  | .registerWrite _ _ _ => .event
  | .doorbell _ _ _ => .event
  | .gangMap _ => .event
  | .gangUnmap _ => .event
  | .preemptRequeue _ => .event
  | .preemptHold _ => .event
  | .releaseHeld _ => .event
  | .contextSave _ => .event
  | .contextRestore _ _ => .event
  | .vbufDeclare _ => .event
  | .vbufAdvance _ => .event
  | .vbufWithdraw _ => .event
  | .formChange _ => .event
  | .quiescePoint _ => .event
  | .mscBasic => .event
  | .schedBasic => .event
  | .pwrBasic => .event
  | .s2Invalidate _ => .event
  | .faultRetry _ => .event
  | .faultAbort _ => .event
  | .s2FaultRetry => .event
  | .s2FaultDeny => .event
  | .leaseRelease _ _ => .event
  | .leaseReclaim _ _ => .event
  | .driverLeaseRequest _ => .event
  | .leaseGrant _ _ => .event
  | .sliceBind => .event
  | .sliceUnbind => .event
  | .sliceAssign => .event
  | .sliceRelease => .event
  | .sliceMigrate => .event
  | .clearContainment => .event
  | .zeroingWrite _ => .event
  | .lockInterfaceRequest _ => .event
  | .startInterfaceRequest _ => .event
  | .stopInterfaceRequest _ => .event
  | .functionLevelReset _ => .event
  | .pfFunctionLevelReset => .event
  | .interfaceError _ => .event
  | .getMeasurements _ _ => .event
  | .keyExchange _ => .event
  | .ideKm _ _ => .event
  | .firmwareActivation _ => .event
  | .activationWindowEnd => .event
  | .coldReset => .event
  | .linkDown _ => .event
  | .linkUp _ => .event
  | .hostReset => .event
  | .hostMemAccess _ _ _ => .event
  | .backInvalidate _ => .event
  | .cxlMemResponse _ _ _ => .event
  | .ideCheckPass _ => .event
  | .ideCheckFail _ _ => .event
  | .groupForm _ => .event
  | .groupFormed _ => .event
  | .memberReturn _ _ _ => .event
  | .memberAbsenceTimeout _ _ => .event
  | .pwrLevelChange _ _ => .event
  | .idleRequest _ _ => .event
  | .idleEnter _ => .event
  | .idleExitDone _ => .event
  | .thermalTrip _ _ => .event
  | .thermalRecover _ _ => .event
  | .thermalLockdown _ _ => .event
  | .containment _ => .event
  | .launchDequeue _ => .event
  | .dependencyMet _ => .event
  | .launchAdmission _ => .event
  | .placementDecision _ => .event
  | .stagingCopy _ => .event
  | .troupeStart _ => .event
  | .gridRunEnd _ => .event
  | .priorityPromotion _ => .event
  | .pacingWindow _ _ _ => .event
  | .bundlerRound _ => .event
  | .cueIssue _ => .event
  | .threadAged _ _ _ => .event
  | .joinTimeout _ _ => .event
  | .yieldExpiry _ _ => .event
  | .nbSetIssue _ _ => .event
  | .chunkGrantRequest _ _ => .event
  | .signatureReceived _ _ _ => .event
  | .commitPoint _ _ => .event
  | .storeDrain _ _ => .event
  | .homeAtomicPerform _ => .event
  | .redApply _ => .event
  | .partialSend _ _ => .event
  | .sealedLineEvict _ _ => .event
  | .l1MissFill _ _ _ => .event
  | .mscEvict _ _ _ => .event
  | .granuleRead _ _ => .event
  | .rowRetirementDone _ _ => .event
  | .patrolVisit _ _ => .event
  | .hotScrub _ _ => .event
  | .patrolPeriodEnd _ => .event
  | .activationWindowExpiry _ => .event
  | .hotnessRecord _ _ => .event
  | .systemWaitPoll _ _ => .event
  | .tcpyTransfer _ _ _ => .event
  | .laneCopyTransfer _ _ _ => .event
  | .copyComplete _ _ => .event
  | .mloopRun _ _ => .event
  | .mcvtRun _ _ => .event
  | .tileOpRetire _ _ => .event
  | .redCmdExecute _ => .event
  | .nbAccessReturn _ _ => .event
  | .trapTaken _ _ => .event
  | .asyncTrapArrival _ _ => .event
  | .linkCompletion _ _ => .event

/-- A reserved field: reason `r` of Table 2-11 when it is not zero. -/
def rz (w : Word) (lo n r : Nat) : List Nat := if fld w lo n = 0 then [] else [r]

/-- Table 2-7 with Table 2-8: the row a step-map word stands on and the reasons its reserved fields give. A nonzero ahead field of a fence,
which both 11 R256 and 02 R36 forbid, is a reserved field here (DESIGN CHOICE, log 83). -/
def stepRow (w : Word) : Option (Instr × List Nat) :=
  match (fld w 25 7).toNat with
  | 0x01 => some (.add (fld w 18 7) (fld w 11 7) (fld w 4 7) (fld w 1 3) (fld w 0 1), [])
  | 0x02 => some (.sub (fld w 18 7) (fld w 11 7) (fld w 4 7) (fld w 1 3) (fld w 0 1), [])
  | 0x03 => some (.mul (fld w 18 7) (fld w 11 7) (fld w 4 7) (fld w 1 3), rz w 0 1 0x06)
  | 0x04 => some (.mulhi (fld w 18 7) (fld w 11 7) (fld w 4 7) (fld w 1 3) (fld w 0 1), [])
  | 0x05 => some (.mad (fld w 18 7) (fld w 11 7) (fld w 4 7) (fld w 1 3) (fld w 0 1), [])
  | 0x06 => some (.div (fld w 18 7) (fld w 11 7) (fld w 4 7) (fld w 1 3) (fld w 0 1), [])
  | 0x07 => some (.rem (fld w 18 7) (fld w 11 7) (fld w 4 7) (fld w 1 3) (fld w 0 1), [])
  | 0x08 => some (.min (fld w 18 7) (fld w 11 7) (fld w 4 7) (fld w 1 3) (fld w 0 1), [])
  | 0x09 => some (.max (fld w 18 7) (fld w 11 7) (fld w 4 7) (fld w 1 3) (fld w 0 1), [])
  | 0x0A => some (.abs (fld w 18 7) (fld w 11 7) (fld w 1 3), rz w 4 7 0x06 ++ rz w 0 1 0x06)
  | 0x0B => some (.neg (fld w 18 7) (fld w 11 7) (fld w 1 3), rz w 4 7 0x06 ++ rz w 0 1 0x06)
  | 0x0C => some (.and (fld w 18 7) (fld w 11 7) (fld w 4 7) (fld w 1 3), rz w 0 1 0x06)
  | 0x0D => some (.or (fld w 18 7) (fld w 11 7) (fld w 4 7) (fld w 1 3), rz w 0 1 0x06)
  | 0x0E => some (.xor (fld w 18 7) (fld w 11 7) (fld w 4 7) (fld w 1 3), rz w 0 1 0x06)
  | 0x0F => some (.andn (fld w 18 7) (fld w 11 7) (fld w 4 7) (fld w 1 3), rz w 0 1 0x06)
  | 0x10 => some (.shl (fld w 18 7) (fld w 11 7) (fld w 4 7) (fld w 1 3) (fld w 0 1), [])
  | 0x11 => some (.shr (fld w 18 7) (fld w 11 7) (fld w 4 7) (fld w 1 3) (fld w 0 1), [])
  | 0x12 => some (.rot (fld w 18 7) (fld w 11 7) (fld w 4 7) (fld w 1 3), rz w 0 1 0x06)
  | 0x13 => some (.bfx (fld w 18 7) (fld w 11 7) (fld w 4 7) (fld w 1 3) (fld w 0 1), [])
  | 0x14 => some (.bfi (fld w 18 7) (fld w 11 7) (fld w 4 7) (fld w 1 3), rz w 0 1 0x06)
  | 0x15 => some (.popc (fld w 18 7) (fld w 11 7) (fld w 1 3), rz w 4 7 0x06 ++ rz w 0 1 0x06)
  | 0x16 => some (.clz (fld w 18 7) (fld w 11 7) (fld w 1 3), rz w 4 7 0x06 ++ rz w 0 1 0x06)
  | 0x17 => some (.brev (fld w 18 7) (fld w 11 7) (fld w 1 3), rz w 4 7 0x06 ++ rz w 0 1 0x06)
  | 0x18 => some (.perm (fld w 18 7) (fld w 11 7) (fld w 4 7) (fld w 1 3), rz w 0 1 0x06)
  | 0x19 => some (.adds (fld w 18 7) (fld w 11 7) (fld w 4 7) (fld w 1 3) (fld w 0 1), [])
  | 0x1A => some (.addi (fld w 18 7) (fld w 11 7) (fld w 3 8) (fld w 0 3), [])
  | 0x1B => some (.andi (fld w 18 7) (fld w 11 7) (fld w 3 8) (fld w 0 3), [])
  | 0x1C => some (.ori (fld w 18 7) (fld w 11 7) (fld w 3 8) (fld w 0 3), [])
  | 0x1D => some (.xori (fld w 18 7) (fld w 11 7) (fld w 3 8) (fld w 0 3), [])
  | 0x1E => some (.shli (fld w 18 7) (fld w 11 7) (fld w 3 8) (fld w 0 3), [])
  | 0x1F => some (.shri (fld w 18 7) (fld w 11 7) (fld w 3 8) (fld w 0 3), [])
  | 0x20 => some (.cmp (fld w 20 5) (fld w 13 7) (fld w 6 7) (fld w 2 4) (fld w 0 2), [])
  | 0x21 => some (.sel (fld w 18 7) (fld w 11 7) (fld w 4 7) (fld w 1 3), rz w 0 1 0x06)
  | 0x22 => some (.mov (fld w 18 7) (fld w 11 7) (fld w 1 3), rz w 4 7 0x06 ++ rz w 0 1 0x06)
  | 0x23 => some (.movi (fld w 18 7) (fld w 0 18), [])
  | 0x24 => some (.movu (fld w 18 7) (fld w 0 9), rz w 9 9 0x06)
  | 0x25 => some (.ldc (fld w 18 7) (fld w 0 18), [])
  | 0x26 => some (.pset (fld w 20 5) (fld w 13 5) (fld w 6 5) (fld w 2 4) (fld w 0 2), rz w 18 2 0x06 ++ rz w 11 2 0x06)
  | 0x27 => some (.cvti (fld w 18 7) (fld w 11 7) (fld w 4 7) (fld w 1 3), rz w 0 1 0x06)
  | 0x28 => some (.fadd (fld w 18 7) (fld w 11 7) (fld w 4 7) (fld w 1 3), rz w 0 1 0x06)
  | 0x29 => some (.fsub (fld w 18 7) (fld w 11 7) (fld w 4 7) (fld w 1 3), rz w 0 1 0x06)
  | 0x2A => some (.fmul (fld w 18 7) (fld w 11 7) (fld w 4 7) (fld w 1 3), rz w 0 1 0x06)
  | 0x2B => some (.ffma (fld w 18 7) (fld w 11 7) (fld w 4 7) (fld w 1 3), rz w 0 1 0x06)
  | 0x2C => some (.fmin (fld w 18 7) (fld w 11 7) (fld w 4 7) (fld w 1 3), rz w 0 1 0x06)
  | 0x2D => some (.fmax (fld w 18 7) (fld w 11 7) (fld w 4 7) (fld w 1 3), rz w 0 1 0x06)
  | 0x2E => some (.fcmp (fld w 20 5) (fld w 13 7) (fld w 6 7) (fld w 2 4) (fld w 0 2), [])
  | 0x2F => some (.fclass (fld w 18 7) (fld w 11 7) (fld w 1 3), rz w 4 7 0x06 ++ rz w 0 1 0x06)
  | 0x30 => some (.frint (fld w 18 7) (fld w 11 7) (fld w 1 3), rz w 4 7 0x07 ++ rz w 0 1 0x06)
  | 0x31 => some (.fcvt (fld w 18 7) (fld w 11 7) (fld w 4 7) (fld w 1 3), rz w 0 1 0x06)
  | 0x32 => some (.ficvt (fld w 18 7) (fld w 11 7) (fld w 4 7) (fld w 1 3), rz w 0 1 0x06)
  | 0x33 => some (.ifcvt (fld w 18 7) (fld w 11 7) (fld w 4 7) (fld w 1 3), rz w 0 1 0x06)
  | 0x34 => some (.hadd2 (fld w 18 7) (fld w 11 7) (fld w 4 7) (fld w 1 3) (fld w 0 1), [])
  | 0x35 => some (.hmul2 (fld w 18 7) (fld w 11 7) (fld w 4 7) (fld w 1 3) (fld w 0 1), [])
  | 0x36 => some (.hfma2 (fld w 18 7) (fld w 11 7) (fld w 4 7) (fld w 1 3) (fld w 0 1), [])
  | 0x37 => some (.hmax2 (fld w 18 7) (fld w 11 7) (fld w 4 7) (fld w 1 3) (fld w 0 1), [])
  | 0x38 => some (.rcp (fld w 18 7) (fld w 11 7) (fld w 7 4) (fld w 4 3), rz w 0 4 0x06)
  | 0x39 => some (.rsqrt (fld w 18 7) (fld w 11 7) (fld w 7 4) (fld w 4 3), rz w 0 4 0x06)
  | 0x3A => some (.sqrt (fld w 18 7) (fld w 11 7) (fld w 7 4) (fld w 4 3), rz w 0 4 0x06)
  | 0x3B => some (.ex2 (fld w 18 7) (fld w 11 7) (fld w 7 4) (fld w 4 3), rz w 0 4 0x06)
  | 0x3C => some (.lg2 (fld w 18 7) (fld w 11 7) (fld w 7 4) (fld w 4 3), rz w 0 4 0x06)
  | 0x3D => some (.sinpi (fld w 18 7) (fld w 11 7) (fld w 7 4) (fld w 4 3), rz w 0 4 0x06)
  | 0x3E => some (.cospi (fld w 18 7) (fld w 11 7) (fld w 7 4) (fld w 4 3), rz w 0 4 0x06)
  | 0x3F => some (.tanh (fld w 18 7) (fld w 11 7) (fld w 7 4) (fld w 4 3), rz w 0 4 0x06)
  | 0x40 => some (.rngs (fld w 11 7) (fld w 1 3), rz w 18 7 0x06 ++ rz w 4 7 0x06 ++ rz w 0 1 0x06)
  | 0x41 => some (.rng (fld w 18 7) (fld w 1 3), rz w 4 14 0x06 ++ rz w 0 1 0x06)
  | 0x42 => some (.dot4 (fld w 18 7) (fld w 11 7) (fld w 4 7) (fld w 1 3) (fld w 0 1), [])
  | 0x43 => some (.sysr (fld w 18 7) (fld w 0 18), [])
  | 0x44 => some (.ballot (fld w 18 7) (fld w 11 5) (fld w 1 3), rz w 16 2 0x06 ++ rz w 4 7 0x06 ++ rz w 0 1 0x06)
  | 0x45 => some (.vany (fld w 20 5) (fld w 13 5) (fld w 2 4) (fld w 0 2), rz w 18 2 0x06 ++ rz w 6 7 0x06)
  | 0x46 => some (.vall (fld w 20 5) (fld w 13 5) (fld w 2 4) (fld w 0 2), rz w 18 2 0x06 ++ rz w 6 7 0x06)
  | 0x47 => some (.shfl (fld w 18 7) (fld w 11 7) (fld w 4 7) (fld w 1 3), rz w 0 1 0x06)
  | 0x48 => some (.sred (fld w 18 7) (fld w 11 7) (fld w 4 7) (fld w 1 3), rz w 0 1 0x06)
  | 0x49 => some (.sscan (fld w 18 7) (fld w 11 7) (fld w 4 7) (fld w 1 3), rz w 0 1 0x06)
  | 0x4A => some (.qswp (fld w 18 7) (fld w 11 7) (fld w 4 7) (fld w 1 3), rz w 0 1 0x06)
  | 0x4B => some (.qbcast (fld w 18 7) (fld w 11 7) (fld w 4 7) (fld w 1 3), rz w 0 1 0x06)
  | 0x4C => some (.matchLanes (fld w 18 7) (fld w 11 7) (fld w 4 7) (fld w 1 3), rz w 0 1 0x06)
  | 0x4D => some (.elect (fld w 20 5) (fld w 2 4) (fld w 0 2), rz w 6 14 0x06)
  | 0x50 => some (.ld (fld w 18 7) (fld w 11 7) (fld w 7 4) (fld w 4 3) (fld w 0 4), [])
  | 0x51 => some (.st (fld w 18 7) (fld w 11 7) (fld w 4 3) (fld w 0 4), rz w 7 4 0x0A)
  | 0x52 => some (.lds (fld w 18 7) (fld w 11 7) (fld w 7 4) (fld w 4 3) (fld w 0 4), [])
  | 0x53 => some (.sts (fld w 18 7) (fld w 11 7) (fld w 4 3) (fld w 0 4), rz w 7 4 0x0A)
  | 0x54 => some (.amo (fld w 18 7) (fld w 11 7) (fld w 7 4) (fld w 4 3) (fld w 0 4), [])
  | 0x55 => some (.red (fld w 18 7) (fld w 11 7) (fld w 4 3) (fld w 0 4), rz w 7 4 0x0A)
  | 0x56 => some (.wait (fld w 18 7) (fld w 11 7) (fld w 4 3) (fld w 3 1) (fld w 0 3), rz w 7 4 0x0A)
  | 0x57 => some (.fence (fld w 4 3), rz w 7 18 0x06 ++ rz w 0 4 0x06)
  | 0x58 => some (.txBeg (fld w 0 19), rz w 19 6 0x06)
  | 0x59 => some (.txEnd (fld w 20 5) (fld w 0 2), rz w 2 18 0x06)
  | 0x5A => some (.txAbort (fld w 3 8) (fld w 0 3), rz w 11 14 0x06)
  | 0x5B => some (.barArrive (fld w 18 7) (fld w 11 7) (fld w 7 4) (fld w 4 3), rz w 0 4 0x06)
  | 0x5C => some (.barWait (fld w 18 7) (fld w 11 7) (fld w 4 3), rz w 7 4 0x0A ++ rz w 0 4 0x06)
  | 0x5D => some (.seal (fld w 18 7) (fld w 11 7) (fld w 4 3), rz w 7 4 0x0A ++ rz w 0 4 0x06)
  | 0x5E => some (.cflush (fld w 11 7) (fld w 4 3) (fld w 0 4), rz w 18 7 0x06 ++ rz w 7 4 0x0A)
  | 0x5F => some (.cinv (fld w 11 7) (fld w 4 3) (fld w 0 4), rz w 18 7 0x06 ++ rz w 7 4 0x0A)
  | 0x60 => some (.cpyIn (fld w 18 7) (fld w 11 7) (fld w 4 3) (fld w 0 4), rz w 7 4 0x0A)
  | 0x61 => some (.cpyOut (fld w 18 7) (fld w 11 7) (fld w 4 3) (fld w 0 4), rz w 7 4 0x0A)
  | 0x62 => some (.feClr (fld w 11 7) (fld w 4 3) (fld w 0 4), rz w 18 7 0x06 ++ rz w 7 4 0x0A)
  | 0x63 => some (.feSet (fld w 11 7) (fld w 4 3) (fld w 0 4), rz w 18 7 0x06 ++ rz w 7 4 0x0A)
  | 0x64 => some (.feTest (fld w 20 5) (fld w 13 7) (fld w 2 4) (fld w 0 2), rz w 6 7 0x06)
  | 0x65 => some (.rsbDrain (fld w 1 3), rz w 4 21 0x06 ++ rz w 0 1 0x06)
  | 0x66 => some (.bsum (fld w 11 7) (fld w 4 3), rz w 18 7 0x06 ++ rz w 7 4 0x0A ++ rz w 0 4 0x06)
  | 0x68 => some (.mma (fld w 21 4) (fld w 14 7) (fld w 7 7) (fld w 0 3), rz w 3 4 0x0A)
  | 0x69 => some (.mloop (fld w 21 4) (fld w 14 7) (fld w 0 3), rz w 7 7 0x06 ++ rz w 3 4 0x0A)
  | 0x6A => some (.mld (fld w 21 4) (fld w 14 7) (fld w 0 2), rz w 7 7 0x06 ++ rz w 3 4 0x0A ++ rz w 2 1 0x07)
  | 0x6B => some (.mrd (fld w 21 4) (fld w 14 7) (fld w 3 4) (fld w 0 2), rz w 7 7 0x06 ++ rz w 2 1 0x07)
  | 0x6C => some (.mclr (fld w 21 4), rz w 7 14 0x06 ++ rz w 3 4 0x0A ++ rz w 0 3 0x06)
  | 0x6D => some (.mcvt (fld w 21 4) (fld w 14 7) (fld w 7 7) (fld w 0 3), rz w 3 4 0x0A)
  | 0x70 => some (.bra (fld w 20 5) (fld w 19 1) (fld w 0 19), [])
  | 0x71 => some (.brx (fld w 11 7) (fld w 1 3), rz w 18 7 0x06 ++ rz w 4 7 0x06 ++ rz w 0 1 0x06)
  | 0x72 => some (.call (fld w 0 19), rz w 19 6 0x06)
  | 0x73 => some (.ret (fld w 11 7) (fld w 1 3), rz w 18 7 0x06 ++ rz w 4 7 0x06 ++ rz w 0 1 0x06)
  | 0x74 => some (.join (fld w 1 3), rz w 4 21 0x06 ++ rz w 0 1 0x06)
  | 0x75 => some (.exit (fld w 1 3), rz w 4 21 0x06 ++ rz w 0 1 0x06)
  | 0x76 => some (.yield (fld w 1 3), rz w 4 21 0x06 ++ rz w 0 1 0x06)
  | 0x77 => some (.nop (fld w 1 3), rz w 4 21 0x06 ++ rz w 0 1 0x06)
  | 0x78 => some (.trap (fld w 11 7) (fld w 3 8) (fld w 0 3), rz w 18 7 0x06)
  | 0x79 => some (.rett, rz w 0 25 0x06)
  | 0x7A => some (.brk (fld w 3 8) (fld w 0 3), rz w 11 14 0x06)
  | 0x7B => some (.sysw (fld w 18 7) (fld w 0 18), [])
  | 0x7C => some (.nld (fld w 18 7) (fld w 11 7) (fld w 7 4) (fld w 4 3) (fld w 0 4), [])
  | 0x7D => some (.nst (fld w 18 7) (fld w 11 7) (fld w 4 3) (fld w 0 4), rz w 7 4 0x0A)
  | 0x7E => some (.nmac (fld w 18 7) (fld w 11 7) (fld w 7 4) (fld w 4 3) (fld w 0 4), [])
  | 0x7F => some (.hint (fld w 22 3) (fld w 0 22), [])
  | _ => none

/-- Table 2-9 with Table 2-10: the row a cue-map word stands on and the reasons its reserved fields give. -/
def cueRow (w : Word) : Option (Instr × List Nat) :=
  match (fld w 25 7).toNat with
  | 0x01 => some (.sadd (fld w 16 9) (fld w 8 8) (fld w 0 8), [])
  | 0x02 => some (.ssub (fld w 16 9) (fld w 8 8) (fld w 0 8), [])
  | 0x03 => some (.smul (fld w 16 9) (fld w 8 8) (fld w 0 8), [])
  | 0x04 => some (.smulhi (fld w 16 9) (fld w 8 8) (fld w 0 8), [])
  | 0x05 => some (.sdiv (fld w 16 9) (fld w 8 8) (fld w 0 8), [])
  | 0x06 => some (.srem (fld w 16 9) (fld w 8 8) (fld w 0 8), [])
  | 0x07 => some (.smin (fld w 16 9) (fld w 8 8) (fld w 0 8), [])
  | 0x08 => some (.smax (fld w 16 9) (fld w 8 8) (fld w 0 8), [])
  | 0x09 => some (.sand (fld w 16 9) (fld w 8 8) (fld w 0 8), [])
  | 0x0A => some (.sor (fld w 16 9) (fld w 8 8) (fld w 0 8), [])
  | 0x0B => some (.sxor (fld w 16 9) (fld w 8 8) (fld w 0 8), [])
  | 0x0C => some (.sandn (fld w 16 9) (fld w 8 8) (fld w 0 8), [])
  | 0x0D => some (.sshl (fld w 16 9) (fld w 8 8) (fld w 0 8), [])
  | 0x0E => some (.sshr (fld w 16 9) (fld w 8 8) (fld w 0 8), [])
  | 0x0F => some (.ssra (fld w 16 9) (fld w 8 8) (fld w 0 8), [])
  | 0x10 => some (.sbfx (fld w 16 9) (fld w 8 8) (fld w 0 8), [])
  | 0x11 => some (.sbfi (fld w 16 9) (fld w 8 8) (fld w 0 8), [])
  | 0x12 => some (.scmp (fld w 16 9) (fld w 8 8) (fld w 0 8), [])
  | 0x13 => some (.ssel (fld w 16 9) (fld w 8 8) (fld w 0 8), [])
  | 0x14 => some (.sclz (fld w 16 9) (fld w 8 8), rz w 0 8 0x06)
  | 0x18 => some (.saddi (fld w 16 9) (fld w 8 8) (fld w 0 8), [])
  | 0x19 => some (.sli (fld w 16 9) (fld w 0 16), [])
  | 0x1A => some (.slui (fld w 16 9) (fld w 0 16), [])
  | 0x1B => some (.smov (fld w 16 9) (fld w 7 9), rz w 0 7 0x06)
  | 0x1C => some (.sldc (fld w 16 9) (fld w 0 16), [])
  | 0x1D => some (.cueSysr (fld w 16 9) (fld w 0 16), [])
  | 0x20 => some (.sld (fld w 16 9) (fld w 8 8) (fld w 4 4) (fld w 0 4), [])
  | 0x21 => some (.sst (fld w 16 9) (fld w 8 8) (fld w 4 4), rz w 0 4 0x0A)
  | 0x22 => some (.samo (fld w 16 9) (fld w 8 8) (fld w 4 4) (fld w 0 4), [])
  | 0x23 => some (.sfence, rz w 0 25 0x06)
  | 0x24 => some (.swait (fld w 16 9) (fld w 8 8) (fld w 4 4), rz w 0 4 0x0A)
  | 0x25 => some (.sseal (fld w 8 8) (fld w 0 8), rz w 16 9 0x06)
  | 0x28 => some (.qfill (fld w 19 1) (fld w 16 3) (fld w 8 8) (fld w 0 8), rz w 20 5 0x06)
  | 0x29 => some (.qdrain (fld w 19 1) (fld w 16 3) (fld w 8 8) (fld w 0 8), rz w 20 5 0x06)
  | 0x2A => some (.qstat (fld w 16 9) (fld w 0 8), rz w 8 8 0x06)
  | 0x2B => some (.tcpyIn (fld w 8 8) (fld w 0 8), rz w 16 9 0x06)
  | 0x2C => some (.tcpyOut (fld w 8 8) (fld w 0 8), rz w 16 9 0x06)
  | 0x2D => some (.tlay (fld w 8 8) (fld w 0 8), rz w 16 9 0x06)
  | 0x30 => some (.sbra (fld w 20 5) (fld w 19 1) (fld w 0 19), [])
  | 0x31 => some (.sjmp (fld w 0 19), rz w 19 6 0x06)
  | 0x32 => some (.scall (fld w 0 19), rz w 19 6 0x06)
  | 0x33 => some (.sret (fld w 8 8), rz w 16 9 0x06 ++ rz w 0 8 0x06)
  | 0x34 => some (.sexit, rz w 0 25 0x06)
  | 0x35 => some (.syield, rz w 0 25 0x06)
  | 0x38 => some (.strap (fld w 16 9) (fld w 0 16), [])
  | 0x39 => some (.srett, rz w 0 25 0x06)
  | 0x3A => some (.cueSysw (fld w 16 9) (fld w 0 16), [])
  | 0x3B => some (.cueBsum (fld w 8 8), rz w 16 9 0x06 ++ rz w 0 8 0x06)
  | 0x70 => some (.lset (fld w 16 9) (fld w 8 8), rz w 0 8 0x06)
  | 0x71 => some (.lcancel (fld w 8 8), rz w 16 9 0x06 ++ rz w 0 8 0x06)
  | 0x72 => some (.lrepeat, rz w 0 25 0x06)
  | 0x73 => some (.lgo, rz w 0 25 0x06)
  | 0x7F => some (.hint (fld w 22 3) (fld w 0 22), [])
  | _ => none

/-- Majors outside the near-bank profile (02 R51). -/
def nearBankBarred (major : Nat) : Bool :=
  (0x50 ≤ major && major ≤ 0x55) || (0x58 ≤ major && major ≤ 0x5A) || (0x5D ≤ major && major ≤ 0x65) ||
  (0x68 ≤ major && major ≤ 0x6D) || major = 0x79

/-- Majors inside the prologue profile (02 R52). -/
def prologueAllowed (major : Nat) : Bool :=
  (0x01 ≤ major && major ≤ 0x14) || (0x18 ≤ major && major ≤ 0x1C) || major = 0x20 || major = 0x30 ||
  major = 0x31 || (0x70 ≤ major && major ≤ 0x73) || major = 0x7F

/-- Reasons 0x02 to 0x05: the major is allocated and the profile bars it. -/
def profileFaults (p : Profile) (w : Word) : List Nat :=
  let major := (fld w 25 7).toNat
  match p with
  | .core => if 0x7C ≤ major && major ≤ 0x7E then [0x02] else []
  | .nearBank => if nearBankBarred major then [0x03] else []
  | .cue => if 0x70 ≤ major && major ≤ 0x73 then [0x04] else []
  | .prologue =>
    if !prologueAllowed major || (major = 0x7F && fld w 22 3 != 0) then [0x05] else []

/-- The row of a word in the map that the front end uses. -/
def rowOf (p : Profile) (w : Word) : Option (Instr × List Nat) :=
  match p with
  | .core | .nearBank => stepRow w
  | .cue | .prologue => cueRow w

/-- The reason of a word that stands on no row. -/
def noRowFaults (p : Profile) (w : Word) : List Nat :=
  (if (fld w 25 7).toNat = 0 then [0x00] else [0x01]) ++ profileFaults p w

/-- Every reason of Table 2-11 that a word gives by itself. -/
def decodeFaults (p : Profile) (w : Word) : List Nat :=
  match rowOf p w with
  | none => noRowFaults p w
  | some (i, rs) => profileFaults p w ++ rs ++ i.wordFaults

/-- Decode one word: the instruction, or the lowest reason why it is none (02 R53). -/
def decode (p : Profile) (w : Word) : Except Nat Instr :=
  match minNat (decodeFaults p w) with
  | some r => .error r
  | none =>
    match rowOf p w with
    | some (i, _) => .ok i
    | none => .error 0x01

/-- Decode the four bytes of a word as memory holds them, little-endian (02 R27). -/
def decodeBytes (p : Profile) (bs : List Byte) : Except Nat Instr :=
  decode p (BitVec.ofNat 32 (leNat bs))

/-- The instruction the decoder reads from a table word. The step map is asked first under the core profile, then the
near-bank profile (nld, nst, nmac), then the cue map: a word of both maps is the step map's (02 R27). -/
def decodeTableWord (nbits w : Nat) : Option Instr :=
  if nbits ≤ 32 then
    let bs := leBytes 4 (w % 2 ^ nbits)
    match decodeBytes .core bs with
    | .ok i => some i
    | .error _ =>
      match decodeBytes .nearBank bs with
      | .ok i => some i
      | .error _ =>
        match decodeBytes .cue bs with
        | .ok i => some i
        | .error _ =>
          match decodeBytes .prologue bs with
          | .ok i => some i
          | .error _ => none
  else none

/-! ### What a group and a register file add -/

/-- The hints of a group, in the order they came (02 R37). -/
abbrev Hints := List (Nat × BitVec 22)

/-- The payload of a group's hint of a kind. -/
def Hints.get (hs : Hints) (k : Nat) : Option Nat :=
  (hs.find? (fun h => h.1 == k)).map (fun h => h.2.toNat)

/-- How a register position uses its registers. -/
inductive Dir where
  | src | dst | both
  deriving DecidableEq, Repr, Inhabited

/-- A vector-register operand: base, number of registers, use. -/
structure VOp where
  base : Nat
  count : Nat
  dir : Dir
  deriving DecidableEq, Repr, Inhabited

/-- One register read. -/
def VOp.s (r : BitVec 7) : VOp := ⟨r.toNat, 1, .src⟩
/-- One register written. -/
def VOp.d (r : BitVec 7) : VOp := ⟨r.toNat, 1, .dst⟩
/-- One register read and written. -/
def VOp.b (r : BitVec 7) : VOp := ⟨r.toNat, 1, .both⟩
/-- A group of registers. -/
def VOp.g (r : BitVec 7) (n : Nat) (x : Dir) : VOp := ⟨r.toNat, n, x⟩

/-- Registers in a group of an access type (05 Table 5-4). -/
def groupSize (m : BitVec 4) : Nat := if m = 5 then 2 else if m = 6 then 4 else 1

/-- Registers in an amo or red operand group (11 Table 11-3). -/
def amoGroup (isAmo : Bool) (m : BitVec 4) : Nat :=
  if m = 1 || m = 0xA || m = 0xB then 2
  else if m = 0xC then 4
  else if m = 9 then (if isAmo then 1 else 2) else 1

/-- The vector registers an instruction names. -/
def Instr.vops : Instr → List VOp
  | .add d a b _ m | .sub d a b _ m =>
    if m = 1 then [.g d 2 .dst, .g a 2 .src, .g b 2 .src] else [.d d, .s a, .s b]
  | .mul d a b _ | .mulhi d a b _ _ | .div d a b _ _ | .rem d a b _ _ | .min d a b _ _ | .max d a b _ _
  | .and d a b _ | .or d a b _ | .xor d a b _ | .andn d a b _ | .shr d a b _ _ | .rot d a b _
  | .bfx d a b _ _ | .adds d a b _ _ => [.d d, .s a, .s b]
  | .mad d a b _ m => if m = 1 then [.g d 2 .both, .s a, .s b] else [.b d, .s a, .s b]
  | .shl d a b _ m => if m = 1 then [.g d 2 .dst, .g a 2 .src, .s b] else [.d d, .s a, .s b]
  | .bfi d a b _ | .perm d a b _ => [.b d, .s a, .s b]
  | .abs d a _ | .neg d a _ | .popc d a _ | .clz d a _ | .brev d a _ | .mov d a _ => [.d d, .s a]
  | .addi d a _ _ | .andi d a _ _ | .ori d a _ _ | .xori d a _ _ | .shli d a _ _ | .shri d a _ _ => [.d d, .s a]
  | .cmp _ a b _ _ | .fcmp _ a b _ _ => [.s a, .s b]
  | .sel d a b _ => [.d d, .s a, .s b]
  | .movi d _ | .movu d _ | .ldc d _ | .sysr d _ => [.d d]
  | .cvti d a c _ =>
    [if c = 4 || c = 5 then .g d 2 .dst else .d d, if c = 0xC || c = 0xD then .g a 2 .src else .s a]
  | .fadd d a b _ | .fsub d a b _ | .fmul d a b _ | .fmin d a b _ | .fmax d a b _ => [.d d, .s a, .s b]
  | .ffma d a b _ => [.b d, .s a, .s b]
  | .fclass d a _ | .frint d a _ => [.d d, .s a]
  | .fcvt d a c _ => [if c.toNat % 16 < 5 then .d d else .b d, .s a]
  | .ficvt d a c _ => [if c = 2 || c = 3 then .g d 2 .dst else .d d, .s a]
  | .ifcvt d a c _ => [.d d, if c = 2 || c = 3 then .g a 2 .src else .s a]
  | .hadd2 d a b _ _ | .hmul2 d a b _ _ | .hmax2 d a b _ _ => [.d d, .s a, .s b]
  | .hfma2 d a b _ _ | .dot4 d a b _ _ => [.b d, .s a, .s b]
  | .rcp d a _ _ | .rsqrt d a _ _ | .sqrt d a _ _ | .ex2 d a _ _ | .lg2 d a _ _ | .sinpi d a _ _
  | .cospi d a _ _ | .tanh d a _ _ => [.d d, .s a]
  | .rngs a _ => [.s a]
  | .rng d _ | .ballot d _ _ => [.d d]
  | .shfl d a b _ => [.d d, .s a, .s b]
  | .sred d a c _ | .sscan d a c _ =>
    if c.toNat % 64 = 0xB then [.g d 2 .dst, .g a 2 .src] else [.d d, .s a]
  | .qswp d a _ _ | .qbcast d a _ _ => [.d d, .s a]
  | .matchLanes d a b _ => [.d d, if b = 1 then .g a 2 .src else .s a]
  | .ld d a _ _ m => [.g d (groupSize m) .dst, .g a 2 .src]
  | .st d a _ m => [.g d (groupSize m) .src, .g a 2 .src]
  | .lds d a _ _ m => [.g d (groupSize m) .dst, .s a]
  | .sts d a _ m => [.g d (groupSize m) .src, .s a]
  | .amo d a _ _ m => [.g d (amoGroup true m) .both, .g a 2 .src]
  | .red d a _ m => [.g d (amoGroup false m) .src, .g a 2 .src]
  | .wait d a _ s _ => [.s d, if s = 0 then .g a 2 .src else .s a]
  | .barArrive d a _ _ => [.d d, .g a 2 .src]
  | .barWait d a _ | .seal d a _ => [.s d, .g a 2 .src]
  | .cflush a _ _ | .cinv a _ _ => [.g a 2 .src]
  | .cpyIn d a _ _ | .cpyOut d a _ _ => [.s d, .g a 2 .src]
  | .feClr a _ _ | .feSet a _ _ | .bsum a _ => [.s a]
  | .feTest _ a _ _ => [.s a]
  | .mma _ a b f => [.g a 8 .src, .g b (if f = 4 then 9 else 8) .src]
  | .mloop _ a _ => [.g a 4 .src]
  | .mld _ a _ => [.g a 8 .src]
  | .mrd _ a _ _ => [.g a 8 .dst]
  | .mcvt _ a b _ => [.g a 2 .src, .s b]
  | .brx a _ | .ret a _ | .trap a _ _ => [.s a]
  | .sysw d _ => [.s d]
  | .nld d a _ _ m => [.g d (groupSize m) .dst, .s a]
  | .nst d a _ m => [.g d (groupSize m) .src, .s a]
  | .nmac d a _ _ _ => [.g d 2 .both, .s a]
  | _ => []

/-- Does the instruction refuse queue ports in every position? The address pairs, groups, copies, matrix and
near-bank operands do (08 R179, 11 R252, 15 R359). -/
def Instr.noPorts : Instr → Bool
  | .cpyIn .. | .cpyOut .. | .amo .. | .mma .. | .mloop .. | .mld .. | .mrd .. | .mcvt .. => true
  | .red .. | .nld .. | .nst .. | .nmac .. => true
  | _ => false

/-- The lookahead count an instruction carries (02 R35). -/
def Instr.ahead : Instr → Nat
  | .rcp _ _ h _ | .rsqrt _ _ h _ | .sqrt _ _ h _ | .ex2 _ _ h _ | .lg2 _ _ h _ | .sinpi _ _ h _
  | .cospi _ _ h _ | .tanh _ _ h _ => h.toNat
  | .ld _ _ h _ _ | .lds _ _ h _ _ | .amo _ _ h _ _ | .nld _ _ h _ _ | .nmac _ _ h _ _ => h.toNat
  | .barArrive _ _ h _ => h.toNat
  | .mrd _ _ h _ => h.toNat
  | .sld _ _ _ h | .samo _ _ _ h => h.toNat
  | _ => 0

/-- The guard field, for the formats that have one (02 Table 2-1). -/
def Instr.guardField : Instr → Option Nat
  | .add _ _ _ g _ | .sub _ _ _ g _ | .mulhi _ _ _ g _ | .mad _ _ _ g _ | .div _ _ _ g _ | .rem _ _ _ g _
  | .min _ _ _ g _ | .max _ _ _ g _ | .shl _ _ _ g _ | .shr _ _ _ g _ | .bfx _ _ _ g _ | .adds _ _ _ g _ => some g.toNat
  | .mul _ _ _ g | .and _ _ _ g | .or _ _ _ g | .xor _ _ _ g | .andn _ _ _ g | .rot _ _ _ g | .bfi _ _ _ g
  | .perm _ _ _ g | .sel _ _ _ g => some g.toNat
  | .abs _ _ g | .neg _ _ g | .popc _ _ g | .clz _ _ g | .brev _ _ g | .mov _ _ g | .fclass _ _ g | .frint _ _ g => some g.toNat
  | .addi _ _ _ g | .andi _ _ _ g | .ori _ _ _ g | .xori _ _ _ g | .shli _ _ _ g | .shri _ _ _ g => some g.toNat
  | .cvti _ _ _ g | .fcvt _ _ _ g | .ficvt _ _ _ g | .ifcvt _ _ _ g => some g.toNat
  | .fadd _ _ _ g | .fsub _ _ _ g | .fmul _ _ _ g | .ffma _ _ _ g | .fmin _ _ _ g | .fmax _ _ _ g => some g.toNat
  | .hadd2 _ _ _ g _ | .hmul2 _ _ _ g _ | .hfma2 _ _ _ g _ | .hmax2 _ _ _ g _ | .dot4 _ _ _ g _ => some g.toNat
  | .rcp _ _ _ g | .rsqrt _ _ _ g | .sqrt _ _ _ g | .ex2 _ _ _ g | .lg2 _ _ _ g | .sinpi _ _ _ g
  | .cospi _ _ _ g | .tanh _ _ _ g => some g.toNat
  | .rngs _ g | .rng _ g | .brx _ g | .ret _ g | .bsum _ g => some g.toNat
  | .ballot _ _ g => some g.toNat
  | .shfl _ _ _ g | .sred _ _ _ g | .sscan _ _ _ g | .qswp _ _ _ g | .qbcast _ _ _ g | .matchLanes _ _ _ g => some g.toNat
  | .ld _ _ _ g _ | .lds _ _ _ g _ | .amo _ _ _ g _ | .nld _ _ _ g _ | .nmac _ _ _ g _ => some g.toNat
  | .st _ _ g _ | .sts _ _ g _ | .red _ _ g _ | .nst _ _ g _ | .cpyIn _ _ g _ | .cpyOut _ _ g _ => some g.toNat
  | .wait _ _ g _ _ => some g.toNat
  | .fence g | .rsbDrain g | .join g | .exit g | .yield g | .nop g => some g.toNat
  | .txAbort _ g | .brk _ g => some g.toNat
  | .barArrive _ _ _ g => some g.toNat
  | .barWait _ _ g | .seal _ _ g => some g.toNat
  | .cflush _ g _ | .cinv _ g _ | .feClr _ g _ | .feSet _ g _ => some g.toNat
  | .trap _ _ g => some g.toNat
  | _ => none

/-- Instructions that take an IMM hint (02 R39). -/
def Instr.takesImm : Instr → Bool
  | .addi .. | .andi .. | .ori .. | .xori .. | .movi .. | .ldc .. | .bra .. | .call .. | .txBeg .. => true
  | .ld .. | .st .. | .lds .. | .sts .. | .amo .. | .red .. | .wait .. | .barArrive .. | .barWait .. => true
  | .seal .. | .cflush .. | .cinv .. | .cpyIn .. | .cpyOut .. | .feClr .. | .feSet .. | .bsum .. => true
  | .nld .. | .nst .. | .nmac .. => true
  | .saddi .. | .sli .. | .slui .. | .sldc .. | .sld .. | .sst .. | .samo .. | .swait .. => true
  | .sbra .. | .sjmp .. | .scall .. | .tlay .. | .tcpyIn .. | .tcpyOut .. => true
  | _ => false

/-- Rounding modes an instruction's entry lists (14 Table 14-1, 15 R357). -/
def Instr.takesRound (i : Instr) (p : Nat) : Bool :=
  match i with
  | .fadd .. | .fsub .. | .fmul .. | .ffma .. | .frint .. | .ficvt .. | .ifcvt .. => true
  | .hadd2 .. | .hmul2 .. | .hfma2 .. => true
  | .fcvt _ _ c _ => decide (5 ≤ c.toNat % 16)
  | .mcvt .. => decide (p % 8 < 4)
  | _ => false

/-- Orders of a SCOPE hint that an instruction lists (11 Table 11-1): bit `o` for order `o`. -/
def Instr.scopeOrders : Instr → Nat
  | .ld .. | .wait .. | .barWait .. | .swait .. | .sld .. => 0b0011
  | .st .. | .red .. | .barArrive .. | .sst .. => 0b0101
  | .amo .. | .fence .. | .sfence | .samo .. => 0b1111
  | .cflush .. | .cinv .. => 0b0001
  | _ => 0

/-- Does the instruction accept this hint (02 Table 2-4, R43)? -/
def Instr.accepts (i : Instr) (k p : Nat) : Bool :=
  match k with
  | 0 => i.takesImm
  | 1 => i.guardField == some 0
  | 2 => i.takesRound p
  | 3 => bitAt i.scopeOrders (nfld p 3 2)
  | 4 =>
    match i with
    | .ld .. | .cpyIn .. | .cpyOut .. | .tcpyIn .. | .tcpyOut .. | .sld .. => true
    | .st .. | .sst .. => nfld p 0 2 != 1
    | _ => false
  | 5 => match i with
    | .mclr .. | .mld .. | .mrd .. => true
    | _ => false
  | 6 => match i with
    | .cpyIn .. | .cpyOut .. | .tcpyIn .. | .tcpyOut .. => true
    | _ => false
  | _ => false

/-- The uniform registers an instruction names: base and count. -/
def Instr.sops : Instr → List (Nat × Nat)
  | .sadd d a b | .ssub d a b | .smul d a b | .smulhi d a b | .sdiv d a b | .srem d a b | .smin d a b
  | .smax d a b | .sand d a b | .sor d a b | .sxor d a b | .sandn d a b | .sshl d a b | .sshr d a b
  | .ssra d a b | .sbfx d a b | .sbfi d a b | .scmp d a b | .ssel d a b => [(d.toNat, 1), (a.toNat, 1), (b.toNat, 1)]
  | .sclz d a => [(d.toNat, 1), (a.toNat, 1)]
  | .saddi d a _ => [(d.toNat, 1), (a.toNat, 1)]
  | .sli d _ | .slui d _ | .sldc d _ | .cueSysr d _ => [(d.toNat, 1)]
  | .smov d a => [(d.toNat, 1), (a.toNat, 1)]
  | .sld d a _ _ => [(d.toNat, 1), (a.toNat, 1)]
  | .sst d a _ | .swait d a _ => [(d.toNat, 1), (a.toNat, 1)]
  | .samo d a _ _ => [(d.toNat, 2), (a.toNat, 1)]
  | .sseal a b | .tlay a b => [(a.toNat, 1), (b.toNat, 1)]
  | .qfill _ _ a b | .qdrain _ _ a b => [(a.toNat, 1), (b.toNat, 1)]
  | .qstat d b => [(d.toNat, 1), (b.toNat, 1)]
  | .tcpyIn a b | .tcpyOut a b => [(a.toNat, 1), (b.toNat, 3)]
  | .sbra c _ _ => [(c.toNat, 1)]
  | .scall _ => [(12, 1)]
  | .sret a | .cueBsum a | .lcancel a => [(a.toNat, 1)]
  | .strap d _ | .cueSysw d _ => [(d.toNat, 1)]
  | .lset _ a => [(a.toNat, 1)]
  | .movu _ s => [(s.toNat, 1)]
  | _ => []

/-- What the issuing context adds to a word: the front end, the register files' sizes, whether a cue handler's own
bank stands in for s0 to s15 (22 R450), and the group's hints so far. -/
structure DecodeCtx where
  profile : Profile
  vregs : Nat
  uregs : Nat
  cueHandler : Bool
  hints : Hints
  deriving DecidableEq, Repr, Inhabited

/-- Is a vector operand outside what its position may name (02 R29, 09 R197, R204, 02 R51)? -/
def vopBad (c : DecodeCtx) (noPorts : Bool) (o : VOp) : Bool :=
  let top := o.base + o.count
  let limit := if c.profile = .nearBank then min c.vregs 64 else c.vregs
  let portBad :=
    decide (120 < top) &&
      (noPorts || c.profile = .nearBank || o.count != 1 ||
        (match o.dir with
         | .src => decide (124 ≤ o.base)
         | .dst => decide (o.base < 124)
         | .both => true))
  portBad || (decide (limit < top) && decide (top ≤ 120))

/-- Is a uniform operand outside the usable registers (09 R197, 22 R450)? -/
def sopBad (c : DecodeCtx) (o : Nat × Nat) : Bool :=
  decide (c.uregs < o.1 + o.2) && !(c.cueHandler && decide (o.1 + o.2 ≤ 16))

/-- Does an instruction name a queue port? -/
def Instr.namesPort (i : Instr) : Bool :=
  i.vops.any (fun o => o.count == 1 && decide (120 ≤ o.base))

/-- Reason 0x08 for the registers and ports an instruction names (02 R29, R42; 08 R184; 09 R207). -/
def registerFaults (c : DecodeCtx) (i : Instr) : List Nat :=
  let portDir : Bool := match i with
    | .qfill _ p _ _ => decide (4 ≤ p.toNat)
    | .qdrain _ p _ _ => decide (p.toNat < 4)
    | _ => false
  let cword : Bool := match Hints.get c.hints 6, i with
    | some p, .cpyIn .. | some p, .cpyOut .. => decide (120 ≤ p % 128) || decide (c.vregs ≤ p % 128)
    | some p, .tcpyIn .. | some p, .tcpyOut .. => sopBad c (p % 128, 1)
    | _, _ => false
  let coords : Bool := match i with
    | .tcpyIn _ b | .tcpyOut _ b => decide (253 < b.toNat)
    | _ => false
  if i.vops.any (vopBad c i.noPorts) || i.sops.any (sopBad c) || portDir || cword || coords then [0x08] else []

/-- Reason 0x09 for the hints of the group, or for a hint word among them (02 R41, R43). -/
def hintMisuse (c : DecodeCtx) (i : Instr) : List Nat :=
  match i with
  | .hint k _ =>
    if c.hints.any (fun h => h.1 == k.toNat) ||
        (c.profile = .cue && (k = 1 || k = 2 || k = 5)) then [0x09] else []
  | _ => if c.hints.any (fun h => !i.accepts h.1 h.2.toNat) then [0x09] else []

/-- Every reason that the context adds to a decoded instruction. -/
def contextFaults (c : DecodeCtx) (i : Instr) : List Nat :=
  (match i with
   | .wait _ _ _ s _ => bad7 (c.profile = .nearBank && s = 1)
   | _ => []) ++
  registerFaults c i ++ hintMisuse c i ++
  (if 0 < i.ahead && i.namesPort then [0x0A] else [])

/-- Decode a word where it issues: the instruction, or the illegal-instruction row with the lowest reason (02 R53). -/
def decodeAt (c : DecodeCtx) (w : Word) : Instr :=
  let extra := match rowOf c.profile w with
    | some (i, _) => contextFaults c i
    | none => []
  match minNat (decodeFaults c.profile w ++ extra) with
  | some r => .illegalInstruction r
  | none =>
    match rowOf c.profile w with
    | some (i, _) => i
    | none => .illegalInstruction 0x01

/-! ### The encoder -/

/-- The word of an instruction, each field at its place in Tables 2-1 and 2-3. A row that has no encoding gives the
all-zero word, which is no instruction. -/
def encode : Instr → Word
  | .add d a b g m => 0x01#7 ++ d ++ a ++ b ++ g ++ m
  | .sub d a b g m => 0x02#7 ++ d ++ a ++ b ++ g ++ m
  | .mul d a b g => 0x03#7 ++ d ++ a ++ b ++ g ++ 0#1
  | .mulhi d a b g m => 0x04#7 ++ d ++ a ++ b ++ g ++ m
  | .mad d a b g m => 0x05#7 ++ d ++ a ++ b ++ g ++ m
  | .div d a b g m => 0x06#7 ++ d ++ a ++ b ++ g ++ m
  | .rem d a b g m => 0x07#7 ++ d ++ a ++ b ++ g ++ m
  | .min d a b g m => 0x08#7 ++ d ++ a ++ b ++ g ++ m
  | .max d a b g m => 0x09#7 ++ d ++ a ++ b ++ g ++ m
  | .abs d a g => 0x0A#7 ++ d ++ a ++ 0#7 ++ g ++ 0#1
  | .neg d a g => 0x0B#7 ++ d ++ a ++ 0#7 ++ g ++ 0#1
  | .and d a b g => 0x0C#7 ++ d ++ a ++ b ++ g ++ 0#1
  | .or d a b g => 0x0D#7 ++ d ++ a ++ b ++ g ++ 0#1
  | .xor d a b g => 0x0E#7 ++ d ++ a ++ b ++ g ++ 0#1
  | .andn d a b g => 0x0F#7 ++ d ++ a ++ b ++ g ++ 0#1
  | .shl d a b g m => 0x10#7 ++ d ++ a ++ b ++ g ++ m
  | .shr d a b g m => 0x11#7 ++ d ++ a ++ b ++ g ++ m
  | .rot d a b g => 0x12#7 ++ d ++ a ++ b ++ g ++ 0#1
  | .bfx d a b g m => 0x13#7 ++ d ++ a ++ b ++ g ++ m
  | .bfi d a b g => 0x14#7 ++ d ++ a ++ b ++ g ++ 0#1
  | .popc d a g => 0x15#7 ++ d ++ a ++ 0#7 ++ g ++ 0#1
  | .clz d a g => 0x16#7 ++ d ++ a ++ 0#7 ++ g ++ 0#1
  | .brev d a g => 0x17#7 ++ d ++ a ++ 0#7 ++ g ++ 0#1
  | .perm d a b g => 0x18#7 ++ d ++ a ++ b ++ g ++ 0#1
  | .adds d a b g m => 0x19#7 ++ d ++ a ++ b ++ g ++ m
  | .addi d a i g => 0x1A#7 ++ d ++ a ++ i ++ g
  | .andi d a i g => 0x1B#7 ++ d ++ a ++ i ++ g
  | .ori d a i g => 0x1C#7 ++ d ++ a ++ i ++ g
  | .xori d a i g => 0x1D#7 ++ d ++ a ++ i ++ g
  | .shli d a i g => 0x1E#7 ++ d ++ a ++ i ++ g
  | .shri d a i g => 0x1F#7 ++ d ++ a ++ i ++ g
  | .cmp p a b c k => 0x20#7 ++ p ++ a ++ b ++ c ++ k
  | .sel d a b g => 0x21#7 ++ d ++ a ++ b ++ g ++ 0#1
  | .mov d a g => 0x22#7 ++ d ++ a ++ 0#7 ++ g ++ 0#1
  | .movi d i => 0x23#7 ++ d ++ i
  | .movu d s => 0x24#7 ++ d ++ 0#9 ++ s
  | .ldc d i => 0x25#7 ++ d ++ i
  | .pset p a b c k => 0x26#7 ++ p ++ 0#2 ++ a ++ 0#2 ++ b ++ c ++ k
  | .cvti d a c g => 0x27#7 ++ d ++ a ++ c ++ g ++ 0#1
  | .fadd d a b g => 0x28#7 ++ d ++ a ++ b ++ g ++ 0#1
  | .fsub d a b g => 0x29#7 ++ d ++ a ++ b ++ g ++ 0#1
  | .fmul d a b g => 0x2A#7 ++ d ++ a ++ b ++ g ++ 0#1
  | .ffma d a b g => 0x2B#7 ++ d ++ a ++ b ++ g ++ 0#1
  | .fmin d a b g => 0x2C#7 ++ d ++ a ++ b ++ g ++ 0#1
  | .fmax d a b g => 0x2D#7 ++ d ++ a ++ b ++ g ++ 0#1
  | .fcmp p a b c k => 0x2E#7 ++ p ++ a ++ b ++ c ++ k
  | .fclass d a g => 0x2F#7 ++ d ++ a ++ 0#7 ++ g ++ 0#1
  | .frint d a g => 0x30#7 ++ d ++ a ++ 0#7 ++ g ++ 0#1
  | .fcvt d a c g => 0x31#7 ++ d ++ a ++ c ++ g ++ 0#1
  | .ficvt d a c g => 0x32#7 ++ d ++ a ++ c ++ g ++ 0#1
  | .ifcvt d a c g => 0x33#7 ++ d ++ a ++ c ++ g ++ 0#1
  | .hadd2 d a b g m => 0x34#7 ++ d ++ a ++ b ++ g ++ m
  | .hmul2 d a b g m => 0x35#7 ++ d ++ a ++ b ++ g ++ m
  | .hfma2 d a b g m => 0x36#7 ++ d ++ a ++ b ++ g ++ m
  | .hmax2 d a b g m => 0x37#7 ++ d ++ a ++ b ++ g ++ m
  | .rcp d a h g => 0x38#7 ++ d ++ a ++ h ++ g ++ 0#4
  | .rsqrt d a h g => 0x39#7 ++ d ++ a ++ h ++ g ++ 0#4
  | .sqrt d a h g => 0x3A#7 ++ d ++ a ++ h ++ g ++ 0#4
  | .ex2 d a h g => 0x3B#7 ++ d ++ a ++ h ++ g ++ 0#4
  | .lg2 d a h g => 0x3C#7 ++ d ++ a ++ h ++ g ++ 0#4
  | .sinpi d a h g => 0x3D#7 ++ d ++ a ++ h ++ g ++ 0#4
  | .cospi d a h g => 0x3E#7 ++ d ++ a ++ h ++ g ++ 0#4
  | .tanh d a h g => 0x3F#7 ++ d ++ a ++ h ++ g ++ 0#4
  | .rngs a g => 0x40#7 ++ 0#7 ++ a ++ 0#7 ++ g ++ 0#1
  | .rng d g => 0x41#7 ++ d ++ 0#14 ++ g ++ 0#1
  | .dot4 d a b g m => 0x42#7 ++ d ++ a ++ b ++ g ++ m
  | .sysr d i => 0x43#7 ++ d ++ i
  | .ballot d a g => 0x44#7 ++ d ++ 0#2 ++ a ++ 0#7 ++ g ++ 0#1
  | .vany p a c k => 0x45#7 ++ p ++ 0#2 ++ a ++ 0#7 ++ c ++ k
  | .vall p a c k => 0x46#7 ++ p ++ 0#2 ++ a ++ 0#7 ++ c ++ k
  | .shfl d a b g => 0x47#7 ++ d ++ a ++ b ++ g ++ 0#1
  | .sred d a c g => 0x48#7 ++ d ++ a ++ c ++ g ++ 0#1
  | .sscan d a c g => 0x49#7 ++ d ++ a ++ c ++ g ++ 0#1
  | .qswp d a b g => 0x4A#7 ++ d ++ a ++ b ++ g ++ 0#1
  | .qbcast d a b g => 0x4B#7 ++ d ++ a ++ b ++ g ++ 0#1
  | .matchLanes d a b g => 0x4C#7 ++ d ++ a ++ b ++ g ++ 0#1
  | .elect p c k => 0x4D#7 ++ p ++ 0#14 ++ c ++ k
  | .ld d a h g m => 0x50#7 ++ d ++ a ++ h ++ g ++ m
  | .st d a g m => 0x51#7 ++ d ++ a ++ 0#4 ++ g ++ m
  | .lds d a h g m => 0x52#7 ++ d ++ a ++ h ++ g ++ m
  | .sts d a g m => 0x53#7 ++ d ++ a ++ 0#4 ++ g ++ m
  | .amo d a h g m => 0x54#7 ++ d ++ a ++ h ++ g ++ m
  | .red d a g m => 0x55#7 ++ d ++ a ++ 0#4 ++ g ++ m
  | .wait d a g s m => 0x56#7 ++ d ++ a ++ 0#4 ++ g ++ s ++ m
  | .fence g => 0x57#7 ++ 0#18 ++ g ++ 0#4
  | .txBeg o => 0x58#7 ++ 0#6 ++ o
  | .txEnd p k => 0x59#7 ++ p ++ 0#18 ++ k
  | .txAbort i g => 0x5A#7 ++ 0#14 ++ i ++ g
  | .barArrive d a h g => 0x5B#7 ++ d ++ a ++ h ++ g ++ 0#4
  | .barWait d a g => 0x5C#7 ++ d ++ a ++ 0#4 ++ g ++ 0#4
  | .seal d a g => 0x5D#7 ++ d ++ a ++ 0#4 ++ g ++ 0#4
  | .cflush a g n => 0x5E#7 ++ 0#7 ++ a ++ 0#4 ++ g ++ n
  | .cinv a g n => 0x5F#7 ++ 0#7 ++ a ++ 0#4 ++ g ++ n
  | .cpyIn d a g m => 0x60#7 ++ d ++ a ++ 0#4 ++ g ++ m
  | .cpyOut d a g m => 0x61#7 ++ d ++ a ++ 0#4 ++ g ++ m
  | .feClr a g n => 0x62#7 ++ 0#7 ++ a ++ 0#4 ++ g ++ n
  | .feSet a g n => 0x63#7 ++ 0#7 ++ a ++ 0#4 ++ g ++ n
  | .feTest p a c k => 0x64#7 ++ p ++ a ++ 0#7 ++ c ++ k
  | .rsbDrain g => 0x65#7 ++ 0#21 ++ g ++ 0#1
  | .bsum a g => 0x66#7 ++ 0#7 ++ a ++ 0#4 ++ g ++ 0#4
  | .mma t a b f => 0x68#7 ++ t ++ a ++ b ++ 0#4 ++ f
  | .mloop t a f => 0x69#7 ++ t ++ a ++ 0#7 ++ 0#4 ++ f
  | .mld t a q => 0x6A#7 ++ t ++ a ++ 0#7 ++ 0#4 ++ 0#1 ++ q
  | .mrd t a h q => 0x6B#7 ++ t ++ a ++ 0#7 ++ h ++ 0#1 ++ q
  | .mclr t => 0x6C#7 ++ t ++ 0#14 ++ 0#4 ++ 0#3
  | .mcvt t a b f => 0x6D#7 ++ t ++ a ++ b ++ 0#4 ++ f
  | .bra p s o => 0x70#7 ++ p ++ s ++ o
  | .brx a g => 0x71#7 ++ 0#7 ++ a ++ 0#7 ++ g ++ 0#1
  | .call o => 0x72#7 ++ 0#6 ++ o
  | .ret a g => 0x73#7 ++ 0#7 ++ a ++ 0#7 ++ g ++ 0#1
  | .join g => 0x74#7 ++ 0#21 ++ g ++ 0#1
  | .exit g => 0x75#7 ++ 0#21 ++ g ++ 0#1
  | .yield g => 0x76#7 ++ 0#21 ++ g ++ 0#1
  | .nop g => 0x77#7 ++ 0#21 ++ g ++ 0#1
  | .trap a i g => 0x78#7 ++ 0#7 ++ a ++ i ++ g
  | .rett => 0x79#7 ++ 0#25
  | .brk i g => 0x7A#7 ++ 0#14 ++ i ++ g
  | .sysw d i => 0x7B#7 ++ d ++ i
  | .nld d a h g m => 0x7C#7 ++ d ++ a ++ h ++ g ++ m
  | .nst d a g m => 0x7D#7 ++ d ++ a ++ 0#4 ++ g ++ m
  | .nmac d a h g m => 0x7E#7 ++ d ++ a ++ h ++ g ++ m
  | .hint k p => 0x7F#7 ++ k ++ p
  | .illegalInstruction _ => 0#32
  | .sadd d a b => 0x01#7 ++ d ++ a ++ b
  | .ssub d a b => 0x02#7 ++ d ++ a ++ b
  | .smul d a b => 0x03#7 ++ d ++ a ++ b
  | .smulhi d a b => 0x04#7 ++ d ++ a ++ b
  | .sdiv d a b => 0x05#7 ++ d ++ a ++ b
  | .srem d a b => 0x06#7 ++ d ++ a ++ b
  | .smin d a b => 0x07#7 ++ d ++ a ++ b
  | .smax d a b => 0x08#7 ++ d ++ a ++ b
  | .sand d a b => 0x09#7 ++ d ++ a ++ b
  | .sor d a b => 0x0A#7 ++ d ++ a ++ b
  | .sxor d a b => 0x0B#7 ++ d ++ a ++ b
  | .sandn d a b => 0x0C#7 ++ d ++ a ++ b
  | .sshl d a b => 0x0D#7 ++ d ++ a ++ b
  | .sshr d a b => 0x0E#7 ++ d ++ a ++ b
  | .ssra d a b => 0x0F#7 ++ d ++ a ++ b
  | .sbfx d a b => 0x10#7 ++ d ++ a ++ b
  | .sbfi d a b => 0x11#7 ++ d ++ a ++ b
  | .scmp d a b => 0x12#7 ++ d ++ a ++ b
  | .ssel d a b => 0x13#7 ++ d ++ a ++ b
  | .sclz d a => 0x14#7 ++ d ++ a ++ 0#8
  | .saddi d a i => 0x18#7 ++ d ++ a ++ i
  | .sli d i => 0x19#7 ++ d ++ i
  | .slui d i => 0x1A#7 ++ d ++ i
  | .smov d a => 0x1B#7 ++ d ++ a ++ 0#7
  | .sldc d i => 0x1C#7 ++ d ++ i
  | .cueSysr d i => 0x1D#7 ++ d ++ i
  | .sld d a o h => 0x20#7 ++ d ++ a ++ o ++ h
  | .sst d a o => 0x21#7 ++ d ++ a ++ o ++ 0#4
  | .samo d a o h => 0x22#7 ++ d ++ a ++ o ++ h
  | .sfence => 0x23#7 ++ 0#25
  | .swait d a o => 0x24#7 ++ d ++ a ++ o ++ 0#4
  | .sseal a b => 0x25#7 ++ 0#9 ++ a ++ b
  | .qfill m p a b => 0x28#7 ++ 0#5 ++ m ++ p ++ a ++ b
  | .qdrain m p a b => 0x29#7 ++ 0#5 ++ m ++ p ++ a ++ b
  | .qstat d b => 0x2A#7 ++ d ++ 0#8 ++ b
  | .tcpyIn a b => 0x2B#7 ++ 0#9 ++ a ++ b
  | .tcpyOut a b => 0x2C#7 ++ 0#9 ++ a ++ b
  | .tlay a b => 0x2D#7 ++ 0#9 ++ a ++ b
  | .sbra c s o => 0x30#7 ++ c ++ s ++ o
  | .sjmp o => 0x31#7 ++ 0#6 ++ o
  | .scall o => 0x32#7 ++ 0#6 ++ o
  | .sret a => 0x33#7 ++ 0#9 ++ a ++ 0#8
  | .sexit => 0x34#7 ++ 0#25
  | .syield => 0x35#7 ++ 0#25
  | .strap d i => 0x38#7 ++ d ++ i
  | .srett => 0x39#7 ++ 0#25
  | .cueSysw d i => 0x3A#7 ++ d ++ i
  | .cueBsum a => 0x3B#7 ++ 0#9 ++ a ++ 0#8
  | .lset f a => 0x70#7 ++ f ++ a ++ 0#8
  | .lcancel a => 0x71#7 ++ 0#9 ++ a ++ 0#8
  | .lrepeat => 0x72#7 ++ 0#25
  | .lgo => 0x73#7 ++ 0#25
  | .prologueCountLimit _ => 0#32
  | .registerWrite _ _ _ => 0#32
  | .doorbell _ _ _ => 0#32
  | .gangMap _ => 0#32
  | .gangUnmap _ => 0#32
  | .preemptRequeue _ => 0#32
  | .preemptHold _ => 0#32
  | .releaseHeld _ => 0#32
  | .contextSave _ => 0#32
  | .contextRestore _ _ => 0#32
  | .vbufDeclare _ => 0#32
  | .vbufAdvance _ => 0#32
  | .vbufWithdraw _ => 0#32
  | .formChange _ => 0#32
  | .quiescePoint _ => 0#32
  | .mscBasic => 0#32
  | .schedBasic => 0#32
  | .pwrBasic => 0#32
  | .s2Invalidate _ => 0#32
  | .faultRetry _ => 0#32
  | .faultAbort _ => 0#32
  | .s2FaultRetry => 0#32
  | .s2FaultDeny => 0#32
  | .leaseRelease _ _ => 0#32
  | .leaseReclaim _ _ => 0#32
  | .driverLeaseRequest _ => 0#32
  | .leaseGrant _ _ => 0#32
  | .sliceBind => 0#32
  | .sliceUnbind => 0#32
  | .sliceAssign => 0#32
  | .sliceRelease => 0#32
  | .sliceMigrate => 0#32
  | .clearContainment => 0#32
  | .zeroingWrite _ => 0#32
  | .lockInterfaceRequest _ => 0#32
  | .startInterfaceRequest _ => 0#32
  | .stopInterfaceRequest _ => 0#32
  | .functionLevelReset _ => 0#32
  | .pfFunctionLevelReset => 0#32
  | .interfaceError _ => 0#32
  | .getMeasurements _ _ => 0#32
  | .keyExchange _ => 0#32
  | .ideKm _ _ => 0#32
  | .firmwareActivation _ => 0#32
  | .activationWindowEnd => 0#32
  | .coldReset => 0#32
  | .linkDown _ => 0#32
  | .linkUp _ => 0#32
  | .hostReset => 0#32
  | .hostMemAccess _ _ _ => 0#32
  | .backInvalidate _ => 0#32
  | .cxlMemResponse _ _ _ => 0#32
  | .ideCheckPass _ => 0#32
  | .ideCheckFail _ _ => 0#32
  | .groupForm _ => 0#32
  | .groupFormed _ => 0#32
  | .memberReturn _ _ _ => 0#32
  | .memberAbsenceTimeout _ _ => 0#32
  | .pwrLevelChange _ _ => 0#32
  | .idleRequest _ _ => 0#32
  | .idleEnter _ => 0#32
  | .idleExitDone _ => 0#32
  | .thermalTrip _ _ => 0#32
  | .thermalRecover _ _ => 0#32
  | .thermalLockdown _ _ => 0#32
  | .containment _ => 0#32
  | .launchDequeue _ => 0#32
  | .dependencyMet _ => 0#32
  | .launchAdmission _ => 0#32
  | .placementDecision _ => 0#32
  | .stagingCopy _ => 0#32
  | .troupeStart _ => 0#32
  | .gridRunEnd _ => 0#32
  | .priorityPromotion _ => 0#32
  | .pacingWindow _ _ _ => 0#32
  | .bundlerRound _ => 0#32
  | .cueIssue _ => 0#32
  | .threadAged _ _ _ => 0#32
  | .joinTimeout _ _ => 0#32
  | .yieldExpiry _ _ => 0#32
  | .nbSetIssue _ _ => 0#32
  | .chunkGrantRequest _ _ => 0#32
  | .signatureReceived _ _ _ => 0#32
  | .commitPoint _ _ => 0#32
  | .storeDrain _ _ => 0#32
  | .homeAtomicPerform _ => 0#32
  | .redApply _ => 0#32
  | .partialSend _ _ => 0#32
  | .sealedLineEvict _ _ => 0#32
  | .l1MissFill _ _ _ => 0#32
  | .mscEvict _ _ _ => 0#32
  | .granuleRead _ _ => 0#32
  | .rowRetirementDone _ _ => 0#32
  | .patrolVisit _ _ => 0#32
  | .hotScrub _ _ => 0#32
  | .patrolPeriodEnd _ => 0#32
  | .activationWindowExpiry _ => 0#32
  | .hotnessRecord _ _ => 0#32
  | .systemWaitPoll _ _ => 0#32
  | .tcpyTransfer _ _ _ => 0#32
  | .laneCopyTransfer _ _ _ => 0#32
  | .copyComplete _ _ => 0#32
  | .mloopRun _ _ => 0#32
  | .mcvtRun _ _ => 0#32
  | .tileOpRetire _ _ => 0#32
  | .redCmdExecute _ => 0#32
  | .nbAccessReturn _ _ => 0#32
  | .trapTaken _ _ => 0#32
  | .asyncTrapArrival _ _ => 0#32
  | .linkCompletion _ _ => 0#32

end Sys2Proof
end

