-- ==== Sys2Proof/Machine/Units.lean ====
section
/-! DEFINITION. The state of the units that run code: threads, sets, chunks, troupes and cores
(02 R35; 09; 10; 08; 15; 20; 22). Numbers the manual gives a width are bounded by the operations that write them. -/

namespace Sys2Proof.Machine

/-! ### Traps -/

/-- A trap record (22 Table 22-2). `copy` is the scoreboard entry of an asynchronous copy trap (FLAGS[3]), or
the near-bank read of a deferred one (05 R107);
`after` is the address of the word after the group. -/
structure Trap where
  cause : Nat
  reason : Nat := 0
  flags : Nat := 0
  set : Nat := 0
  low : Nat := 0
  code : Nat := 0
  mask : Word := 0
  fail : Word := 0
  pc : Nat := 0
  addr : Nat := 0
  info : Nat := 0
  time : Nat := 0
  qid : Nat := 0
  seq : Nat := 0
  core : Nat := 0
  world : Nat := 0
  troupe : Nat := 0
  company : Nat := 0
  copy : Option Nat := none
  after : Nat := 0
  deriving DecidableEq, Repr, Inhabited

/-! ### Threads -/

/-- What a held thread, or a stalled cue stream, waits for (20 R414, R417). -/
inductive Wake where
  /-- The set's next chunk may open (10 R217). -/
  | room
  /-- No chunk of the set commits (10 R217). -/
  | commit
  /-- The set's chunks have drained (11 R259). -/
  | drained
  /-- The set's, or the stream's, effects at link targets are acknowledged (10 R229). -/
  | acked
  /-- A scratchpad line of a troupe is full (08 R168). -/
  | line (troupe line : Nat)
  /-- A pop port holds an entry (09 R203). -/
  | pop (port : Nat)
  /-- A push port has room (09 R204). -/
  | push (port : Nat)
  /-- The core's scoreboard has a free entry (08 R175). -/
  | board
  /-- Operations of the troupe's tile have left it (15 R349). -/
  | tile (n : Nat)
  /-- The link's answer to a lane, or to the stream, is here. -/
  | answer (lane : Nat)
  /-- The miss of a line has ended (07 R149). -/
  | filled (va : Nat)
  /-- A near-bank result of a register is here (05 R107). -/
  | owed (reg : Nat)
  /-- A near-bank unit has performed the set's stores (05 R110). -/
  | nbStores
  /-- No draining buffer holds an address (06 R137). -/
  | unsealed (world tcid va : Nat)
  /-- Operations up to a position of the scoreboard have completed (08 R193). -/
  | ops (pos : Nat)
  /-- A word of memory meets a condition (11 R254, R260). -/
  | word (dpa cond : Nat) (v : Word)
  /-- A word of scratchpad in a full line meets a condition. -/
  | pad (troupe off cond : Nat) (v : Word)
  /-- No grant, drain or hold keeps a line from a new write (10 R217). -/
  | clear (world line : Nat)
  /-- No operation keeps bytes of a scratchpad from a store (08 R171). -/
  | unread (troupe lo hi : Nat)
  /-- A port of a set has room, or a committed entry (09 R208, R209). -/
  | port (set port : Nat) (push : Bool)
  deriving DecidableEq, Repr, Inhabited

/-- Why a thread is not ready (20 R414): it gathers at a group whose next word is at `after` (13 R295), waits for its next
poll of a link target (11 R254), or until each of some events. -/
inductive Hold where
  | ready
  | gather (after : Nat)
  | join
  | yield
  | atomic
  | poll
  | until (ws : List Wake)
  deriving DecidableEq, Repr, Inhabited

/-- An open lookahead window (02 R35): instructions left, the pending values, and the near-bank request that still owes
them (05 R107). -/
structure Window where
  left : Nat
  req : Option Nat
  dst : Tab Word
  deriving DecidableEq, Repr, Inhabited

/-- A step thread (09 Table 9-1, 02 R35, 13 R309, 20 R414). `v` lists the bound registers; `p` bit k is pk. -/
structure Thread where
  live : Bool
  pc : Nat
  v : Tab Word
  p : Word
  gen : Word
  clk : DWord
  win : List Window
  hold : Hold
  since : Nat
  aged : Bool
  deriving DecidableEq, Repr, Inhabited

/-- An entry of a queue port (09 R202, R205). `taken` and `pushed` say which chunk has marked or pushed it: 0 none, 1 the
committing chunk, 2 the open one. -/
structure Entry where
  words : List Word
  taken : Nat
  pushed : Nat
  deriving DecidableEq, Repr, Inhabited

/-! ### Chunks -/

/-- A store of a chunk's store queue (10 R215): its target bytes and how it drains (11 R245, 10 R229):
at system scope, with release order, and the CACHE policies (`msc` 11 Table 11-2, 06 R126). -/
structure Store where
  dpa : Nat
  va : Nat
  bytes : List Byte
  lane : Nat
  sys : Bool
  rel : Bool
  l1 : Nat
  msc : Nat
  deriving DecidableEq, Repr, Inhabited

/-- A scratchpad store of a chunk: the allotment's troupe, the offset, the bytes. -/
structure SpStore where
  troupe : Nat
  off : Nat
  bytes : List Byte
  lane : Nat
  deriving DecidableEq, Repr, Inhabited

/-- A buffered reduction (11 R250): lane, target, operation, width and operand; `range` is the live range it contributes to. -/
structure Red where
  lane : Nat
  dpa : Nat
  va : Nat
  op : Nat
  width : Nat
  val : Nat
  sys : Bool
  rel : Bool
  range : Option Nat
  deriving DecidableEq, Repr, Inhabited

/-- An effect of a chunk at a link target, in program order (10 R229; 11 R268). -/
inductive Eff where
  | store (x : Store)
  | red (x : Red)
  | flush (line : Nat)
  deriving DecidableEq, Repr, Inhabited

/-- A pending change of a scratchpad line's full bit (08 R191). -/
structure FeOp where
  troupe : Nat
  line : Nat
  full : Bool
  deriving DecidableEq, Repr, Inhabited

/-- How far a closed chunk has come (10 Table 10-3). -/
inductive Phase where
  | running
  | closed
  | granting (got : List Nat)
  | acking (cores : List Nat) (refused : Bool)
  deriving DecidableEq, Repr, Inhabited

/-- The physical registers of a set (09 R199, R200): `bound` the rename map, `ahead` those taken by results whose windows are still
open, `spilled` the registers that lie in the spill region. -/
structure Names where
  bound : Tab Nat
  ahead : Tab Nat
  spilled : List Nat
  deriving DecidableEq, Repr, Inhabited

/-- A step handler in progress (22 R449): the interrupted threads, the record, the rename map of the interrupted context, and what its
stalled instruction has done already (05 R119; 08 R193). -/
structure Saved where
  threads : List Thread
  trap : Trap
  names : Names
  accepted : Nat := 0
  answers : Tab Nat := []
  deriving DecidableEq, Repr, Inhabited

/-- A chunk of a set (10 R212-R220): checkpoint, counts, what it read and wrote, what waits for its commit; `held` is the interrupted
context as a handler's chunk opened, `txCode` the abort code then, `outs` what goes to link targets, `amask` a new value of `trap.amask`,
`names` the rename map then (09 R201), `unverified` the granules read before their checks ended (R232). `pc` is the group address of its
first instruction, and `first` where it re-executes from: behind a wait that has opened it. -/
structure Chunk where
  start : List Thread
  pc : Nat
  first : Nat
  count : Nat
  stored : Bool
  reads : List Nat
  writes : List Nat
  stores : List Store
  spStores : List SpStore
  fe : List FeOp
  reds : List Red
  copies : List Nat
  seals : List (Nat × Nat)
  outs : List Eff
  spReads : List (Nat × Nat)
  spWrites : List (Nat × Nat)
  tx : Option Nat
  touched : List (Nat × Nat × Bool)
  unverified : List Nat
  phase : Phase
  ticket : Nat × Nat × Nat
  trap : Option Trap
  held : Option Saved
  txCode : Nat
  amask : Option (BitVec 2)
  names : Names
  deriving DecidableEq, Repr, Inhabited

/-- Lanes of an `amo` that wait for their results, with the addresses they name (11 R249). -/
structure Waiting where
  mask : Word
  dst : Nat
  ahead : Nat
  next : Nat
  got : Tab Nat
  wide : Nat
  vas : Tab Nat
  deriving DecidableEq, Repr, Inhabited

/-- A set (09 R202; 10 R217-R219, R235; 22 R442-R451): `squashes` counts those in a row of its chunks, `txSquashes` those of its open
transaction. -/
structure SetState where
  threads : List Thread
  ports : List (List Entry)
  chunk : Option Chunk
  closing : Option Chunk
  squashes : Nat
  txSquashes : Nat
  starving : Bool
  txCode : Nat
  handler : Option Saved
  trapReady : Option Trap
  traps : List Trap
  waiting : Option Waiting
  accepted : Nat
  answers : Tab Nat
  joined : Nat
  retry : Nat
  missed : List Nat
  names : Names
  deriving DecidableEq, Repr, Inhabited

/-! ### Scratchpad, copies and tiles -/

/-- A layout record (08 Table 8-4). -/
structure Layout where
  base : Nat
  dims : List Nat
  strides : List Nat
  box : List Nat
  fmt : Nat
  rank : Nat
  swz : Nat
  fill : Word
  deriving DecidableEq, Repr, Inhabited

/-- The engine operations that hold a scoreboard entry (08 R170). -/
inductive OpKind where
  | tcpyIn
  | tcpyOut
  | cpyIn
  | cpyOut
  | mloop
  | mcvt
  deriving DecidableEq, Repr, Inhabited

/-- A scoreboard interval: offset, end and whether the operation writes it (08 R170). -/
structure Ival where
  lo : Nat
  hi : Nat
  write : Bool
  deriving DecidableEq, Repr, Inhabited

/-- Where a scoreboard operation stands. -/
inductive OpPhase where
  | pending
  | placed
  | moved
  | held (row : Nat) (cause : Nat) (va : Nat)
  deriving DecidableEq, Repr, Inhabited

/-- A scoreboard entry (08 R170-R176, R188, R194; 15 R348). Rows of a lane copy are its lanes: lane, scratchpad offset and virtual address.
`pc` is the group address of the instruction that issued it. `done` lists the pieces transferred; `retired` says that a tile operation has
left its tile, or that a held copy's trap has been sent; `unverified` names the granules moved before their checks ended; `fault` is 1 + the
step at which a held copy faulted, or 0 (08 R196). -/
structure Op where
  kind : OpKind
  troupe : Nat
  set : Nat
  pos : Nat
  ivals : List Ival
  phase : OpPhase
  layout : Layout
  handle : Nat
  coords : List Int
  sp : Nat
  lanes : List (Nat × Nat × Nat)
  width : Nat
  cword : Option (Nat × Word)
  done : List Nat
  sealed : List Nat
  tile : Nat
  fmt : Nat
  args : List Nat
  retired : Bool
  unverified : List Nat
  pc : Nat
  fault : Nat
  deriving DecidableEq, Repr, Inhabited

/-- An accumulator tile (15 R339): the type tag (true INT32) and the elements that are not zero, at 32 r + c. -/
structure Tile where
  int : Bool
  el : Tab Word
  deriving DecidableEq, Repr, Inhabited

/-! ### Troupes and cores -/

/-- An open lookahead window of a cue stream (02 R35). -/
structure CueWindow where
  left : Nat
  dst : Tab DWord
  deriving DecidableEq, Repr, Inhabited

/-- A cue handler in progress (22 R450): its own s0 to s15, the windows its own instructions open, and the record. -/
structure CueHandler where
  bank : Tab DWord
  win : List CueWindow
  trap : Trap
  deriving DecidableEq, Repr, Inhabited

/-- A troupe's cue stream (09 R211; 16 R374, R375; 22 R450, R451). -/
structure Cue where
  pc : Nat
  ended : Bool
  win : List CueWindow
  handler : Option CueHandler
  traps : List Trap
  idle : Bool
  waiting : Bool
  stall : List Wake
  answers : Tab Nat
  deriving DecidableEq, Repr, Inhabited

/-- Where a troupe stands: on a package core, or on a near-bank unit of a slice (05 R96). -/
inductive Place where
  | core (n : Nat)
  | unit (slice n : Nat)
  deriving DecidableEq, Repr, Inhabited

/-- A troupe's spill region (09 R200): the world whose memory it lies in, its home slice and its bytes. -/
structure Spill where
  world : Nat
  home : Nat
  bytes : Nat
  deriving DecidableEq, Repr, Inhabited

/-- A placed troupe (09 R197, R198, R211; 08 R165-R168; 15 R339; 20 R412). `lines` lists the scratchpad lines that
are not full with skip 0. `cmd` is 1 + the page whose command halted the troupe (22 R457), or 0; `seat` is the number in the order of placement that a
restored troupe has, or 0; `stagedTo` counts the pieces of its staging copies that are done (07 R160). -/
structure Troupe where
  launch : Nat
  company : Nat
  index : Nat
  place : Place
  sets : Nat
  vregs : Nat
  uregs : Nat
  tileCount : Nat
  spadSize : Nat
  s : Tab DWord
  first : Tab DWord
  cue : Cue
  amask : BitVec 2
  spad : Tab Byte
  lines : Tab (Bool × Bool)
  tiles : Tab Tile
  setTab : Tab SetState
  started : Bool
  staged : Bool
  halted : Bool
  cmd : Nat
  spill : Option Spill
  seat : Nat := 0
  stagedTo : Nat := 0
  deriving DecidableEq, Repr, Inhabited

/-- A line an L1 holds (07 R146), by its VA and DPA line numbers: presence, not bytes, since every copy equals its home. -/
structure L1Line where
  world : Nat
  tcid : Nat
  va : Nat
  dpa : Nat
  write : Bool
  sealed : Bool
  deriving DecidableEq, Repr, Inhabited

/-- A miss-status entry (07 R149): the line, the lane requests merged into it, the MSC policy of the first and whether an L1 takes the
line (11 Table 11-2), the link request that fetches it, and the cause of an error response. -/
structure Miss where
  world : Nat
  tcid : Nat
  va : Nat
  dpa : Nat
  write : Bool
  merged : Nat
  msc : Nat
  alloc : Bool
  req : Option Nat
  err : Nat
  deriving DecidableEq, Repr, Inhabited

/-- A partial of a line of a commutative range (06 R134): sums by element address. -/
structure Partial where
  world : Nat
  range : Nat
  sums : Tab Nat
  deriving DecidableEq, Repr, Inhabited

/-- A core (07 R146-R149, 06 R134, 08 R170-R175 and Table 8-5, 15 Table 15-7, 20 R415-R417). -/
structure Core where
  l1 : List L1Line
  misses : Tab Miss
  partials : Tab Partial
  ops : Tab Op
  pos : Nat
  pcTable : List Nat
  cueTurn : Nat
  paced : Bool
  halted : Bool
  fullStall : Nat
  opsDone : Nat
  tileStall : Nat
  steps : Nat
  deriving DecidableEq, Repr, Inhabited

/-- A TLB entry (07 R147). -/
structure Tlb where
  world : Nat
  tcid : Nat
  size : Nat
  va : Nat
  dpa : Nat
  w : Bool
  cow : Bool
  p : Bool
  cc : Bool
  deriving DecidableEq, Repr, Inhabited

/-- A hotness sample that waits to be written (07 Table 7-9). -/
structure Sample where
  world : Nat
  va : Nat
  time : Nat
  core : Nat
  kind : Nat
  tcid : Nat
  miss : Bool
  deriving DecidableEq, Repr, Inhabited

/-- A cluster of four cores: its TLB, its hotness counters per world and the samples taken (07 R147, R162). -/
structure Cluster where
  tlb : List Tlb
  hot : Tab Nat
  due : List Sample
  deriving DecidableEq, Repr, Inhabited

/-- A near-bank request that has not returned (05 R107): lanes with their granule-checked addresses. -/
structure NbReq where
  id : Nat
  troupe : Nat
  set : Nat
  pc : Nat
  kind : Nat
  mod : Nat
  dst : Nat
  lanes : List (Nat × Nat)
  data : Tab (List Word)
  deriving DecidableEq, Repr, Inhabited

/-- A near-bank unit (05 R92-R95, Table 5-10). -/
structure NbUnit where
  queue : List NbReq
  turn : Nat
  issued : Nat
  deriving DecidableEq, Repr, Inhabited

end Sys2Proof.Machine
end

