-- ==== Sys2Proof/Machine/Device.lean ====
section
/-! DEFINITION. The state of the device outside the cores: frames, homes, translation, queues and launches, worlds, links
and power (04; 06; 07; 20; 21; 24; 25). Command registers keep their fields; a field a table marks reserved is not kept. -/

namespace Sys2Proof.Machine

/-! ### Memory and homes -/

/-- A granule's sideband where it differs from a clean granule of version 0 (04 R76-R78): the version it was written
under, the poison pattern, stored bytes that no longer match their tag, and the symbols in error. -/
structure Gran where
  ver : Nat
  poison : Bool
  bad : Bool
  syms : Nat
  deriving DecidableEq, Repr, Inhabited

/-- A frame (04 Table 4-1). `fresh` lists the granules written or zeroed since PZ was set (04 R74). -/
structure Frame where
  ownersel : Nat
  striped : Bool
  pinned : Nat
  pz : Bool
  fresh : List Nat
  deriving DecidableEq, Repr, Inhabited

/-- A home's copy of a line of host, pooled or peer memory (06 R122): its bytes and the dirty mask. -/
structure Copy where
  bytes : List Byte
  dirty : BitVec 128
  deriving DecidableEq, Repr, Inhabited

/-- A line at its home (06 R122, R125, R126, R128): up to 2 clusters exactly, or every cluster of the marked slices; its way, 16 for
the sync store; when it was last used; whether it is held as ciphertext. -/
structure HomeLine where
  clusters : List Nat
  slices : List Nat
  retained : Bool
  dirty : Bool
  prot : Bool
  way : Nat
  used : Nat
  deriving DecidableEq, Repr, Inhabited

/-- A committed chunk's effects that wait to drain (10 Table 10-3 step 5): its stores, with the homes whose grants they hold and
their lines, and what goes to link targets, in program order (10 R229); `seals` are registered once it has drained (06 R137). -/
structure Drain where
  troupe : Nat
  set : Nat
  launch : Nat
  world : Nat
  pc : Nat
  stores : List Store
  outs : List Eff
  homes : List Nat
  lines : List Nat
  seals : List (Nat × Nat)
  deriving DecidableEq, Repr, Inhabited

/-- A grant that an arbiter has given and not taken back (10 R217). -/
structure Grant where
  home : Nat
  troupe : Nat
  set : Nat
  lines : List Nat
  deriving DecidableEq, Repr, Inhabited

/-- Who waits for an atomic's old value. -/
inductive Asker where
  | lane (troupe set lane : Nat)
  | cue (troupe : Nat)
  deriving DecidableEq, Repr, Inhabited

/-- An atomic in a memory-port write queue (06 R129); `seq` orders its arrival. -/
structure Atomic where
  seq : Nat
  asker : Asker
  world : Nat
  tcid : Nat
  va : Nat
  dpa : Nat
  op : Nat
  width : Nat
  cmp : Nat
  val : Nat
  deriving DecidableEq, Repr, Inhabited

/-- A reduction that has arrived at its home (06 R130), with the set that a later fault goes to (10 R495). -/
structure RedAt where
  seq : Nat
  red : Red
  world : Nat
  launch : Nat
  troupe : Nat
  set : Nat
  pc : Nat
  deriving DecidableEq, Repr, Inhabited

/-- What a link request does when its completion arrives (10 R229, R230; 07 R145). -/
inductive ReqKind where
  | fill
  | read (n : Nat)
  | write (bytes : List Byte)
  | flush (mask : BitVec 128) (bytes : List Byte)
  | atomic (op width cmp val : Nat)
  deriving DecidableEq, Repr, Inhabited

/-- Who sent a link request. -/
inductive ReqOwner where
  | set (troupe set lane pc : Nat)
  | cue (troupe : Nat)
  | op (core entry row : Nat)
  | launch (launch : Nat)
  | home
  deriving DecidableEq, Repr, Inhabited

/-- An outstanding link request (07 R145, 25 R482): `va` of an atomic, `down` says that its port was down, or its stream insecure, as it was
sent (25 R484), `answered` the cause (0 none) that an atomic's target has answered (11 R240). -/
structure Request where
  kind : ReqKind
  owner : ReqOwner
  world : Nat
  port : Nat
  dpa : Nat
  launch : Nat
  va : Nat := 0
  down : Bool := false
  answered : Option Nat := none
  deriving DecidableEq, Repr, Inhabited

/-! ### Error histories -/

/-- An error record (04 Table 4-7). -/
structure ErrRec where
  time : Nat
  dpa : Nat
  kind : Nat
  syms : Nat
  world : Nat
  pch : Nat
  bank : Nat
  row : Nat
  gen : Nat
  source : Nat
  deriving DecidableEq, Repr, Inhabited

/-- A ring of error records with the count ever written (04 R88, 06 R143): `recs` by index. -/
structure ErrRing where
  count : Nat
  recs : Tab ErrRec
  deriving DecidableEq, Repr, Inhabited

/-- A hot-list entry (04 R82). -/
structure HotRow where
  row : Nat
  score : Nat
  clean : Nat
  deriving DecidableEq, Repr, Inhabited

/-- A version window (04 Table 4-4), and the buffer it belongs to. -/
structure Vwin where
  base : Nat
  len : Nat
  ver : Nat
  world : Nat
  buf : Nat
  deriving DecidableEq, Repr, Inhabited

/-! ### Slices -/

/-- A near-bank window entry (05 Table 5-2). -/
structure NbWin where
  rw : Bool
  frame : Nat
  vpage : Nat
  runbase : Nat
  launch : Nat
  deriving DecidableEq, Repr, Inhabited

/-- An accepted reduction command (05 R113, R116): the block's fields, and its issuer. -/
structure RedCmd where
  launch : Nat
  troupe : Nat
  set : Nat
  lane : Nat
  fromUnit : Bool
  pc : Nat
  dst : Nat
  sbase : Nat
  sstride : Int
  caddr : Nat
  len : Nat
  fmt : Nat
  cval : Word
  smask : Nat
  deriving DecidableEq, Repr, Inhabited

/-- Base-die scrubbing and row state of a slice (04 R82-R89). Rows are numbered by the first granule's DPA >> 17 within
the slice and the bank: `row * 128 + pch * 16 + bgrp * 4 + bank`. `due` lists the rows to catch up with, `left` counts spare rows
(R89), `active` the checkpoint sets in force in this period, by number: first frame and end. -/
structure Scrub where
  period : Nat
  thresh : Nat
  hoten : Bool
  reten : Bool
  ckpt : Tab (Nat × Nat × Bool × Nat)
  hot : Tab (List HotRow)
  spares : Tab Nat
  exhausted : List Nat
  retired : List Nat
  copying : Option Nat
  acts : Tab Nat
  throttled : List Nat
  marked : List Nat
  due : List Nat
  left : Nat
  active : Tab (Nat × Nat)
  corrected : Nat
  uncorrectable : Nat
  mismatches : Nat
  poisons : Nat
  retires : Nat
  deriving DecidableEq, Repr, Inhabited

/-- NB_FORM (04 Table 4-8), with the world that wrote GO. -/
structure FormCmd where
  frame : Nat
  form : Bool
  busy : Bool
  result : Nat
  world : Nat
  later : Tab Nat := []
  deriving DecidableEq, Repr, Inhabited

/-- The arrays of a slice's base die: windows, the reduction engine, the units (05). -/
structure NearBank where
  win : Tab NbWin
  queue : List RedCmd
  err : Nat
  done : Nat
  units : Tab NbUnit
  deriving DecidableEq, Repr, Inhabited

/-- A slice. -/
structure Slice where
  owner : Nat
  state : Nat
  gen : Nat
  frames : Tab Frame
  vwin : Tab Vwin
  homes : Tab Nat
  steps : Nat
  req : Nat
  scrub : Scrub
  errs : ErrRing
  mscErrs : ErrRing
  form : FormCmd
  nb : NearBank
  atomics : List Atomic
  reds : List RedAt
  level : Nat
  idle : Nat
  cur : Nat
  trip : Bool
  temp : Nat
  deriving DecidableEq, Repr, Inhabited

/-! ### Translation and leases -/

/-- An effective translation of one 4 KiB page (07 R150), and the smaller of the two stage page sizes, 2 ^ `size` (07 R147). -/
structure Page where
  dpa : Nat
  w : Bool
  cow : Bool
  p : Bool
  size : Nat
  deriving DecidableEq, Repr, Inhabited

/-- An XL_LEASE entry (07 Table 7-5), the snapshot of a resident one (07 R154), the page its grant has reached, and when a launch last
used it (07 R156). -/
structure Lease where
  state : Nat
  streamed : Bool
  rw : Bool
  drv : Bool
  base : Nat
  tcid : Nat
  users : Nat
  len : Nat
  snap : Tab Page
  walked : Nat
  waiter : Option Nat
  rel : Bool
  last : Nat
  deriving DecidableEq, Repr, Inhabited

/-- XL_FLT or XL_S2F (07 Table 7-7), and what waits for the answer. -/
structure Flt where
  pend : Bool
  tbl : Bool
  world : Nat
  lease : Nat
  tcid : Nat
  addr : Nat
  waiter : Nat
  entry : Nat
  core : Nat
  resp : Nat
  deriving DecidableEq, Repr, Inhabited

/-- XL_HOT_CTL (07 Table 7-8). -/
structure HotCtl where
  en : Bool
  log2n : Nat
  log2sz : Nat
  base : Nat
  head : Nat
  tail : Nat
  drop : Nat
  deriving DecidableEq, Repr, Inhabited

/-- XL_LREQ (07 Table 7-10). `later` of a command register: the words written while its command runs (00 R6). -/
structure Lreq where
  busy : Bool
  result : Nat
  acc : Bool
  base : Nat
  tcid : Nat
  index : Nat
  len : Nat
  later : Tab Nat := []
  deriving DecidableEq, Repr, Inhabited

/-! ### Ranges, sealed buffers, versioned buffers -/

/-- An MSC_RNG entry (06 Table 6-5), and its launch. -/
structure Rng where
  valid : Bool
  fmt : Nat
  ovf : Bool
  nan : Bool
  scale : Int
  base : Nat
  len : Nat
  tcid : Nat
  launch : Nat
  deriving DecidableEq, Repr, Inhabited

/-- An MSC_WOB entry (06 Table 6-7), and the launch that sealed it. -/
structure Wob where
  state : Nat
  base : Nat
  len : Nat
  rc : Nat
  tcid : Nat
  launch : Nat
  deriving DecidableEq, Repr, Inhabited

/-- SEC_VBUF_CMD (04 Table 4-9). -/
structure VbufCmd where
  op : Nat
  buf : Nat
  busy : Bool
  result : Nat
  tcid : Nat
  base : Nat
  len : Nat
  later : Tab Nat := []
  deriving DecidableEq, Repr, Inhabited

/-- SEC_VBUF (04 Table 4-10). -/
structure Vbuf where
  valid : Bool
  base : Nat
  tcid : Nat
  len : Nat
  ver : Nat
  deriving DecidableEq, Repr, Inhabited

/-! ### Queues and launches -/

/-- A queue slot: the mapped queue's record and CH_QSTAT (21 Tables 21-1, 21-3; 20 R422, R423). `state` is
CH_QSTAT.STATE; `waited` is 1 + the nanosecond at which its head's current wait began, or 0; `reserved` says that the head
has waited a promotion period. -/
structure Slot where
  state : Nat
  world : Nat
  gang : Nat
  record : Nat
  ring : Nat
  log2sz : Nat
  prio : Nat
  eprio : Nat
  tcid : Nat
  vec : Nat
  qid : Nat
  wptr : Nat
  rptr : Nat
  ecause : Nat
  ereason : Nat
  eaddr : Nat
  deficit : Nat
  waited : Nat
  reserved : Bool
  last : Option Nat
  deriving DecidableEq, Repr, Inhabited

/-- CH_GANG (21 Table 21-2). -/
structure GangCmd where
  list : Nat
  count : Nat
  gang : Nat
  op : Bool
  busy : Bool
  result : Nat
  deriving DecidableEq, Repr, Inhabited

/-- CH_PREEMPT (22 Table 22-8); `going` says that the command has halted its troupes. -/
structure PreemptCmd where
  slot : Nat
  all : Bool
  op : Nat
  world : Nat
  busy : Bool
  result : Nat
  saved : Nat
  going : Bool
  later : Tab Nat := []
  deriving DecidableEq, Repr, Inhabited

/-- A kernel descriptor (03 Table 3-3): its fields and lists, the largest end that its list fields name, and the offset of
the first field that breaks 03 R65. -/
structure Desc where
  flags : Nat
  cueEntry : Nat
  stepEntry : Nat
  sets : Nat
  troupes : Nat
  vregs : Nat
  tiles : Nat
  uregs : Nat
  spad : Nat
  codeSize : Nat
  lit : Nat
  litSize : Nat
  codeOff : Nat
  leases : List (Nat × Nat × Nat × Nat)
  stages : List (Nat × Nat × Nat × Nat)
  ranges : List (Nat × Nat × Nat × Int)
  layouts : List Nat
  listEnd : Nat
  bad : Option Nat
  deriving DecidableEq, Repr, Inhabited

/-- A lease a launch uses: the XL_LEASE entry and the access its own list declares (07 R153). -/
structure Use where
  entry : Nat
  rw : Bool
  deriving DecidableEq, Repr, Inhabited

/-- Where a launch stands (21 Table 21-5). -/
inductive Stage where
  | reading
  | dependency
  | prologue
  | admission
  | granting (index : Nat)
  | placing
  | running
  | done
  deriving DecidableEq, Repr, Inhabited

/-- A company saved by pre-emption (22 R457-R462): its troupes with their contexts, the held operations as (troupe, entry,
operation), the pages of the area that hold it, the places that it waits to be restored at, and the tick at which its save began. -/
structure SavedCompany where
  company : Nat
  stamp : Nat
  troupes : Tab Troupe
  ops : List (Nat × Nat × Op)
  pages : Nat
  page : Nat
  held : Bool
  places : List Place
  deriving DecidableEq, Repr, Inhabited

/-- A launch from its dequeue on (21 R433-R437; 16 R383; 22 R448). `code` maps the 4 KiB pages of the code object to their DPAs, or for a
handler's object likewise. `began`: when its first company was placed (20 R419); `owned`: did its world own a slice when it was dequeued (01
R19)? `past`: CORE, TROUPE and COMPANY of its troupes that are gone (22 R444); `room`: where the context area keeps room for its companies
that a command halts (22 R458). -/
structure Launch where
  world : Nat
  slot : Nat
  qid : Nat
  seq : Nat
  tcid : Nat
  vec : Nat
  prio : Nat
  words : List DWord
  stage : Stage
  desc : Desc
  code : Tab Nat
  s : Tab DWord
  win : List CueWindow
  ppc : Nat
  count : Nat
  runs : Nat
  again : Bool
  ovf : Bool
  nan : Bool
  status : Nat
  user : Bool
  detail : Nat
  ending : Bool
  uses : List Use
  rngs : List Nat
  wins : Tab (Nat × Nat)
  next : Nat
  ended : Nat
  saved : List SavedCompany
  handler : Option Desc
  hcode : Tab Nat
  placed : Bool
  began : Option Nat
  answers : Tab Nat
  owned : Bool
  past : Tab (Nat × Nat × Nat) := []
  room : Tab Nat := []
  deriving DecidableEq, Repr, Inhabited

/-! ### Worlds -/

/-- TRAP_ page of a world (22 Table 22-4, R463). -/
structure TrapPage where
  valid : Bool
  code : Nat
  desc : Nat
  ok : Bool
  count : Nat
  log : Tab Trap
  deriving DecidableEq, Repr, Inhabited

/-- SEC_WORLD (24 Table 24-1) and the trust core's view of a world (24 R472-R475): key generation (0 none), sessions, the stage-two root (07
Table 7-4), with the table entries in force from the lock or the last INV on (07 R151), and the action table (22 Table 22-3). `stopping`: a
STOP or a function-level reset waits for its quiesce point (24 R471). -/
structure Trust where
  tstate : Nat
  minsl : Nat
  maxsl : Nat
  fwgen : Nat
  s2gen : Nat
  keys : Nat
  keyed : Bool
  session : Bool
  s2valid : Bool
  s2inv : Bool
  s2root : Nat
  s2tab : Option (List (Nat × Nat))
  act : Nat
  locked : Bool
  stopping : Bool
  streams : List Nat
  deriving DecidableEq, Repr, Inhabited

/-- The fields of CH_WBUD (20 Table 20-3) that placement goes by. -/
structure Limits where
  core : Nat
  pwr : Nat
  bw : Nat
  deriving DecidableEq, Repr, Inhabited

/-- What the measure of a world goes by (20 R419): its bytes over the links since cold reset; the slices through which bytes of it have moved
since the last window; and the time, its own bytes and the package's bytes as that window ended. -/
structure Meter where
  links : Nat
  busy : List Nat
  since : Nat
  own : Nat
  all : Nat
  deriving DecidableEq, Repr, Inhabited

/-- Budget, measure and counters of a world (20 Tables 20-3, 20-4; 24 Table 24-6). `core`, `pwr` and `bw` are as the host wrote them, and
`inForce` as the last placement decision took them (20 R418). `pwrUsed` counts 1/524,288 W, so that CH_WSTAT.PWRU is its part above bit 16;
`last` is 1 + the last slot served (20 R423). -/
structure Budget where
  core : Nat
  pwr : Nat
  bw : Nat
  inForce : Limits
  pwrUsed : Nat
  bwUsed : Nat
  gate : Nat
  paced : Bool
  pctl : Tab (Nat × Bool × Nat)
  last : Nat
  meter : Meter
  deriving DecidableEq, Repr, Inhabited

/-- CH_CTXAREA (22 Table 22-10). -/
structure CtxArea where
  base : Nat
  len : Nat
  used : Nat
  deriving DecidableEq, Repr, Inhabited

/-- A world: its pages (Table 25-1). `fltNext` lists the stage-one faults that wait behind the one shown (07 R160), `outside` the slices
among which its outside lines have their homes (06 R123). -/
structure World where
  trust : Trust
  ctx : Tab Nat
  leases : Tab Lease
  flt : Flt
  fltNext : List Flt
  outside : List Nat
  hot : HotCtl
  lreq : Lreq
  layouts : Tab Layout
  rngs : Tab Rng
  wobs : Tab Wob
  maxout : Nat
  wins : List Nat
  vcmd : VbufCmd
  vbufs : Tab Vbuf
  gang : GangCmd
  preempt : PreemptCmd
  area : CtxArea
  budget : Budget
  trap : TrapPage
  deriving DecidableEq, Repr, Inhabited

/-! ### Package -/

/-- SEC_SLICE_CMD (24 Table 24-4). -/
structure SliceCmd where
  op : Nat
  slice : Nat
  dest : Nat
  world : Nat
  minsl : Nat
  maxsl : Nat
  busy : Bool
  result : Nat
  later : Tab Nat := []
  deriving DecidableEq, Repr, Inhabited

/-- LNK_PORT (25 Table 25-2). -/
structure Port where
  up : Bool
  ide : Nat
  lanes : Nat
  retry : Nat
  downs : Nat
  deriving DecidableEq, Repr, Inhabited

/-- LNK_GRP (25 Table 25-3), and the digests recorded for its members (25 R485). -/
structure Group where
  members : Nat
  state : Nat
  excl : Nat
  epoch : Nat
  base : Nat
  len : Nat
  digests : Tab Nat
  absent : List Nat
  deriving DecidableEq, Repr, Inhabited

/-- An answer to the host's security manager or to an SPDM requester (24 R470-R472): what was asked, whether it was granted,
and the digest of a measurement. -/
inductive Asked where
  | lock
  | start
  | stop
  | measure (index : Nat)
  | exchange
  deriving DecidableEq, Repr, Inhabited

/-- Why a request is refused: SPDM's ErrorCode Busy, TDISP's invalid interface state, or another error (24 R470, R474). -/
inductive Refused where
  | busy
  | interfaceState
  | other
  deriving DecidableEq, Repr, Inhabited

/-- One answer: refused, or accepted with a digest. -/
structure Answer where
  world : Nat
  asked : Asked
  error : Option Refused
  digest : Nat
  deriving DecidableEq, Repr, Inhabited

/-- Package controls (06 Table 6-2, 20 Table 20-5, 25 Table 25-5). -/
structure Controls where
  retainw : Nat
  poolc : Bool
  quant : Nat
  promo : Nat
  pkgcap : Nat
  ready : Bool
  deriving DecidableEq, Repr, Inhabited

end Sys2Proof.Machine
end

