-- ==== Sys2Proof/Machine/Memory.lean ====
section
/-! DEFINITION. Byte memory in one canonical form: addresses strictly rising, and no entry equal to what an unlisted
address reads as, which is 0 (04 R74, 06 R127; for host and pooled memory log 3). -/

namespace Sys2Proof.Machine

/-- Memory: the bytes that differ from 0. -/
abbrev Memory := List Host.Cell

/-- What an address that no entry lists reads as. -/
def Memory.blank : Byte := 0#8

/-- The canonical form. -/
def Memory.wf : Memory → Bool
  | [] => true
  | [(_, b)] => b != Memory.blank
  | (a, b) :: (c, d) :: t => b != Memory.blank && decide (a < c) && Memory.wf ((c, d) :: t)

/-- One byte. -/
def Memory.read : Memory → Nat → Byte
  | [], _ => Memory.blank
  | (k, b) :: t, a => if a = k then b else if a < k then Memory.blank else Memory.read t a

/-- Put a byte that is not blank in front, or drop a blank one. -/
def Memory.cons (a : Nat) (b : Byte) (t : Memory) : Memory := if b = Memory.blank then t else (a, b) :: t

/-- Write one byte, keeping the form. -/
def Memory.write : Memory → Nat → Byte → Memory
  | [], a, b => Memory.cons a b []
  | (k, c) :: t, a, b =>
    if a < k then Memory.cons a b ((k, c) :: t)
    else if a = k then Memory.cons a b t
    else (k, c) :: Memory.write t a b

/-- `n` bytes from an address up. -/
def Memory.readBytes (m : Memory) (a n : Nat) : List Byte := (List.range n).map (fun i => m.read (a + i))

/-- Write bytes from an address up. -/
def Memory.writeBytes (m : Memory) (a : Nat) : List Byte → Memory
  | [] => m
  | b :: bs => Memory.writeBytes (m.write a b) (a + 1) bs

end Sys2Proof.Machine
end

