-- ==== Sys2Proof/Machine/State.lean ====
section
/-! DEFINITION. The machine's state, the reasons a step can stop, and the state after cold reset (25 R490). Tables are
sparse: an entry that is not listed has the reset value its `…0` definition names. -/

namespace Sys2Proof.Machine

/-- The machine. -/
structure State where
  /-- The cycle counter (13 R309). -/
  cycle : DWord
  /-- The model's counter of free values (log 2). -/
  tick : Nat
  /-- The bring-up step done (25 Table 25-6). -/
  bringUp : Nat
  /-- Action 4 in force (22 R446). -/
  lockedDown : Bool
  /-- The turns that stand next (log 2). -/
  agenda : List Turn
  /-- The issue in progress (02 R37). -/
  cur : Option Issue
  /-- Bytes by device physical address (07 Table 7-1). -/
  mem : Memory
  /-- Granule sidebands (04 R76), by DPA >> 6. -/
  gran : Tab Gran
  /-- Home copies of host, pooled and peer lines (06 R122), by world * 2 ^ 45 + DPA >> 7. -/
  copies : Tab Copy
  /-- Lines at their homes (06 R122, R125), by world * 2 ^ 45 + DPA >> 7. -/
  lines : Tab HomeLine
  /-- Committed chunks that still drain, in commit order (10 Table 10-3). -/
  drains : List Drain
  /-- Arbiter grants (10 R217). -/
  grants : List Grant
  /-- Outstanding link requests (07 R145). -/
  requests : Tab Request
  /-- Lines the companion processor holds, and whether modified (06 R142, 25 R483). -/
  hostHeld : Tab Bool
  /-- Granules of data under an unfinished IDE check, with the port (10 R232). -/
  unverified : Tab Nat
  /-- Interrupts sent: world and vector (21 R437); vector 64 is the fault interrupt, 65 management's. -/
  interrupts : List (Nat × Nat)
  /-- Answers sent to the security manager and to SPDM requesters (24 R470-R472). -/
  answers : List Answer
  slices : Tab Slice
  cores : Tab Core
  clusters : Tab Cluster
  worlds : Tab World
  slots : Tab Slot
  launches : Tab Launch
  troupes : Tab Troupe
  /-- The next number for a launch, a troupe or a request. -/
  nextId : Nat
  ports : List Port
  groups : Tab Group
  sliceCmd : SliceCmd
  ctl : Controls
  /-- XL_S2F (07 Table 7-7). -/
  s2f : Flt
  /-- Stage-two faults that wait behind it, in order of occurrence (07 R161). -/
  s2fNext : List Flt
  /-- CH_PREEMPT of the management page (22 R457). -/
  mgmtPreempt : PreemptCmd
  /-- World 0 frozen by a tenant's lock (24 R469); an activation window open and its image (24 R474). -/
  frozen : Bool
  activation : Option Nat
  image : Nat
  deriving DecidableEq, Repr

/-- Why a step stops. -/
inductive Fault where
  /-- Raised by the meaning of an encoded instruction when no issue is in progress, or one of another front end: the
  step function never meets it. Safe. -/
  | noIssuer
  deriving DecidableEq, Repr

/-- Why an instruction has no meaning here. -/
inductive Refusal where
  /-- Raised by the dispatch of a row that the model does not give a meaning. Safe. -/
  | notModelled (mnemonic : String)
  deriving DecidableEq, Repr

/-! ### Reset values -/

/-- XL_FLT and XL_S2F at reset. -/
def Flt0 : Flt :=
  { pend := false, tbl := false, world := 0, lease := 0, tcid := 0, addr := 0, waiter := 0, entry := 0, core := 0, resp := 0 }

/-- CH_PREEMPT at reset. -/
def Preempt0 : PreemptCmd := { slot := 0, all := false, op := 0, world := 0, busy := false, result := 0, saved := 0, going := false }

/-- A frame at reset (04 Table 4-1). -/
def Frame0 : Frame := { ownersel := 0, striped := false, pinned := 0, pz := true, fresh := [] }

/-- A granule with no entry: clean, version 0. -/
def Gran0 : Gran := { ver := 0, poison := false, bad := false, syms := 0 }

/-- A near-bank unit at reset. -/
def NbUnit0 : NbUnit := { queue := [], turn := 0, issued := 0 }

/-- A slice at reset (01 Table 1-4, 04 Table 4-5, 06 Tables 6-1 and 6-3, 25 Table 25-5). -/
def Slice0 : Slice :=
  { owner := 0, state := 0, gen := 0, frames := [], vwin := [], homes := [], steps := 0, req := 0
    scrub :=
      { period := 24, thresh := 128, hoten := true, reten := true, ckpt := [], hot := [], spares := [], exhausted := []
        retired := [], copying := none, acts := [], throttled := [], marked := [], due := [], left := 8192, active := []
        corrected := 0, uncorrectable := 0, mismatches := 0, poisons := 0, retires := 0 }
    errs := { count := 0, recs := [] }, mscErrs := { count := 0, recs := [] }
    form := { frame := 0, form := false, busy := false, result := 0, world := 0 }
    nb := { win := [], queue := [], err := 0, done := 0, units := [] }
    atomics := [], reds := [], level := 0, idle := 0, cur := 0, trip := false, temp := 0 }

/-- A core at reset: empty. -/
def Core0 : Core :=
  { l1 := [], misses := [], partials := [], ops := [], pos := 0, pcTable := [], cueTurn := 0, paced := false
    halted := false, fullStall := 0, opsDone := 0, tileStall := 0, steps := 0 }

/-- A cluster at reset: empty. -/
def Cluster0 : Cluster := { tlb := [], hot := [], due := [] }

/-- A lease entry at reset (07 Table 7-5). -/
def Lease0 : Lease :=
  { state := 0, streamed := false, rw := false, drv := false, base := 0, tcid := 0, users := 0, len := 0, snap := []
    walked := 0, waiter := none, rel := false, last := 0 }

/-- A range entry at reset (06 Table 6-5). -/
def Rng0 : Rng :=
  { valid := false, fmt := 0, ovf := false, nan := false, scale := 0, base := 0, len := 0, tcid := 0, launch := 0 }

/-- A write-once entry at reset (06 Table 6-7). -/
def Wob0 : Wob := { state := 0, base := 0, len := 0, rc := 0, tcid := 0, launch := 0 }

/-- A versioned buffer at reset (04 Table 4-10). -/
def Vbuf0 : Vbuf := { valid := false, base := 0, tcid := 0, len := 0, ver := 0 }

/-- A world at reset (07 Table 7-8, 06 Table 6-9, 22 Table 22-3; the rest 0). -/
def World0 : World :=
  { trust :=
      { tstate := 0, minsl := 0, maxsl := 0, fwgen := 0, s2gen := 0, keys := 0, keyed := false, session := false, s2valid := false
        s2inv := false, s2root := 0, s2tab := none, act := 2 * 2 ^ 9 + 1 * 2 ^ 15, locked := false, stopping := false, streams := [] }
    ctx := [], leases := [], flt := Flt0, fltNext := [], outside := []
    hot := { en := false, log2n := 12, log2sz := 10, base := 0, head := 0, tail := 0, drop := 0 }
    lreq := { busy := false, result := 0, acc := false, base := 0, tcid := 0, index := 0, len := 0 }
    layouts := [], rngs := [], wobs := [], maxout := 256, wins := [256, 256, 256, 256]
    vcmd := { op := 0, buf := 0, busy := false, result := 0, tcid := 0, base := 0, len := 0 }
    vbufs := [], gang := { list := 0, count := 0, gang := 0, op := false, busy := false, result := 0 }
    preempt := Preempt0, area := { base := 0, len := 0, used := 0 }
    budget :=
      { core := 0, pwr := 0, bw := 0, inForce := { core := 0, pwr := 0, bw := 0 }, pwrUsed := 0, bwUsed := 0, gate := 0, paced := false
        pctl := [], last := 0, meter := { links := 0, busy := [], since := 0, own := 0, all := 0 } }
    trap := { valid := false, code := 0, desc := 0, ok := false, count := 0, log := [] } }

/-- A queue slot at reset: free. -/
def Slot0 : Slot :=
  { state := 0, world := 0, gang := 0, record := 0, ring := 0, log2sz := 0, prio := 0, eprio := 0, tcid := 0, vec := 0
    qid := 0, wptr := 0, rptr := 0, ecause := 0, ereason := 0, eaddr := 0, deficit := 0, waited := 0, reserved := false, last := none }

/-- A port at reset (25 Table 25-2): down until bring-up trains it. -/
def Port0 : Port := { up := false, ide := 0, lanes := 0, retry := 0, downs := 0 }

/-- A peer group at reset (25 Table 25-3). -/
def Group0 : Group :=
  { members := 0, state := 0, excl := 0, epoch := 0, base := 0, len := 0, digests := [], absent := [] }

/-- The slice command register at reset (24 Table 24-4). -/
def SliceCmd0 : SliceCmd :=
  { op := 0, slice := 0, dest := 0, world := 0, minsl := 0, maxsl := 0, busy := false, result := 0 }

/-- Package controls at reset (06 Table 6-2, 20 Table 20-5, 25 Table 25-5). -/
def Controls0 : Controls := { retainw := 4, poolc := true, quant := 1024, promo := 10, pkgcap := 2960, ready := false }

/-- The machine right after cold reset, before bring-up step 1 (25 R490). World 0 is the management world, whose
interface always reads RUN (24 Table 24-1). -/
def State.reset : State :=
  { cycle := 0, tick := 0, bringUp := 0, lockedDown := false, agenda := [], cur := none, mem := [], gran := []
    copies := [], lines := [], drains := [], grants := [], requests := [], hostHeld := [], unverified := []
    interrupts := [], answers := [], slices := [], cores := [], clusters := [], worlds := [], slots := [], launches := []
    troupes := [], nextId := 1, ports := List.replicate 6 Port0, groups := [], sliceCmd := SliceCmd0, ctl := Controls0
    s2f := Flt0, s2fNext := [], mgmtPreempt := Preempt0, frozen := false, activation := none, image := 0 }

end Sys2Proof.Machine
end

