-- ==== Sys2Proof/Machine/Access.lean ====
section
/-! DEFINITION. Reading and changing one unit of the state: each table through one accessor and one update. -/

namespace Sys2Proof.Machine

/-! ### One unit -/

/-- Slice `k`. -/
def State.slice (s : State) (k : Nat) : Slice := s.slices.getD k Slice0

/-- Change slice `k`. -/
def State.onSlice (s : State) (k : Nat) (f : Slice → Slice) : State :=
  { s with slices := s.slices.set k (f (s.slice k)) }

/-- Package core `c` (16 to a slice, 4 to a cluster). -/
def State.coreAt (s : State) (c : Nat) : Core := s.cores.getD c Core0

/-- Change core `c`. -/
def State.onCore (s : State) (c : Nat) (f : Core → Core) : State :=
  { s with cores := s.cores.set c (f (s.coreAt c)) }

/-- Cluster `c`. -/
def State.cluster (s : State) (c : Nat) : Cluster := s.clusters.getD c Cluster0

/-- Change cluster `c`. -/
def State.onCluster (s : State) (c : Nat) (f : Cluster → Cluster) : State :=
  { s with clusters := s.clusters.set c (f (s.cluster c)) }

/-- World `w`. -/
def State.world (s : State) (w : Nat) : World := s.worlds.getD w World0

/-- Change world `w`. -/
def State.onWorld (s : State) (w : Nat) (f : World → World) : State :=
  { s with worlds := s.worlds.set w (f (s.world w)) }

/-- Queue slot `i`. -/
def State.slot (s : State) (i : Nat) : Slot := s.slots.getD i Slot0

/-- Change queue slot `i`. -/
def State.onSlot (s : State) (i : Nat) (f : Slot → Slot) : State :=
  { s with slots := s.slots.set i (f (s.slot i)) }

/-- Change launch `l`, if it exists. -/
def State.onLaunch (s : State) (l : Nat) (f : Launch → Launch) : State :=
  { s with launches := s.launches.adjust l f }

/-- Change troupe `t`, if it is placed. -/
def State.onTroupe (s : State) (t : Nat) (f : Troupe → Troupe) : State :=
  { s with troupes := s.troupes.adjust t f }

/-- Change set `k` of a troupe. -/
def Troupe.onSet (T : Troupe) (k : Nat) (f : SetState → SetState) : Troupe :=
  { T with setTab := T.setTab.adjust k f }

/-- Change set `k` of troupe `t`. -/
def State.onSet (s : State) (t k : Nat) (f : SetState → SetState) : State := s.onTroupe t (fun T => T.onSet k f)

/-- Change the cue stream of troupe `t`. -/
def State.onCue (s : State) (t : Nat) (f : Cue → Cue) : State :=
  s.onTroupe t (fun T => { T with cue := f T.cue })

/-- Set `k` of troupe `t`. -/
def State.setAt? (s : State) (t k : Nat) : Option SetState :=
  match s.troupes.get? t with
  | some T => T.setTab.get? k
  | none => none

/-- Frame `f` of a slice. -/
def Slice.frame (S : Slice) (f : Nat) : Frame := S.frames.getD f Frame0

/-- Change frame `f` of slice `k`. -/
def State.onFrame (s : State) (k f : Nat) (g : Frame → Frame) : State :=
  s.onSlice k (fun S => { S with frames := S.frames.set f (g (S.frame f)) })

/-- Near-bank unit `n` of a slice. -/
def Slice.unit (S : Slice) (n : Nat) : NbUnit := S.nb.units.getD n NbUnit0

/-- Change near-bank unit `n` of slice `k`. -/
def State.onUnit (s : State) (k n : Nat) (f : NbUnit → NbUnit) : State :=
  s.onSlice k (fun S => { S with nb := { S.nb with units := S.nb.units.set n (f (S.unit n)) } })

/-- Link port `p`. -/
def State.port (s : State) (p : Nat) : Port := s.ports.getD p Port0

/-- Change link port `p`. -/
def State.onPort (s : State) (p : Nat) (f : Port → Port) : State := { s with ports := modAt s.ports p f }

/-- Peer group `g`. -/
def State.group (s : State) (g : Nat) : Group := s.groups.getD g Group0

/-- Change peer group `g`. -/
def State.onGroup (s : State) (g : Nat) (f : Group → Group) : State :=
  { s with groups := s.groups.set g (f (s.group g)) }

/-- Put turns in front of the agenda. -/
def State.first (s : State) (ts : List Turn) : State := { s with agenda := ts ++ s.agenda }

/-- The issue in progress ends. -/
def State.endIssue (s : State) : State := { s with cur := none }

/-! ### What the manual derives from the state -/

/-- TSTATE of a world; world 0 always reads RUN (24 Table 24-1). -/
def State.tstate (s : State) (w : Nat) : Nat := if w = 0 then 3 else (s.world w).trust.tstate

/-- The slices a world owns in STATE 0b01, ascending (06 R123). -/
def State.owned (s : State) (w : Nat) : List Nat :=
  Tab.keys (s.slices.filter (fun e => e.2.owner == w && e.2.state == 1))

/-- Has the world's interface been locked since it was bound (22 Table 22-3, 24 R469)? -/
def State.lockedWorld (s : State) (w : Nat) : Bool := if w = 0 then s.frozen else (s.world w).trust.locked

/-- Are memory requests of a world's function answered: those of a tenant get Unsupported Request outside RUN (24 R470; log 79)? -/
def State.inRun (s : State) (w : Nat) : Bool := s.tstate w == 3

/-- Does the device take a register write of a world's function: after bring-up, not in lock-down, not in ERROR (22 R446, 24 R471, 25
R490)? -/
def State.takesWrite (s : State) (w : Nat) : Bool := s.ctl.ready && !s.lockedDown && s.tstate w != 4

/-- Nanoseconds since cold reset: a count is 20 / 21 of a nanosecond at 1.05 GHz (13 R309). -/
def State.now (s : State) : Nat := s.cycle.toNat * 20 / 21

/-- Interrupt a world's function. -/
def State.interrupt (s : State) (w v : Nat) : State := { s with interrupts := s.interrupts ++ [(w, v)] }

/-- The slice that a place lies in. -/
def Place.slice : Place → Nat
  | .core n => n / 16
  | .unit k _ => k

/-- CORE of a trap record (22 Table 22-2). -/
def Place.tag : Place → Nat
  | .core n => n
  | .unit k n => 0x8000 + 32 * k + n

/-- The core of a place; a unit's accesses go through cluster 0 of its slice (05 R110). -/
def Place.coreNo : Place → Nat
  | .core n => n
  | .unit k _ => 16 * k

/-- Is the place a near-bank unit? -/
def Place.isUnit : Place → Bool
  | .core _ => false
  | .unit .. => true

/-- Grid extents of a launch (21 Table 21-4 word 8). -/
def Launch.grid (L : Launch) : Nat × Nat × Nat :=
  let w := (L.words.getD 8 0).toNat
  (nfld w 0 16, nfld w 16 16, nfld w 32 16)

/-- Companies of a launch's grid. -/
def Launch.companies (L : Launch) : Nat :=
  let (x, y, z) := L.grid
  x * y * z

/-- The global thread index (12 R286). -/
def globalIndex (T : Troupe) (troupes set lane : Nat) : Nat :=
  (((T.company * troupes + T.index) * T.sets + set) * 32 + lane) % 2 ^ 32

/-- FLAGS of a launch record. -/
def Launch.flag (L : Launch) (b : Nat) : Bool := bitAt (nfld (L.words.getD 10 0).toNat 0 16) b

/-- The thread limit, when TLIM puts one in force (21 Table 21-4, 13 R294). -/
def Launch.limit (L : Launch) : Option Nat :=
  if L.flag 1 then some (nfld (L.words.getD 9 0).toNat 0 32) else none

/-- Is a thread index at or above the limit? -/
def beyond (lim : Option Nat) (g : Nat) : Bool :=
  match lim with
  | some n => decide (n ≤ g)
  | none => false

/-- Is lane `i` of a set a helper lane (13 R294)? -/
def isHelper (L : Launch) (T : Troupe) (set i : Nat) : Bool :=
  beyond L.limit (globalIndex T L.desc.troupes set i) &&
    (List.range 4).any (fun q => !beyond L.limit (globalIndex T L.desc.troupes set (i / 4 * 4 + q)))

/-- The launch of a troupe. -/
def State.launchOf (s : State) (T : Troupe) : Launch := (s.launches.get? T.launch).getD default

/-- The world of a troupe. -/
def State.worldOf (s : State) (T : Troupe) : Nat := (s.launchOf T).world

/-- Count `n` events of a kind in a world's enabled counters (24 Table 24-6). -/
def State.tally (s : State) (w ev n : Nat) : State :=
  if (s.world w).budget.pctl.any (fun e => e.2.1 == ev && e.2.2.1) then
    s.onWorld w (fun W => { W with
      budget := { W.budget with
        pctl := W.budget.pctl.map (fun e => if e.2.1 == ev && e.2.2.1 then (e.1, ev, true, (e.2.2.2 + n) % 2 ^ 64) else e) } })
  else s

/-- Bytes of a world move through a slice: its MSC, its DRAM and its base die (20 R419). -/
def State.movesThrough (s : State) (w k : Nat) : State :=
  if (s.world w).budget.meter.busy.contains k then s
  else s.onWorld w (fun W => { W with budget := { W.budget with meter := { W.budget.meter with busy := W.budget.meter.busy ++ [k] } } })

/-- Bytes of a world that a port counts: its counters of event 8, and its measure (20 R419, 24 Table 24-6). -/
def State.linkBytes (s : State) (w n : Nat) : State :=
  (s.tally w 8 n).onWorld w (fun W => { W with budget := { W.budget with meter := { W.budget.meter with links := W.budget.meter.links + n } } })

/-- The package's link bytes since cold reset. -/
def State.allLinks (s : State) : Nat := (List.range 65).foldl (fun n w => n + (s.world w).budget.meter.links) 0

end Sys2Proof.Machine
end

