-- ==== Sys2Proof/Machine/Flags.lean ====
section
/-! DEFINITION. Every condition and flag computation: the conditions of 02 Table 2-2, `comb` (02 R31), truth tables
(13 R304), wait conditions (11 Table 11-4) and the division flags (13 R301). -/

namespace Sys2Proof.Machine

/-- Condition `c` of the cmp column of Table 2-2 on two words of one width. -/
def intCond {n : Nat} (c : Nat) (a b : BitVec n) : Bool :=
  match c with
  | 0x0 => a == b
  | 0x1 => a != b
  | 0x2 => a.slt b
  | 0x3 => a.sle b
  | 0x4 => b.slt a
  | 0x5 => b.sle a
  | 0x6 => a.ult b
  | 0x7 => a.ule b
  | 0x8 => b.ult a
  | 0x9 => b.ule a
  | 0xA => a &&& b != 0
  | _ => a &&& b == 0

/-- `comb` (02 R31): how a computed bit enters a predicate. -/
def comb (k : Nat) (old c : Bool) : Bool :=
  match k with
  | 0 => c
  | 1 => old && c
  | _ => old || c

/-- Bit `2 * x + y` of a four-entry truth table (13 R304). -/
def truth (t : Nat) (x y : Bool) : Bool := bitAt t (2 * b2n x + b2n y)

/-- Condition of a wait (11 Table 11-4) on the word and the value. -/
def waitCond (c : Nat) (w v : Word) : Bool :=
  match c with
  | 0 => w == v
  | 1 => w != v
  | 2 => v.ule w
  | 3 => v.sle w
  | 4 => decide ((w - v).toNat < 2 ^ 31)
  | 5 => decide ((w - v).toNat % 2 ^ 16 < 2 ^ 15)
  | _ => w &&& v != 0

/-- The division rule (13 R301, 16 R368): quotient, remainder, DIV0 and DIVOVF. -/
def divide {n : Nat} (signed : Bool) (a b : BitVec n) : BitVec n × BitVec n × Bool × Bool :=
  if b = 0 then (BitVec.allOnes n, a, true, false)
  else if signed && a == BitVec.intMin n && b == BitVec.allOnes n then (BitVec.intMin n, 0, false, true)
  else if signed then
    (BitVec.ofInt n (Int.tdiv a.toInt b.toInt), BitVec.ofInt n (Int.tmod a.toInt b.toInt), false, false)
  else (BitVec.ofNat n (a.toNat / b.toNat), BitVec.ofNat n (a.toNat % b.toNat), false, false)

end Sys2Proof.Machine
end

