-- ==== Sys2Proof/Machine/Operands.lean ====
section
/-! DEFINITION. Operand forms of both streams: vector registers with their lookahead windows, queue ports, predicates and
guards, immediates with their hints, scratchpad and register-pair addresses (02 R29-R42; 09 R202-R205; 11 R239). -/

namespace Sys2Proof.Machine

/-! ### Vector registers and windows of a thread -/

/-- A register as an instruction reads it at issue; one never written reads 0 (09 R199). -/
def Thread.get (th : Thread) (r : Nat) : Word := th.v.getD r 0

/-- Write a register: the final value, so every pending result for it is discarded, and what reads the register from now on, in a window
too, reads this value (02 R35; the last DESIGN CHOICE, log 82). -/
def Thread.put (th : Thread) (r : Nat) (x : Word) : Thread :=
  { th with v := th.v.set r x, win := th.win.map (fun w => { w with dst := w.dst.del r }) }

/-- Write several registers in order. -/
def Thread.puts (th : Thread) (ws : List (Nat × Word)) : Thread := ws.foldl (fun t w => t.put w.1 w.2) th

/-- Count one instruction against every open window, and write the results of those that end (02 R35). A window whose
near-bank request is still out stays until the request returns (05 R107). -/
def Thread.tick (th : Thread) : Thread :=
  let ws := th.win.map (fun w => { w with left := w.left - 1 })
  let ended := ws.filter (fun w => w.left == 0 && w.req == none)
  { th with
    v := ended.foldl (fun v w => w.dst.foldl (fun v e => v.set e.1 e.2) v) th.v
    win := ws.filter (fun w => !(w.left == 0 && w.req == none)) }

/-- Discard the pending results for registers that an instruction of their windows writes (02 R35). -/
def Thread.drops (th : Thread) (rs : List Nat) : Thread :=
  { th with win := th.win.map (fun w => { w with dst := rs.foldl (fun d r => d.del r) w.dst }) }

/-- Open a window of `n` instructions over registers that a lookahead instruction writes (02 R35). -/
def Thread.later (th : Thread) (n : Nat) (req : Option Nat) (ws : List (Nat × Word)) : Thread :=
  { th with win := th.win ++ [{ left := n, req := req, dst := ws.foldl (fun d e => d.set e.1 e.2) [] }] }

/-- Write results now, or open the window that the lookahead count asks for. -/
def Thread.write (th : Thread) (ahead : Nat) (ws : List (Nat × Word)) : Thread :=
  if ahead = 0 then (th.puts ws).tick else ((th.drops (ws.map (·.1))).tick).later ahead none ws

/-- Does a register still wait for a near-bank result whose window has ended (05 R107)? -/
def Thread.owes (th : Thread) (r : Nat) : Bool := th.win.any (fun w => w.left == 0 && (w.dst.get? r).isSome)

/-- Predicate `k`; p0 always reads true (09 Table 9-1). -/
def Thread.pred (th : Thread) (k : Nat) : Bool := k == 0 || th.p.getLsbD k

/-- Write predicate `k`; a write to p0 is discarded (02 R29). -/
def Thread.setPred (th : Thread) (k : Nat) (b : Bool) : Thread :=
  if k = 0 then th
  else { th with p := if b then th.p ||| maskBit k else th.p &&& ~~~ maskBit k }

/-- Combine a computed bit into predicate `k` (02 R31). -/
def Thread.combine (th : Thread) (k cb : Nat) (c : Bool) : Thread := th.setPred k (comb cb (th.pred k) c)

/-- A thread as it is created (09 Table 9-1). -/
def Thread.fresh (pc : Nat) (live : Bool) : Thread :=
  { live := live, pc := pc, v := [], p := 1#32, gen := 1, clk := 0, win := [], hold := .ready, since := 0, aged := false }

/-! ### Sets -/

/-- Lane `i` of a set. -/
def SetState.lane (S : SetState) (i : Nat) : Thread := S.threads.getD i (Thread.fresh 0 false)

/-- The set's live mask. -/
def SetState.live (S : SetState) : Word := maskOf (fun i => (S.lane i).live)

/-- Change the lanes of a mask. -/
def SetState.onLanes (S : SetState) (m : Word) (f : Nat → Thread → Thread) : SetState :=
  { S with threads := S.threads.mapIdx (fun i th => if inMask m i then f i th else th) }

/-! ### Physical registers (09 R199-R201) -/

/-- No register bound. -/
def Names0 : Names := { bound := [], ahead := [], spilled := [] }

/-- The physical registers that a rename map names. -/
def Names.used (n : Names) : List Nat := Tab.vals n.bound ++ Tab.vals n.ahead

/-- Registers that a checkpoint or an interrupted context of a set names: they are neither freed nor reused (09 R201). -/
def SetState.pinned (S : SetState) : List Nat :=
  (S.closing.toList ++ S.chunk.toList).flatMap (fun c => c.names.used) ++ (S.handler.toList.flatMap (fun h => h.names.used))

/-- Every physical register that a set names. -/
def SetState.physical (S : SetState) : List Nat := S.names.used ++ S.pinned

/-- A register takes a physical register, for a result at once or for one whose window is open: its readers keep the old binding
(09 R199). -/
def Names.bind (n : Names) (r p : Nat) (later : Bool) : Names :=
  if later then { n with ahead := n.ahead.set r p }
  else { n with bound := n.bound.set r p, ahead := n.ahead.del r, spilled := n.spilled.filter (· != r) }

/-- A register lies in the spill region. -/
def Names.spill (n : Names) (r : Nat) : Names :=
  { n with bound := n.bound.del r, spilled := addNew n.spilled r }

/-- A window that has closed gives its register to the map. -/
def SetState.settleNames (S : SetState) : SetState :=
  let open' (r : Nat) : Bool := S.threads.any (fun th => th.live && th.win.any (fun w => (w.dst.get? r).isSome))
  let done := S.names.ahead.filter (fun e => !open' e.1)
  { S with names := { S.names with
      ahead := S.names.ahead.filter (fun e => open' e.1)
      bound := done.foldl (fun b e => b.set e.1 e.2) S.names.bound } }

/-- Does an instruction that names a register take a physical register for it: a lookahead result, the first write, a write whose old
binding a checkpoint names, or a spilled register's return (09 R199-R201)? -/
def SetState.takes (S : SetState) (r : Nat) (write later : Bool) : Bool :=
  match S.names.bound.get? r with
  | some p => write && (later || S.pinned.contains p)
  | none => write || S.names.spilled.contains r

/-! ### Queue ports -/

/-- Entries of port `j`. -/
def SetState.port (S : SetState) (j : Nat) : List Entry := S.ports.getD j []

/-- The entry that a pop of port `j` reads: the first that is not taken (09 R203, R205). -/
def SetState.head? (S : SetState) (j : Nat) : Option Entry := (S.port j).find? (fun e => e.taken == 0)

/-- Mark the head entry of port `j` taken (09 R205). -/
def SetState.take (S : SetState) (j : Nat) : SetState :=
  { S with ports := modAt S.ports j (fun q =>
      match q.findIdx? (fun e => e.taken == 0) with
      | some n => modAt q n (fun e => { e with taken := 2 })
      | none => q) }

/-- Has port `j` a free entry? Taken entries count as occupied (09 R205). -/
def SetState.room (S : SetState) (j : Nat) : Bool := decide ((S.port j).length < 2)

/-- Append an entry to port `j`. -/
def SetState.push (S : SetState) (j : Nat) (e : Entry) : SetState := { S with ports := modAt S.ports j (· ++ [e]) }

/-- The open chunk takes the committing place: its marks and pushes go with it. -/
def SetState.portsShift (S : SetState) : SetState :=
  { S with ports := S.ports.map (fun q => q.map (fun e => { e with taken := min e.taken 1, pushed := min e.pushed 1 })) }

/-- A chunk commits: entries it took are freed and its pushes become visible (09 R205). -/
def SetState.portsCommit (S : SetState) : SetState :=
  { S with ports := S.ports.map (fun q =>
      (q.filter (fun e => e.taken != 1)).map (fun e => if e.pushed = 1 then { e with pushed := 0 } else e)) }

/-- A chunk is discarded, or every chunk: marks are cleared and pushes dropped (09 R205). -/
def SetState.portsUndo (S : SetState) (all : Bool) : SetState :=
  let gone (n : Nat) : Bool := n == 2 || (all && n == 1)
  { S with ports := S.ports.map (fun q =>
      (q.filter (fun e => !gone e.pushed)).map (fun e => if gone e.taken then { e with taken := 0 } else e)) }

/-- Register `r` of lane `i` as read at issue: a vector register, or the lane's word of a pop port (09 R203). -/
def SetState.read (S : SetState) (i r : Nat) : Word :=
  if r < 120 then (S.lane i).get r
  else match S.head? (r - 120) with
    | some e => e.words.getD i 0
    | none => 0

/-- The pop ports an instruction reads, each once. -/
def popsOf (i : Instr) : List Nat :=
  (i.vops.filter (fun o => o.count == 1 && decide (120 ≤ o.base) && o.dir == .src)).foldl
    (fun l o => addNew l (o.base - 120)) []

/-- The push port an instruction writes, if it writes one. -/
def pushOf (i : Instr) : Option Nat :=
  (i.vops.find? (fun o => o.count == 1 && decide (120 ≤ o.base) && o.dir == .dst)).map (fun o => o.base - 120)

/-! ### Guards and immediates -/

/-- The guard of an instruction in one thread (02 R30, R41): the g field, or a GUARD hint's predicate. -/
def guardOf (hints : List (Nat × BitVec 22)) (g : Nat) (th : Thread) : Bool :=
  match Hints.get hints 1 with
  | some p => th.pred (p % 32) != bitAt p 5
  | none => th.pred g

/-- An immediate field of width `w` with its IMM hint (02 R39), sign-extended. -/
def immS (hints : List (Nat × BitVec 22)) (w f : Nat) : Int :=
  match Hints.get hints 0 with
  | some p => sextNat (22 + w) (p * 2 ^ w + f)
  | none => sextNat w f

/-- The same, zero-extended. -/
def immZ (hints : List (Nat × BitVec 22)) (w f : Nat) : Nat :=
  match Hints.get hints 0 with
  | some p => p * 2 ^ w + f
  | none => f

/-- The byte offset that an IMM hint gives an address (02 R39), else 0. -/
def immOff (hints : List (Nat × BitVec 22)) : Int :=
  match Hints.get hints 0 with
  | some p => sextNat 22 p
  | none => 0

/-- off4 of a cue memory instruction: unsigned alone, sign-extended from 26 bits with its hint, in units of 8 (02 R39). -/
def off4 (hints : List (Nat × BitVec 22)) (o : Nat) : Int :=
  match Hints.get hints 0 with
  | some p => 8 * sextNat 26 (p * 16 + o)
  | none => 8 * (o : Int)

/-- SCOPE of a group: scope and order; device and relaxed without a hint (02 Table 2-4). -/
def scopeOf (hints : List (Nat × BitVec 22)) : Nat × Nat :=
  match Hints.get hints 3 with
  | some p => (p % 8, nfld p 3 2)
  | none => (3, 0)

/-- Has the group system scope? -/
def isSystem (hints : List (Nat × BitVec 22)) : Bool := (scopeOf hints).1 == 4

/-- CACHE of a group: L1 policy and MSC policy. -/
def cacheOf (hints : List (Nat × BitVec 22)) : Nat × Nat :=
  match Hints.get hints 4 with
  | some p => (p % 4, nfld p 2 2)
  | none => (0, 0)

/-- ROUND of a group: mode and saturation. -/
def roundOf (hints : List (Nat × BitVec 22)) : Nat × Bool :=
  match Hints.get hints 2 with
  | some p => (p % 8, bitAt p 3)
  | none => (0, false)

/-- TILE of a group: true for INT32. -/
def tileOf (hints : List (Nat × BitVec 22)) : Bool :=
  match Hints.get hints 5 with
  | some p => p % 4 == 1
  | none => false

/-- CWORD of a group: value register and word index (02 R42). -/
def cwordOf (hints : List (Nat × BitVec 22)) : Option (Nat × Nat) :=
  (Hints.get hints 6).map (fun p => (p % 128, nfld p 7 15))

/-- The address of a register pair plus an offset, modulo 2^64 (11 R239). -/
def pairAddr (lo hi : Word) (off : Int) : Nat := wrap 64 ((hi.toNat * 2 ^ 32 + lo.toNat : Nat) + off)

/-- A 32-bit address plus an offset, modulo 2^32. -/
def wordAddr (x : Word) (off : Int) : Nat := wrap 32 ((x.toNat : Int) + off)

/-- A register pair as a 64-bit word (13 R297). -/
def pair (lo hi : Word) : DWord := hi ++ lo

/-- The two register writes of a 64-bit result. -/
def pairOut (d : Nat) (x : DWord) : List (Nat × Word) := [(d, x.extractLsb' 0 32), (d + 1, x.extractLsb' 32 32)]

/-! ### Uniform registers and the cue stream's windows -/

/-- A uniform register as a cue instruction reads it: a handler sees its own s0 to s15 (22 R450). -/
def Troupe.gets (T : Troupe) (r : Nat) : DWord :=
  match T.cue.handler with
  | some h => if r < 16 then h.bank.getD r 0 else T.s.getD r 0
  | none => T.s.getD r 0

/-- Drop a pending result for register `r` from windows. -/
def dropPending (ws : List CueWindow) (r : Nat) : List CueWindow := ws.map (fun w => { w with dst := w.dst.del r })

/-- Write a uniform register: the final value, so pending results for it are discarded (02 R35, 22 R450). -/
def Troupe.puts (T : Troupe) (r : Nat) (x : DWord) : Troupe :=
  match T.cue.handler with
  | some h =>
    if r < 16 then
      { T with cue := { T.cue with handler := some { h with bank := h.bank.set r x, win := dropPending h.win r } } }
    else
      { T with
        s := T.s.set r x
        cue := { T.cue with win := dropPending T.cue.win r, handler := some { h with win := dropPending h.win r } } }
  | none => { T with s := T.s.set r x, cue := { T.cue with win := dropPending T.cue.win r } }

/-- The windows that count the running cue instruction: a handler's instructions count only against its own (22 R450). -/
def Cue.windows (C : Cue) : List CueWindow :=
  match C.handler with
  | some h => h.win
  | none => C.win

/-- Replace those windows. -/
def Cue.setWindows (C : Cue) (ws : List CueWindow) : Cue :=
  match C.handler with
  | some h => { C with handler := some { h with win := ws } }
  | none => { C with win := ws }

/-- Windows after one more instruction, and those that end with it (02 R35). -/
def tickWindows (ws : List CueWindow) : List CueWindow × List CueWindow :=
  (ws.map (fun w => { w with left := w.left - 1 })).partition (fun w => w.left != 0)

/-- Count one cue instruction against the open windows, and write the results of those that end. -/
def Troupe.tick (T : Troupe) : Troupe :=
  let (open', ended) := tickWindows T.cue.windows
  let T1 : Troupe := { T with cue := T.cue.setWindows open' }
  ended.foldl (fun U w => w.dst.foldl (fun V e => V.puts e.1 e.2) U) T1

/-- Drop every pending result for a register that an instruction writes: in a handler those of its own windows and, of the troupe's own
registers, those of the interrupted stream (22 R450). -/
def Cue.drops (C : Cue) (r : Nat) : Cue :=
  match C.handler with
  | some h => { C with
      handler := some { h with win := dropPending h.win r }, win := if r < 16 then C.win else dropPending C.win r }
  | none => { C with win := dropPending C.win r }

/-- The interrupted stream goes on after a handler (22 R450): the windows that the handler's instructions left open go on with it for the
troupe's own registers; results for the handler's bank are gone with the bank (DEDUCED, log 68). -/
def Cue.leaveHandler (C : Cue) : Cue :=
  match C.handler with
  | some h => { C with
      handler := none
      win := C.win ++ (h.win.map (fun w => { w with dst := w.dst.filter (fun e => decide (16 ≤ e.1)) })).filter (fun w => !w.dst.isEmpty) }
  | none => C

/-- Write one uniform result now, or open its window. -/
def Troupe.write (T : Troupe) (ahead r : Nat) (x : DWord) : Troupe :=
  if ahead = 0 then (T.puts r x).tick
  else
    let T := { T with cue := T.cue.drops r }.tick
    { T with cue := T.cue.setWindows (T.cue.windows ++ [{ left := ahead, dst := [(r, x)] }]) }

/-! ### The prologue's registers (16 R383) -/

/-- Write a prologue register: pending results for it are discarded (02 R35). -/
def Launch.puts (L : Launch) (r : Nat) (x : DWord) : Launch := { L with s := L.s.set r x, win := dropPending L.win r }

/-- Count one prologue instruction against the open windows, and write the results of those that end. -/
def Launch.tick (L : Launch) : Launch :=
  let (open', ended) := tickWindows L.win
  ended.foldl (fun U w => w.dst.foldl (fun V e => V.puts e.1 e.2) U) { L with win := open' }

/-- Write one prologue result now, or open its window. -/
def Launch.write (L : Launch) (ahead r : Nat) (x : DWord) : Launch :=
  if ahead = 0 then (L.puts r x).tick
  else
    let L := { L with win := dropPending L.win r }.tick
    { L with win := L.win ++ [{ left := ahead, dst := [(r, x)] }] }

end Sys2Proof.Machine
end

