-- ==== Sys2Proof/Machine/Ops.lean ====
section
/-! DEFINITION. The named operations of the two streams: chunks of a set (10 R212-R220), taking a precise trap and
returning from one (22 R442-R455), and the issue of an instruction in each front end. -/

namespace Sys2Proof.Machine

/-! ### Chunks of a set -/

/-- A chunk opens: the checkpoint is recorded (10 R212, 09 R201). -/
def SetState.openChunk (S : SetState) (pc first : Nat) : SetState :=
  let c : Chunk :=
    { start := S.threads, pc := pc, first := first, count := 0, stored := false, reads := [], writes := [], stores := []
      spStores := [], fe := [], reds := [], copies := [], seals := [], outs := [], spReads := [], spWrites := []
      tx := none, touched := [], unverified := [], phase := .running, ticket := (0, 0, 0), trap := none
      held := S.handler, txCode := S.txCode, amask := none
      names := S.names }
  { S with chunk := some c }

/-- A closed chunk takes the place of a committed one: at most one commits and one is open (10 R217). -/
def SetState.shift (S : SetState) : SetState :=
  match S.chunk with
  | some c => if c.phase != .running && S.closing == none then { S.portsShift with chunk := none, closing := some c } else S
  | none => S

/-- Close the open chunk (10 R214). -/
def SetState.close (S : SetState) : SetState :=
  SetState.shift { S with chunk := S.chunk.map (fun c => if c.phase = .running then { c with phase := .closed } else c) }

/-- Change the open chunk. -/
def SetState.onChunk (S : SetState) (f : Chunk → Chunk) : SetState := { S with chunk := S.chunk.map f }

/-- Is a transaction open: begun, and not ended (10 R233)? -/
def SetState.inTx (S : SetState) : Bool := S.chunk.any (fun c => c.tx.isSome && c.phase == .running)

/-- The limit of counted instructions of the open chunk (10 Table 10-1); that of a starving set is 64, but for a transaction, which
is never split (R219, R233). -/
def SetState.limit (S : SetState) : Nat := if S.starving && !S.inTx then 64 else 4096

/-- Free scoreboard entries of a discarded chunk (08 R176). -/
def State.freeOps (s : State) (c : Nat) (es : List Nat) : State :=
  if es.isEmpty then s else s.onCore c (fun C => { C with ops := C.ops.filter (fun e => !es.contains e.1) })

/-- The chunks a set holds. -/
def SetState.chunks (S : SetState) : List Chunk := S.closing.toList ++ S.chunk.toList

/-- The chunk that a discard of the open chunk, or of every chunk, restores the checkpoint of (10 R218). -/
def SetState.first? (S : SetState) (all : Bool) : Option Chunk := if all then S.chunks.head? else S.chunk

/-- The lines that a starving set's chunk has read, held at their homes until it commits (10 R219). -/
def SetState.held (S : SetState) : List Nat := if S.starving then ((S.chunks.head?).map (·.reads)).getD [] else []

/-- Has a set a live thread that no squash can bring back or take away (09 R205)? -/
def SetState.alive (S : SetState) : Bool := S.live != 0 || !S.chunks.isEmpty

/-- Has a troupe ended: its cue stream and every set (09 R211)? -/
def Troupe.finished (T : Troupe) : Bool :=
  T.started && T.cue.ended && T.setTab.all (fun (e : Nat × SetState) => !e.2.alive)

/-- Threads count their age from now: they were not ready until then (20 R415, R416). -/
def SetState.ageFrom (S : SetState) (now : Nat) : SetState :=
  { S with threads := S.threads.map (fun th => { th with since := now, aged := false }) }

/-- Discard every chunk that a squash of the committing one, or of the open one, takes with it, and restore the
checkpoint of the earliest (10 R218). -/
def SetState.undo (S : SetState) (all : Bool) : SetState :=
  match S.first? all with
  | none => S
  | some c =>
    let S := S.portsUndo all
    { S with
      threads := c.start
      handler := c.held
      chunk := none
      closing := if all then none else S.closing
      trapReady := if all then none else S.trapReady
      txCode := c.txCode
      names := c.names
      waiting := none, answers := [], missed := [] }

/-- Scoreboard entries that a discard of the open chunk, or of every chunk, withdraws. -/
def SetState.pendingOps (S : SetState) (all : Bool) : List Nat :=
  if all then S.chunks.flatMap (·.copies) else (S.chunk.map (·.copies)).getD []

/-- A transaction takes its fallback (10 R235, 11 R265): the chunk, or every chunk when it commits already, is discarded, `tx.code`
gets kind and code, and every live thread goes on at the target, with the checkpoint's registers after kinds 0x02 and 0x08. -/
def SetState.fallback (S : SetState) (kind code : Nat) (all : Bool := false) : SetState :=
  match S.first? all with
  | some c =>
    match c.tx with
    | some target =>
      let now := S
      let S := S.undo all
      let back := kind = 2 || kind = 8
      { S with
        threads := (if back then S.threads else now.threads).map (fun th => if th.live then { th with pc := target, hold := .ready } else th)
        names := if back then S.names else now.names
        txCode := kind * 256 + code % 256, txSquashes := 0 }
    | none => S
  | none => S

/-- A discarded chunk's reads of link targets are dropped. -/
def State.dropReads (s : State) (t k : Nat) : State :=
  { s with requests := s.requests.filter (fun e => !(match e.2.owner, e.2.kind with
      | .set u j _ _, .read _ => u == t && j == k
      | _, _ => false)) }

/-- The fallback of set `k` of troupe `t`, with its scoreboard entries. -/
def State.fallback (s : State) (t k kind code : Nat) (all : Bool := false) : State :=
  match s.troupes.get? t, s.setAt? t k with
  | some T, some S =>
    ((s.dropReads t k).freeOps T.place.coreNo (S.pendingOps all)).onSet t k (fun S => (S.fallback kind code all).ageFrom s.cycle.toNat)
  | _, _ => s

/-- Squash a set (10 R218, R219, R235): `all` also takes the committing chunk. The sixteenth squash in a row starves the
set; the sixteenth of one transaction sends it to its fallback. -/
def State.squash (s : State) (t k : Nat) (all : Bool) : State :=
  match s.troupes.get? t, s.setAt? t k with
  | some T, some S =>
    let s := (s.dropReads t k).tally (s.worldOf T) 4 1
    let s : State := if all then { s with grants := s.grants.filter (fun g => !(g.troupe == t && g.set == k)) } else s
    if (S.first? all).any (fun c => c.tx.isSome) then
      if 15 ≤ S.txSquashes then s.fallback t k 0x02 0 all
      else (s.freeOps T.place.coreNo (S.pendingOps all)).onSet t k (fun S =>
        { (S.undo all).ageFrom s.cycle.toNat with txSquashes := S.txSquashes + 1 })
    else
      (s.freeOps T.place.coreNo (S.pendingOps all)).onSet t k
        (fun S => { (S.undo all).ageFrom s.cycle.toNat with
          squashes := S.squashes + 1, starving := S.starving || decide (15 ≤ S.squashes) })
  | _, _ => s

/-! ### Records and logs -/

/-- Complete a record with where and when it was raised (22 Table 22-2). -/
def State.record (s : State) (t : Nat) (tr : Trap) : Trap :=
  match s.troupes.get? t with
  | some T =>
    let L := s.launchOf T
    { tr with
      time := s.now, qid := L.qid, seq := L.seq, core := T.place.tag, world := L.world, troupe := T.index
      company := T.company
      flags := tr.flags + (if T.place.isUnit then 2 ^ 5 else 0) }
  | none => { tr with time := s.now }

/-- Write a record to a world's trap log (22 R463). -/
def State.log (s : State) (w : Nat) (tr : Trap) : State :=
  s.onWorld w (fun W => { W with
    trap := { W.trap with count := (W.trap.count + 1) % 2 ^ 32, log := W.trap.log.set (W.trap.count % 256) tr } })

/-! ### A precise trap of the step stream -/

/-- Raise a precise trap in a set (22 R442, R443): nothing of the instruction takes effect, the chunk closes with the
record, and the record waits for its commit. `next` is the resume address of the figure's threads. A transaction is
discarded first, and its threads resume at the fallback target (10 R236). -/
def SetState.trap (S : SetState) (mask : Word) (next : Nat) (tr : Trap) : SetState :=
  let tr := if S.handler.isSome then { tr with flags := tr.flags + 2 ^ 4 } else tr
  if S.inTx then { S.fallback 0x07 (tr.cause % 128) with trapReady := some { tr with flags := tr.flags + 2 } }
  else
    let S := S.onLanes mask (fun _ th => { th with pc := next, hold := .ready })
    match S.chunk with
    | some _ => (S.onChunk (fun c => { c with trap := some tr })).close
    | none => { S with trapReady := some tr }

/-! ### What an instruction asks of its front end -/

/-- Set-convergent instructions (13 R295, 09 R202, 11 R262, 22 R454). -/
def convergentIn (i : Instr) (handler : Bool) : Bool :=
  i.namesPort ||
  match i with
  | .ballot .. | .vany .. | .vall .. | .shfl .. | .sred .. | .sscan .. | .qswp .. | .qbcast .. | .matchLanes ..
  | .elect .. | .txBeg .. | .txEnd .. | .mma .. | .mloop .. | .mld .. | .mrd .. | .mclr .. | .mcvt .. => true
  | .sysr _ n => n = 0x01D
  | .rett => handler
  | _ => false

/-- Instructions that execute with no chunk open: the chunk before them closes and commits first (10 Table 10-1; 11 R254,
R256, R259, R260; 05 R119; 15 R347; 22 R454). A system-scope fence has no effect of its own, so it stands behind the
chunk that it closes. A wait or a barrier instruction, once done, opens the next chunk (`opensNext`). -/
def isAlone (i : Instr) (handler system : Bool) : Bool :=
  match i with
  | .fence .. => system
  | .amo .. | .bsum .. | .wait .. | .barArrive .. | .barWait .. | .mma .. | .mld .. | .mclr .. => true
  | .rett => handler
  | _ => false

/-- Instructions that open the next chunk when they are complete (10 Table 10-1): they count in it, and it re-executes from behind
them (log 51). -/
def opensNext : Instr → Bool
  | .wait .. | .barArrive .. | .barWait .. => true
  | _ => false

/-- Instructions that close the chunk after them (10 Table 10-1). -/
def closesAfter : Instr → Bool
  | .trap .. | .brk .. | .exit .. => true
  | _ => false

/-- The major of an instruction, as an abort code (10 Table 10-4). -/
def majorOf (i : Instr) : Nat := (fld (encode i) 25 7).toNat

/-- Instructions that a step handler may not use (22 R449): ports, matrix and tile instructions, transactions. -/
def barredInHandler (i : Instr) : Bool :=
  i.namesPort ||
  match i with
  | .txBeg .. | .txEnd .. | .txAbort .. | .mma .. | .mloop .. | .mld .. | .mrd .. | .mclr .. | .mcvt .. => true
  | _ => false

/-! ### The step stream issues -/

/-- A step instruction about to take effect: where, the set with its chunk opened and counted, the figure's live lanes
and the active ones (13 R293), the cycle, and the registers that it names, with whether it writes them and under lookahead. -/
structure Ctx where
  t : Nat
  k : Nat
  T : Troupe
  S : SetState
  mask : Word
  act : Word
  issue : Issue
  now : Nat
  named : List (Nat × Bool × Bool) := []
  deriving DecidableEq, Repr, Inhabited

/-- `trap.amask` as the set sees it: with what its own chunks have written (10 R218). -/
def Ctx.amask (c : Ctx) : BitVec 2 := ((c.S.chunk.bind (·.amask)).orElse (fun _ => c.S.closing.bind (·.amask))).getD c.T.amask

/-- Offset of the next word. -/
def Ctx.next (c : Ctx) : Nat := c.issue.word + 4

/-- Active lanes, ascending. -/
def Ctx.lanes (c : Ctx) : List Nat := lanesOf c.act

/-- An instruction issues, or the turn ends with another state. -/
inductive Go where
  | stop (s : State)
  | go (c : Ctx)

/-- Threads of a mask wait. -/
def SetState.holding (S : SetState) (m : Word) (h : Hold) : SetState :=
  S.onLanes m (fun _ th => { th with hold := h })

/-- Each thread of a mask waits for its own events; one with none stays ready. -/
def SetState.waits (S : SetState) (m : Word) (ws : Nat → List Wake) : SetState :=
  S.onLanes m (fun j th => if (ws j).isEmpty then th else { th with hold := .until (ws j) })

/-- The turn ends and the figure's threads stay where they are: a stall closes the chunk at the instruction boundary
(10 Table 10-1), and inside a transaction takes the fallback (DEDUCED, log 10). -/
def State.stall (s : State) (t k : Nat) (m : Word) (major : Nat) (ws : Nat → List Wake) : State :=
  match s.setAt? t k with
  | some S =>
    if S.inTx then (s.fallback t k 0x05 major).endIssue
    else
      (s.onSet t k (fun S =>
        (match S.chunk with
         | some c => if c.count = 0 then { S with chunk := none } else S.close
         | none => S).waits m ws)).endIssue
  | none => s.endIssue

/-- A precise trap of a step instruction (22 R442): fields that the cause's rule names. -/
def State.raise (s : State) (c : Ctx) (fail : Word) (cause reason addr info : Nat) : State :=
  let tr := s.record c.t
    { cause := cause, reason := reason, set := c.k, low := (lowLane fail).getD 0, mask := c.mask, fail := fail
      pc := c.issue.group, addr := addr, info := info, after := c.next }
  let withdrawn := if c.S.inTx then c.S.pendingOps false else []
  let s := if c.S.inTx then s.dropReads c.t c.k else s
  ((s.freeOps c.T.place.coreNo withdrawn).onSet c.t c.k
    (fun _ => c.S.trap c.mask c.issue.group tr)).endIssue

/-- The set whose chunk a new instruction may join: opened, counted, closed first where Table 10-1 asks it; `none` when
the set waits behind a commit (10 R213, R214, R217). -/
def SetState.enter (S : SetState) (pc : Nat) (lone before : Bool) : Option SetState :=
  let S := S.shift
  match S.chunk with
  | some c =>
    if c.phase != .running then none
    else if c.count != 0 && (lone || before || decide (S.limit ≤ c.count)) then
      let S := S.close
      if S.chunk.isSome || lone then none
      else some ((S.openChunk pc pc).onChunk (fun c => { c with count := 1 }))
    else if lone then some { S with chunk := none }
    else some (S.onChunk (fun c => { c with count := c.count + 1 }))
  | none =>
    if lone then if S.closing == none then some S else none
    else some ((S.openChunk pc pc).onChunk (fun c => { c with count := 1 }))

/-- Does one more instruction take an open transaction past its limit (10 R233, Table 10-4 kind 0x03)? -/
def SetState.txFull (S : SetState) : Bool := S.inTx && decide (4096 ≤ ((S.chunk.map (·.count)).getD 0))

/-- A set that could not enter: what the close did to it. -/
def SetState.blocked (S : SetState) (lone before : Bool) : SetState :=
  let S := S.shift
  match S.chunk with
  | some c => if c.count != 0 && (lone || before || decide (S.limit ≤ c.count)) then S.close else S
  | none => S

/-- The figure of the step issue in progress. -/
def State.figure? (s : State) : Option (Figure × Issue) :=
  match s.cur with
  | some u => match u.agent with
    | .step f => some (f, u)
    | _ => none
  | none => none

/-- Is a trap from outside the figure due (22 R494)? That of a near-bank read waits until a window of the read has ended
(05 R107). -/
def SetState.due (S : SetState) (tr : Trap) : Bool :=
  match tr.copy with
  | none => true
  | some id =>
    let ws := S.threads.flatMap (fun th => if th.live then th.win.filter (fun w => w.req == some id) else [])
    ws.isEmpty || ws.any (fun w => w.left == 0)

/-- May set `S` of troupe `T` issue at all? Not while halted, ended, trapping or waiting for results. -/
def canIssue (s : State) (T : Troupe) (S : SetState) : Bool :=
  T.started && !T.halted && !(s.launchOf T).ending && S.trapReady == none && S.waiting == none &&
    (!S.traps.any S.due || S.handler.isSome || S.inTx) &&
    !(S.chunks.any (fun c => c.trap.isSome)) && !s.lockedDown

/-- Does a thread gather at a set-convergent instruction? -/
def Thread.gathers (th : Thread) : Bool :=
  match th.hold with
  | .gather _ => true
  | _ => false

/-- The lowest address at which a live thread of a set waits to gather, when every live thread gathers and not all at one
address (13 R296), and the address behind the group there. -/
def SetState.diverged (S : SetState) : Option (Nat × Nat) :=
  let ls := lanesOf S.live
  let ps := ls.map (fun j => (S.lane j).pc)
  if ls.all (fun j => (S.lane j).gathers) then
    match minNat ps with
    | some p =>
      if ps.all (· == p) then none
      else (ls.find? (fun j => (S.lane j).pc == p)).map (fun j => (p, match (S.lane j).hold with
        | .gather after => after
        | _ => p + 4))
    | none => none
  else none

/-- Threads of a figure wait at a set-convergent instruction (13 R295); when every live thread of the set waits so, at
more than one address, cause 0x0D at the lowest (13 R296). -/
def State.gather (s : State) (t k : Nat) (T : Troupe) (S : SetState) (m : Word) (u : Issue) : State :=
  let S := S.holding m (.gather (u.word + 4))
  match S.diverged with
  | some (p, after) =>
    let low := maskOf (fun j => (S.lane j).live && (S.lane j).pc == p)
    if S.txFull then (s.fallback t k 0x03 0).endIssue
    else
    match (if T.place.isUnit then some S else S.enter p false false) with
    | some S1 =>
      let c : Ctx :=
        { t := t, k := k, T := T, S := S1, mask := low, act := low, issue := { u with group := p, word := after - 4 }
          now := s.cycle.toNat }
      s.raise c low 0x0D 0 0 S.live.toNat
    | none => (s.onSet t k (fun _ => (S.blocked false false).holding m (.until [.room]))).endIssue
  | none => (s.onSet t k (fun _ => S)).endIssue

/-- Is a thread ready: live, and held by no rule (20 R414)? -/
def Thread.ready (th : Thread) : Bool := th.live && th.hold == .ready

/-- The ready threads of a figure that still stand at the group's address (20 R414). -/
def Figure.here (f : Figure) (u : Issue) (S : SetState) : Word :=
  maskOf (fun j => inMask f.mask j && (S.lane j).ready && (S.lane j).pc == u.group)

/-- The active lanes of an instruction: the live ones whose guard holds; the guard of `sel` selects and does not exclude
(13 R293, R305). -/
def activeOf (i : Instr) (u : Issue) (S : SetState) (m : Word) : Word :=
  match i.guardField with
  | some g => match i with
    | .sel .. => m
    | _ => maskOf (fun j => inMask m j && guardOf u.hints g (S.lane j))
  | none => m

/-- Does an instruction with these active lanes stand alone between chunks? A near-bank unit has no chunks (05 R110). -/
def standsAlone (i : Instr) (u : Issue) (T : Troupe) (S : SetState) (act : Word) : Bool :=
  !T.place.isUnit && (act != 0) && isAlone i S.handler.isSome (isSystem u.hints)

/-- Does the open chunk close before an instruction (10 Table 10-1)? -/
def closesBefore (i : Instr) (T : Troupe) : Bool :=
  !T.place.isUnit && (match i with | .txBeg .. => true | _ => false)

/-- The near-bank results that threads of the mask wait for, among the registers that the instruction names (05 R107). -/
def owing (i : Instr) (S : SetState) (m : Word) : List Wake :=
  (addAll [] ((lanesOf m).flatMap (fun j => i.vops.flatMap (fun o =>
    ((List.range o.count).map (o.base + ·)).filter (fun r => (S.lane j).owes r))))).map Wake.owed

/-- What an instruction that finds a pop port empty, or its push port full, waits for (09 R203, R204). -/
def portsWait (i : Instr) (S : SetState) : List Wake :=
  ((popsOf i).filter (fun j => (S.head? j).isNone)).map Wake.pop ++
    match pushOf i with
    | some j => if S.room j then [] else [.push j]
    | none => []

/-- The set that an instruction acts on: its chunk opened and counted. -/
def SetState.enterAt (S : SetState) (T : Troupe) (pc : Nat) (lone before : Bool) : Option SetState :=
  if T.place.isUnit then some S else S.enter pc lone before

/-- How many registers of its first operand an instruction writes, where it only reads the others: `cas` writes its comparands
(11 R249). -/
def writtenOf (i : Instr) (o : VOp) : Nat :=
  match i with
  | .amo _ _ _ _ m => if m = 0xB then 1 else if m = 0xC then 2 else o.count
  | _ => o.count

/-- The vector registers that an instruction names: number, whether it writes it, and whether under lookahead. A call writes v7. -/
def namedRegs (i : Instr) : List (Nat × Bool × Bool) :=
  match i with
  | .call _ => [(7, true, false)]
  | _ => i.vops.flatMap (fun o => (List.range o.count).filterMap (fun k =>
      let w := o.dir != .src && decide (k < writtenOf i o)
      if o.base + k < 120 then some (o.base + k, w, w && i.ahead != 0) else none))

/-- The lanes for which an instruction that a handler may not use traps: the active ones (02 R30); one that names a port names it for
every thread, whatever the guards (09 R203; log 68). -/
def barredLanes (i : Instr) (m act : Word) : Word := if act = 0 && i.namesPort then m else act

/-- Issue a step instruction (20 R414, R415; 13 R295; 09 R203-R206; 22 R449). `none` when no step issue is in progress. -/
def stepGo (s : State) (i : Instr) : Option Go :=
  match s.figure? with
  | none => none
  | some (f, u) =>
    match s.troupes.get? f.troupe, s.setAt? f.troupe f.set with
    | some T, some S =>
      let m := f.here u S
      let act := activeOf i u S m
      let lone := standsAlone i u T S act
      let before := closesBefore i T
      if !canIssue s T S || m == 0 then some (.stop s.endIssue)
      else if convergentIn i S.handler.isSome && m != S.live then
        some (.stop (s.gather f.troupe f.set T S m u))
      else if !(owing i S m).isEmpty then
        some (.stop (s.onSet f.troupe f.set (fun S => S.holding m (.until (owing i S m)))).endIssue)
      else if S.inTx && (lone || before || (act != 0) && closesAfter i) then
        some (.stop (s.fallback f.troupe f.set 0x05 (majorOf i)).endIssue)
      else if S.txFull then
        some (.stop (s.fallback f.troupe f.set 0x03 0).endIssue)
      else
        match S.enterAt T u.group lone before with
        | none => some (.stop (s.onSet f.troupe f.set (fun S =>
            (S.blocked lone before).holding m (.until [if lone then .commit else .room]))).endIssue)
        | some S1 =>
          let c : Ctx :=
            { t := f.troupe, k := f.set, T := T, S := S1, mask := m, act := act, issue := u, now := s.cycle.toNat
              named := if T.place.isUnit || act == 0 then [] else namedRegs i }
          if S.handler.isSome && barredInHandler i && barredLanes i m act != 0 then
            some (.stop (s.raise c (barredLanes i m act) 0x0B 2 0 0))
          else if !(portsWait i S).isEmpty then
            if T.cue.ended then some (.stop (s.raise c m 0x0E 4 0 0))
            else some (.stop (s.stall f.troupe f.set m (majorOf i) (fun _ => portsWait i S)))
          else some (.go c)
    | _, _ => some (.stop s.endIssue)

/-- What an instruction does to one live thread of its figure: results for the active lanes, the window count for all,
and the next address. -/
def stepThread (c : Ctx) (ahead : Nat) (regs : Nat → List (Nat × Word)) (f : Nat → Thread → Thread) (next : Nat → Nat)
    (j : Nat) (th : Thread) : Thread :=
  let ws := (regs j).filter (fun w => decide (w.1 < 120))
  let th := if inMask c.act j then (f j th).write ahead ws else th.tick
  { th with pc := next j, hold := .ready, since := c.now, aged := false }

/-- The words that an instruction pushes: the results of active lanes, else 0 (09 R204). -/
def pushWords (c : Ctx) (regs : Nat → List (Nat × Word)) (q : Nat) : List Word :=
  (List.range 32).map (fun j => if inMask c.act j then (Tab.get? (regs j) (120 + q)).getD 0 else 0)

/-- The set after a step instruction: ports popped and pushed, threads advanced; a chunk of 1024 counted instructions
without a store closes, and a wait that is complete opens the next chunk (10 Table 10-1). -/
def SetState.retire (c : Ctx) (i : Instr) (regs : Nat → List (Nat × Word)) (f : Nat → Thread → Thread)
    (next : Nat → Nat) : SetState :=
  let S := (popsOf i).foldl (fun S j => S.take j) c.S
  let S := match pushOf i with
    | some q => S.push q { words := pushWords c regs q, taken := 0, pushed := 2 }
    | none => S
  let S := S.onLanes c.mask (stepThread c i.ahead regs f next)
  match S.chunk with
  | some k => if k.count = 1024 && !k.stored && k.tx == none then S.close else S
  | none =>
    let S := S.portsShift.portsCommit
    if opensNext i && c.act != 0 && !c.T.place.isUnit then (S.openChunk c.issue.group c.next).onChunk (fun k => { k with count := 1 }) else S

/-- Is the issue in progress a later part of a figure over several sets (20 R415)? -/
def Issue.later (u : Issue) : Bool :=
  match u.agent with
  | .step f => f.more
  | _ => false

/-- Sets of a core other than one, with their troupes. -/
def State.otherSets (s : State) (core t k : Nat) : List (Nat × Nat × SetState) :=
  s.troupes.flatMap (fun (e : Nat × Troupe) =>
    if e.2.place == .core core then (e.2.setTab.filter (fun f => !(e.1 == t && f.1 == k))).map (fun f => (e.1, f.1, f.2)) else [])

/-- The free physical register of a core with the lowest number (09 R199). -/
def State.freeReg (s : State) (core : Nat) : Option Nat :=
  let used := s.troupes.flatMap (fun (e : Nat × Troupe) =>
    if e.2.place == .core core then e.2.setTab.flatMap (fun (f : Nat × SetState) => f.2.physical) else [])
  (List.range 4096).find? (fun p => !used.contains p)

/-- A bound register of another set that no checkpoint names goes to its troupe's spill region (09 R200; log 55). -/
def State.spillOne (s : State) (core t k : Nat) : State :=
  match (s.otherSets core t k).findSome? (fun (u, j, S) =>
      (S.names.bound.find? (fun e => !S.pinned.contains e.2)).map (fun e => (u, j, e.1))) with
  | some (u, j, r) => s.onSet u j (fun S => { S with names := S.names.spill r })
  | none => s

/-- A register of a set takes a physical register; with none to be had its value lies in the spill region, and a result under lookahead
goes to its old binding. -/
def State.takeReg (s : State) (core t k r : Nat) (later : Bool) : State :=
  let s := if (s.freeReg core).isSome then s else s.spillOne core t k
  s.onSet t k (fun S => { S with names := match s.freeReg core with
    | some p => S.names.bind r p later
    | none => if later then S.names else S.names.spill r })

/-- One register that an instruction names: a spilled one returns first, so that the readers of a window have it (09 R199, R200). -/
def State.nameReg (s : State) (core t k : Nat) (n : Nat × Bool × Bool) : State :=
  match s.setAt? t k with
  | some S =>
    let s := if n.2.2 && S.names.spilled.contains n.1 then s.takeReg core t k n.1 false else s
    if S.takes n.1 n.2.1 n.2.2 then s.takeReg core t k n.1 n.2.2 else s
  | none => s

/-- Rename the registers that an instruction names (09 R199). -/
def State.rename (s : State) (c : Ctx) : State :=
  (c.named.foldl (fun (s : State) n => s.nameReg c.T.place.coreNo c.t c.k n) s).onSet c.t c.k SetState.settleNames

/-- The checkpoint of a chunk that the instruction itself has opened names its registers as they are after it (09 R201). -/
def State.nameChunk (s : State) (c : Ctx) : State :=
  if c.S.chunk.isSome then s else s.onSet c.t c.k (fun S => S.onChunk (fun k => { k with names := S.names }))

/-- The count of set instructions that a unit's register shows (05 Table 5-10). -/
def Ctx.counted (c : Ctx) (s : State) : State :=
  match c.T.place with
  | .unit k n => s.onUnit k n (fun U => { U with issued := (U.issued + 1) % 2 ^ 32 })
  | .core _ => s

/-- Count the figure, or a unit's set instruction (24 Table 24-6, 05 Table 5-10). -/
def State.countIssue (s : State) (c : Ctx) : State :=
  if c.T.place.isUnit then (c.counted s).tally (s.worldOf c.T) 9 1
  else if c.issue.later then c.counted s
  else (c.counted s).tally (s.worldOf c.T) 2 1

/-- Put a set back, with its registers renamed, count the issue and end it. -/
def State.done (s : State) (c : Ctx) (S : SetState) : State :=
  ((((s.onSet c.t c.k (fun _ => S)).rename c).nameChunk c).countIssue c).endIssue

/-- A step instruction that computes register, predicate or thread values only. -/
def vecOp (s : State) (i : Instr) (regs : Ctx → Nat → List (Nat × Word))
    (f : Ctx → Nat → Thread → Thread := fun _ _ th => th) : Host.Outcome State Fault Refusal :=
  match stepGo s i with
  | none => .fault .noIssuer
  | some (.stop t) => .next t
  | some (.go c) => .next (s.done c (SetState.retire c i (regs c) (f c) (fun _ => c.next)))

/-! ### The cue stream and the prologue issue -/

/-- The cue stream of the issue in progress. -/
def State.cueIssue? (s : State) : Option (Nat × Troupe × Issue) :=
  match s.cur with
  | some u => match u.agent with
    | .cue t => (s.troupes.get? t).map (fun T => (t, T, u))
    | _ => none
  | none => none

/-- The prologue run of the issue in progress. -/
def State.prologue? (s : State) : Option (Nat × Launch × Issue) :=
  match s.cur with
  | some u => match u.agent with
    | .prologue l => (s.launches.get? l).map (fun L => (l, L, u))
    | _ => none
  | none => none

/-- A precise trap of a cue stream (22 R442): it waits on the stream, which does not move, behind the traps raised before it (22 R451);
one raised in handler mode ends the launch, and nothing waits before it. -/
def State.raiseCue (s : State) (t pc cause reason code addr info : Nat) : State :=
  match s.troupes.get? t with
  | some T =>
    let fl := 1 + (if T.cue.handler.isSome then 2 ^ 4 else 0)
    let tr := s.record t
      { cause := cause, reason := reason, flags := fl, set := 0xFF, code := code, pc := pc, addr := addr, info := info
        after := match s.cur with | some u => u.word + 4 | none => pc }
    (s.onCue t (fun C => { C with
      traps := if C.handler.isSome then tr :: C.traps else C.traps ++ [tr], waiting := true })).endIssue
  | none => s.endIssue

/-- One prologue instruction is counted; after 256 without an end the run faults (16 R383, R386). -/
def State.prologueNext (s : State) (l next : Nat) (f : Launch → Launch) : State :=
  (s.onLaunch l (fun L => { (f L).tick with ppc := next, count := L.count + 1 })).endIssue

/-- A prologue instruction that writes a register, now or at the end of the window that it opens (02 R35). -/
def State.prologueWrite (s : State) (l next ahead d : Nat) (x : DWord) (f : Launch → Launch := fun L => L) : State :=
  (s.onLaunch l (fun L => { (f L).write ahead d x with ppc := next, count := L.count + 1 })).endIssue

/-- May a cue stream issue: started, not ended, idle, halted, trapping or stalled (20 R417)? -/
def cueCan (s : State) (T : Troupe) : Bool :=
  T.started && !T.cue.ended && !T.cue.idle && !T.halted && !(s.launchOf T).ending && !T.cue.waiting && T.cue.stall.isEmpty &&
    !s.lockedDown

/-- The cue stream waits at its instruction until each of some events; it was not ready, so that its core serves the next one (20
R417). With no event it stays ready and asks again (07 R149). -/
def State.cueStall (s : State) (t : Nat) (ws : List Wake) : State :=
  let s := (s.onCue t (fun C => { C with stall := ws })).endIssue
  match s.troupes.get? t with
  | some T => if ws.isEmpty then s else s.first [.cues T.place.coreNo]
  | none => s

/-- A cue instruction that computes one uniform register (16 R365-R371), in a cue stream or a prologue. `f` reads a
register and gives the result. -/
def cueOp (s : State) (d : Nat) (f : (Nat → DWord) → DWord) : Host.Outcome State Fault Refusal :=
  match s.cueIssue?, s.prologue? with
  | some (t, T, u), _ =>
    if !cueCan s T then .next s.endIssue
    else
      .next (s.onTroupe t (fun T => { T.write 0 d (f T.gets) with
        cue := { (T.write 0 d (f T.gets)).cue with pc := u.word + 4 } })).endIssue
  | none, some (l, L, u) =>
    .next (s.prologueWrite l (u.word + 4) 0 d (f (fun r => L.s.getD r 0)))
  | none, none => .fault .noIssuer

end Sys2Proof.Machine
end

