-- ==== Sys2Proof/Machine/Bank.lean ====
section
/-! DEFINITION. The banks: the regions of device addresses (07 Table 7-1), rows and granules with their checks, hot rows, retirement and
activations (04 R67-R88). -/

namespace Sys2Proof.Machine

/-! ### Regions (07 Table 7-1) -/

/-- DRAM of a slice. -/
def isDram (a : Nat) : Bool := decide (a < 2 ^ 39)

/-- The carved windows of the 64 slices, 64 MiB each (06 R127). -/
def isCarved (a : Nat) : Bool := decide (0x8000000000000 ≤ a) && decide (a < 0x8000000000000 + 2 ^ 32)

/-- Host memory. -/
def isHost (a : Nat) : Bool := a / 2 ^ 48 == 0xC

/-- Pooled and peer memory. -/
def isPool (a : Nat) : Bool := a / 2 ^ 48 == 0xD

/-- Memory outside the device. -/
def isOutside (a : Nat) : Bool := isHost a || isPool a

/-- The slice of a DRAM or carved address. -/
def sliceAt (a : Nat) : Nat := if isDram a then a / 2 ^ 33 else (a - 0x8000000000000) / 2 ^ 26

/-- The frame of a DRAM address within its slice (04 R68). -/
def frameAt (a : Nat) : Nat := (a % 2 ^ 33) / 2 ^ 21

/-- Row number of a DRAM address within its slice: row, pseudo-channel, bank group and bank (04 R68). -/
def rowAt (striped : Bool) (a : Nat) : Nat :=
  let a := a % 2 ^ 33
  let row := a / 2 ^ 17
  let n := (a / 64) % 32
  let z := (Nat.xor (Nat.xor (Nat.xor row (row / 8)) (Nat.xor (row / 64) (row / 512)))
    (Nat.xor (row / 4096) (row / 32768))) % 8
  let n := if striped then n else Nat.xor n (z * 4)
  row * 128 + (n / 4) * 16 + (n % 4) * 4 + (a / 2048) % 4

/-- The world that may reach a DRAM frame (04 R73): none while it is unassigned. -/
def State.frameWorld (s : State) (a : Nat) : Option Nat :=
  let S := s.slice (sliceAt a)
  match (S.frame (frameAt a)).ownersel with
  | 1 => some S.owner
  | 2 => some 0
  | _ => none

/-- Is an address in a compute-capable page (04 R70)? -/
def State.computeCapable (s : State) (a : Nat) : Bool :=
  let f := (s.slice (sliceAt a)).frame (frameAt a)
  isDram a && f.striped && decide (0 < f.pinned) && f.ownersel == 1

/-! ### Granules (04 R73-R80) -/

/-- The version that covers a granule (04 R79). -/
def State.version (s : State) (a : Nat) : Nat :=
  match (s.slice (sliceAt a)).vwin.find? (fun e => decide (e.2.base ≤ a / 4096) && decide (a / 4096 < e.2.base + e.2.len)) with
  | some e => e.2.ver
  | none => 0

/-- Has a pending-zero frame's granule not been written or zeroed yet (04 R74)? -/
def State.pendingZero (s : State) (a : Nat) : Bool :=
  let f := (s.slice (sliceAt a)).frame (frameAt a)
  f.pz && !f.fresh.contains ((a % 2 ^ 21) / 64)

/-- Why a read of a granule fails for a world (04 R73, Table 4-3, 24 R479), or none. -/
def State.granFault (s : State) (w a : Nat) : Option Nat :=
  if !isDram a then none
  else if (s.slice (sliceAt a)).state == 3 then some 0x50
  else if s.frameWorld a != some w then some 0x53
  else if s.pendingZero a then none
  else
    let g := s.gran.getD (a / 64) Gran0
    if g.poison || decide (2 < g.syms) then some 0x50
    else if g.bad || g.ver != s.version a then some 0x51
    else none

/-- Append an error record to a slice's DRAM history, with its counters (04 R88, R89). -/
def State.logErr (s : State) (a kind syms source : Nat) : State :=
  let k := sliceAt a
  let S := s.slice k
  let row := rowAt (S.frame (frameAt a)).striped a
  let r : ErrRec :=
    { time := s.now, dpa := a / 64 * 64, kind := kind, syms := syms, world := S.owner, pch := (row / 16) % 8
      bank := row % 16, row := row / 128, gen := S.gen, source := source }
  s.onSlice k (fun S => { S with
    errs := { count := (S.errs.count + 1) % 2 ^ 32, recs := S.errs.recs.set (S.errs.count % 1024) r }
    scrub := { S.scrub with
      corrected := if kind = 1 then satN 32 (S.scrub.corrected + 1) else S.scrub.corrected
      uncorrectable := if kind = 2 then satN 32 (S.scrub.uncorrectable + 1) else S.scrub.uncorrectable
      mismatches := if kind = 3 then satN 32 (S.scrub.mismatches + 1) else S.scrub.mismatches
      poisons := if kind = 4 then satN 32 (S.scrub.poisons + 1) else S.scrub.poisons } })

/-- A granule is written whole with a fresh sideband (04 R74, R77). -/
def State.freshen (s : State) (a : Nat) : State :=
  let v := s.version a
  let s := { s with gran := if v = 0 then s.gran.del (a / 64) else s.gran.set (a / 64) { ver := v, poison := false, bad := false, syms := 0 } }
  s.onFrame (sliceAt a) (frameAt a) (fun f =>
    if f.pz then
      let l := addNew f.fresh ((a % 2 ^ 21) / 64)
      if l.length = 32768 then { f with pz := false, fresh := [] } else { f with fresh := l }
    else f)

/-- Write the poison pattern into a granule (04 R77). -/
def State.poison (s : State) (a : Nat) : State :=
  let v := s.version a
  let s := s.freshen a
  { s with gran := s.gran.set (a / 64) { ver := v, poison := true, bad := false, syms := 0 } }

/-- A frame becomes pending-zero: its former bytes can never be read again (04 R74, R90; 24 R477). -/
def State.zeroFrame (s : State) (k f : Nat) : State :=
  let lo := k * 2 ^ 33 + f * 2 ^ 21
  let s := s.onFrame k f (fun fr => { fr with pz := true, fresh := [] })
  { s with
    mem := s.mem.filter (fun c => decide (c.1 < lo) || decide (lo + 2 ^ 21 ≤ c.1))
    gran := s.gran.filter (fun e => decide (e.1 < lo / 64) || decide ((lo + 2 ^ 21) / 64 ≤ e.1)) }

/-! ### Rows (04 R68) -/

/-- The first granule's address of row `r` of a slice, in the form of its frame. -/
def State.rowBase (s : State) (k r : Nat) : Nat :=
  let row := r / 128
  let n := (r / 16) % 8 * 4 + (r / 4) % 4
  let z := (Nat.xor (Nat.xor (Nat.xor row (row / 8)) (Nat.xor (row / 64) (row / 512)))
    (Nat.xor (row / 4096) (row / 32768))) % 8
  let n := if ((s.slice k).frame (row / 16)).striped then n else Nat.xor n (z * 4)
  k * 2 ^ 33 + row * 2 ^ 17 + (r % 4) * 2 ^ 11 + n * 64

/-- The 16 granules of a row, as addresses. -/
def State.rowGranules (s : State) (k r : Nat) : List Nat := (List.range 16).map (fun c => s.rowBase k r + c * 2 ^ 13)

/-- Change the scrubber of a slice. -/
def State.onScrub (s : State) (k : Nat) (f : Scrub → Scrub) : State := s.onSlice k (fun S => { S with scrub := f S.scrub })

/-- Log an event of a row against its first granule. -/
def State.logRow (s : State) (k r kind source : Nat) : State := s.logErr (s.rowBase k r) kind 0 source

/-! ### Retirement (04 R83) -/

/-- Spare rows of a bank that are in use. -/
def Scrub.used (x : Scrub) (r : Nat) : Nat := x.spares.getD (r % 128) 0

/-- Spare rows of a slice that are in use. -/
def Scrub.sparesUsed (x : Scrub) : Nat := (Tab.vals x.spares).foldl (· + ·) 0

/-- The first row on the hot lists whose score has reached THRESH and that can be retired. -/
def Scrub.ripe (x : Scrub) : Option Nat :=
  ((x.hot.flatMap (fun e => e.2)).find? (fun h => decide (x.thresh ≤ h.score) && decide (x.used h.row < 64))).map (·.row)

/-- Banks with a ripe row and no spare row left, not logged yet. -/
def Scrub.spent (x : Scrub) : List Nat :=
  addAll [] (((x.hot.flatMap (fun e => e.2)).filter (fun h =>
    decide (x.thresh ≤ h.score) && decide (64 ≤ x.used h.row) && !x.exhausted.contains (h.row % 128))).map (·.row))

/-- A ripe row starts its copy; a bank without spares is logged once. These records, which no read caused, have SOURCE 0 (DESIGN CHOICE,
log 65). -/
def State.retireRows (s : State) (k : Nat) : State :=
  let x := (s.slice k).scrub
  if !x.reten then s
  else
    let s := x.spent.foldl (fun (s : State) r =>
      if (s.slice k).scrub.exhausted.contains (r % 128) then s
      else (s.logRow k r 7 0).onScrub k (fun x => { x with exhausted := x.exhausted ++ [r % 128] })) s
    match x.copying, x.ripe with
    | none, some r => s.onScrub k (fun x => { x with copying := some r })
    | _, _ => s

/-! ### The hot list (04 R82) -/

/-- The entry that a full list gives up: the lowest score, and the oldest among equals. -/
def coldest : List HotRow → Option HotRow → Option HotRow
  | [], b => b
  | h :: t, none => coldest t (some h)
  | h :: t, some b => coldest t (if h.score < b.score then some h else some b)

/-- A correction on a row. -/
def State.warmRow (s : State) (k r n source : Nat) : State :=
  let p := (r / 16) % 8
  let l := (s.slice k).scrub.hot.getD p []
  let add := if n = 1 then 16 else 64
  if l.any (fun h => h.row == r) then
    s.onScrub k (fun x => { x with hot := x.hot.set p (l.map (fun h =>
      if h.row = r then { h with score := satN 8 (h.score + add), clean := 0 } else h)) })
  else
    let l := if l.length < 256 then l else match coldest l none with
      | some b => l.erase b
      | none => l
    let e : HotRow := { row := r, score := add, clean := 0 }
    (s.onScrub k (fun x => { x with hot := x.hot.set p (l ++ [e]) })).logRow k r 5 source

/-! ### Activations (04 R84, R86) -/

/-- A row is activated: counted in its window, throttled from the 4096th, when KIND 10 is logged for it, once a window (DESIGN CHOICE, log
53), and marked for the period if it is for a read. Every access of a granule counts as an activation (log 53); the record has the SOURCE of
what activates the row. -/
def State.activate (s : State) (k r : Nat) (read : Bool) (source : Nat := 0) : State :=
  let n := (s.slice k).scrub.acts.getD r 0 + 1
  let s := s.onScrub k (fun x => { x with acts := x.acts.set r n, marked := if read then addNew x.marked r else x.marked })
  if n = 4096 then (s.logRow k r 10 source).onScrub k (fun x => { x with throttled := addNew x.throttled r }) else s

/-! ### Reads and writes of a bank (04 R73, R78, R84, R86) -/

/-- Steps 1 to 3 of Table 4-3 on one granule: poison is reported, three or more symbols in error poison it in place, one or two are
corrected and written back, and the row enters the hot list. -/
def State.checkSymbols (s : State) (source a : Nat) : State :=
  let g := s.gran.getD (a / 64) Gran0
  let k := sliceAt a
  let r := rowAt ((s.slice k).frame (frameAt a)).striped a
  if s.pendingZero a then s
  else if g.poison then s.logErr a 4 0 source
  else if 2 < g.syms then (s.poison a).logErr a 2 0 source
  else if g.syms = 0 then s
  else
    let g' : Gran := { g with syms := 0 }
    let s : State := { s with gran := if g' = Gran0 then s.gran.del (a / 64) else s.gran.set (a / 64) g' }
    ((s.logErr a 1 g.syms source).warmRow k r g.syms source).retireRows k

/-- A row is activated for a read: it is counted and marked, and steps 1 to 3 check its 16 granules (04 R84). -/
def State.readRow (s : State) (k r source : Nat) : State :=
  (s.rowGranules k r).foldl (fun (s : State) a => s.checkSymbols source a) (s.activate k r true source)

/-- A world's read of the granule of an address reaches its bank: a key mismatch touches none and is logged; else the row is activated
and checked, and a tag that does not match is logged (04 R73, R78, R84). -/
def State.bankRead (s : State) (w a source : Nat) : State :=
  if !isDram a || (s.slice (sliceAt a)).state == 3 then s
  else if s.frameWorld a != some w then s.logErr a 9 0 source
  else
    let s := s.readRow (sliceAt a) (rowAt ((s.slice (sliceAt a)).frame (frameAt a)).striped a) source
    let g := s.gran.getD (a / 64) Gran0
    if !s.pendingZero a && !g.poison && (g.bad || g.ver != s.version a) then s.logErr a 3 0 source else s

/-- The row of a granule's address is activated for a write (04 R86). -/
def State.writeRow (s : State) (a source : Nat) : State :=
  s.activate (sliceAt a) (rowAt ((s.slice (sliceAt a)).frame (frameAt a)).striped a) false source

/-- A granule is written whole: its row is activated (04 R77, R86); a zeroing write has SOURCE 4 (R74). -/
def State.bankWrite (s : State) (a : Nat) (source : Nat := 0) : State := (s.writeRow a source).freshen a

/-- The poison pattern is written to a granule, as a write of its own (04 R77, R86). -/
def State.poisonWrite (s : State) (a : Nat) : State := (s.writeRow a 0).poison a

end Sys2Proof.Machine
end

