-- ==== Sys2Proof/Machine/Reach.lean ====
section
/-! DEFINITION. From an address to bytes: walks and leases (07), homes (06), the committed value of a byte (10 R215, R221) and the
reads and writes that reach a home (10 R217, R495). -/

namespace Sys2Proof.Machine

/-! ### Homes -/

/-- Key of a world's line in the home tables. -/
def lineKey (w line : Nat) : Nat := w * 2 ^ 45 + line

/-- Key of a granule's finding: a granule of the device by its address, an outside granule by the world whose home copy
holds it (log 6). -/
def granKey (w a : Nat) : Nat := if isOutside a then w * 2 ^ 46 + a / 64 else a / 64

/-- The home slice of a line (06 R123): the list of an outside line's slices is the one in force since the last quiesce point. -/
def State.home (s : State) (w line : Nat) : Nat :=
  let a := line * 128
  if isDram a then
    let S := s.slice (sliceAt a)
    if (S.frame (frameAt a)).ownersel = 2 then sliceAt a else S.homes.getD (frameAt a) (sliceAt a)
  else if isCarved a then sliceAt a
  else
    let L := (s.world w).outside
    L.getD (a / 4096 % L.length) 0

/-- Does the home hold the line? -/
def State.atHome (s : State) (w line : Nat) : Bool := (s.lines.get? (lineKey w line)).isSome

/-- Bytes that committed chunks of a world have not drained yet, the latest last (10 R221). Another world's stores to a line outside the
device are not seen before they are at its target (01 R17). -/
def State.undrained (s : State) (w a : Nat) : Option Byte :=
  s.drains.foldl (fun acc d => d.stores.foldl (fun acc st =>
    if d.world == w && decide (st.dpa ≤ a) && decide (a < st.dpa + st.bytes.length) then some (st.bytes.getD (a - st.dpa) 0) else acc) acc) none

/-- The committed value of a byte for a world's readers inside the device (10 R221): an undrained store, the home's copy
of an outside line, or memory. -/
def State.seen (s : State) (w a : Nat) : Byte :=
  match s.undrained w a with
  | some b => b
  | none =>
    if isOutside a then
      match s.copies.get? (lineKey w (a / 128)) with
      | some c => c.bytes.getD (a % 128) 0
      | none => s.mem.read a
    else s.mem.read a

/-- Committed bytes. -/
def State.seenBytes (s : State) (w a n : Nat) : List Byte := (List.range n).map (fun i => s.seen w (a + i))

/-- Committed value of `n` bytes, little-endian (00 R3). -/
def State.seenNat (s : State) (w a n : Nat) : Nat := leNat (s.seenBytes w a n)

/-! ### Signatures (10 R216) -/

/-- The hash of a line for one part of a signature. -/
def hashLine (j bits line : Nat) : Nat :=
  let k := match j with
    | 0 => 0x9E3779B97F4A7C15
    | 1 => 0xC2B2AE3D27D4EB4F
    | 2 => 0x165667B19E3779F9
    | _ => 0x85EBCA77C2B2AE63
  (line * k % 2 ^ 64) / 2 ^ (64 - bits)

/-- Does the read signature of these lines report a line? -/
def readSig (reads : List Nat) (line : Nat) : Bool :=
  (List.range 4).all (fun j => reads.any (fun r => hashLine j 9 r == hashLine j 9 line))

/-- Do two write signatures intersect? -/
def writeSig (a b : List Nat) : Bool :=
  (List.range 4).all (fun j => a.any (fun x => b.any (fun y => hashLine j 8 x == hashLine j 8 y)))

/-! ### The links (07 R145, 25 R482-R486) -/

/-- The port of an outside access: Rilem ports alternate by 4 KiB page while both are up; a pooled address takes a CXL
port the manual does not name (log 7). -/
def State.portOf (s : State) (a : Nat) : Nat :=
  if isHost a then
    if (s.port 0).up && (s.port 1).up then (a / 4096) % 2 else if (s.port 0).up then 0 else 1
  else 2 + Config.poolPort (a / 4096) % 4

/-- Is a pooled address in the region of a group that is not formed (25 R485)? -/
def State.groupDown (s : State) (a : Nat) : Bool :=
  isPool a && s.groups.any (fun e => decide (0 < e.2.len) && decide (e.2.base * 4096 ≤ a) &&
    decide (a < (e.2.base + e.2.len) * 4096) && e.2.state != 2)

/-- Does an outside access of a world get an error response at once (25 R484, R485; 24 R475)? A world's selective stream
that has gone insecure on port p stands as 16 + p in its list. -/
def State.linkDown (s : State) (w a : Nat) : Bool :=
  let p := s.portOf a
  !(s.port p).up || s.groupDown a || (s.port p).ide == 2 || (s.world w).trust.streams.contains (16 + p)

/-- Active lanes of a port that is up: a CXL port has 16 (01 Table 1-1, 25 Table 25-2; log 80). -/
def portLanes (p : Nat) : Nat := if p < 2 then Config.rilemLanes p % 256 else 16

/-- Why an access of a target that the step performs itself fails (07 R145, 24 R470, 25 R484; log 11): an error response at once, or the
completion status of the host. -/
def State.targetFault (s : State) (w a : Nat) : Option Nat :=
  if s.linkDown w a then some 0x50
  else if !s.inRun w || Config.linkStatus s.tick a = 1 then (if isHost a then some 0x27 else some 0x50)
  else none

/-! ### Walks (07 R150-R152) -/

/-- Why a walk fails: at stage one; at stage two, for a guest address that may be a stage-one table entry; or at a
stage-two leaf whose output is no memory of the world (cause 0x25). -/
inductive WalkErr where
  | one
  | two (gpa : Nat) (tbl : Bool)
  | target (gpa : Nat) (tbl : Bool)
  deriving DecidableEq, Repr, Inhabited

/-- A leaf: its output page, W, COW and P, and the page size 2 ^ `size`. -/
structure Leaf where
  out : Nat
  w : Bool
  cow : Bool
  p : Bool
  size : Nat
  deriving DecidableEq, Repr, Inhabited

/-- An entry's reserved bits (07 Table 7-2): C outside level 3, COW in stage two, and an output below the page size. -/
def entryBad (two : Bool) (lvl e : Nat) : Bool :=
  nfld e 6 6 != 0 || nfld e 52 12 != 0 || (bitAt e 5 && lvl != 3) || (two && bitAt e 3) ||
    (bitAt e 1 && lvl == 0) || (!bitAt e 1 && lvl == 3) ||
    (bitAt e 1 && nfld e 12 (9 * (3 - lvl)) != 0)

/-- Do sixteen level-3 entries form a 64 KiB page: valid leaves with C = 1, equal bits and consecutive outputs (07 R150)? -/
def groupOf (two : Bool) (es : List Nat) : Bool :=
  let e0 := es.headD 0
  es.length == 16 && (es.mapIdx (fun i e => bitAt e 0 && !entryBad two 3 e && bitAt e 5 && nfld e 0 12 == nfld e0 0 12 &&
    nfld e 12 40 == nfld e0 12 40 + i)).all id

/-- The entry at an address, or 0 where it cannot be read. -/
def entryOr (rd : Nat → Except WalkErr Nat) (a : Nat) : Nat :=
  match rd a with
  | .ok e => e
  | .error _ => 0

/-- Walk a table from a level down. `rd` reads a table entry by its address; `x` is the input address, of which bits [47:12] index the
tables; bits above them are not looked at (DESIGN CHOICE, log 69). -/
def walkFrom (two : Bool) (rd : Nat → Except WalkErr Nat) (err : WalkErr) (x : Nat) : List Nat → Nat → Except WalkErr Leaf
  | [], _ => .error err
  | lvl :: ls, table =>
    match rd (table + 8 * nfld x (39 - 9 * lvl) 9) with
    | .error e => .error e
    | .ok e =>
      if !bitAt e 0 || entryBad two lvl e then .error err
      else if bitAt e 1 then
        let size := 12 + 9 * (3 - lvl)
        let group := (List.range 16).map (fun i => entryOr rd (table + 8 * (nfld x 12 9 / 16 * 16 + i)))
        .ok { out := (nfld e 12 40 * 4096 + nfld x 12 (size - 12) * 4096) / 4096
              w := bitAt e 2, cow := bitAt e 3, p := bitAt e 4
              size := if bitAt e 5 && groupOf two group then 16 else size }
      else walkFrom two rd err x ls (nfld e 12 40 * 4096)

/-- May stage two map a world to this page (07 R152)? -/
def State.mayMap (s : State) (w page : Nat) : Bool :=
  let a := page * 4096
  (isDram a && s.frameWorld a == some w) ||
    (isCarved a && (s.slice (sliceAt a)).owner == w && (s.slice (sliceAt a)).state == 1) || isOutside a

/-- An entry of a world's stage-two tables: as it stands before the lock, and after it as the lock or the last INV found it (07 R151;
log 54). -/
def State.s2Entry (s : State) (w a : Nat) : Nat :=
  match (s.world w).trust.s2tab with
  | some t => (t.find? (fun e => e.1 == a)).elim 0 (·.2)
  | none => s.seenNat w a 8

/-- The valid entries of a table and of those under it. -/
def tableImage (rd : Nat → Nat) : Nat → Nat → List (Nat × Nat)
  | 0, _ => []
  | n + 1, table => (List.range 512).flatMap (fun i =>
      let e := rd (table + 8 * i)
      if !bitAt e 0 then [] else (table + 8 * i, e) :: (if bitAt e 1 then [] else tableImage rd n (nfld e 12 40 * 4096)))

/-- The stage-two entries of a world take effect as they stand (07 R151). -/
def State.fixTables (s : State) (w : Nat) : State :=
  let t := (s.world w).trust
  let now := if t.s2valid then tableImage (fun a => s.seenNat w a 8) 4 (t.s2root * 4096) else []
  s.onWorld w (fun W => { W with trust := { W.trust with s2tab := some now } })

/-- The world under whose key a walk reads a table (04 R73): the walking world for a frame of its own, else management, which holds the
stage-two tables. -/
def State.tableWorld (s : State) (w a : Nat) : Nat := if s.frameWorld a == some w || isOutside a then w else 0

/-- Does a table entry fail to be read: at its bank (04 R73, R78; 24 R479), or over its link? The walk then finds no valid entry there
(DESIGN CHOICE, log 69). -/
def State.tableBad (s : State) (w a : Nat) : Bool :=
  if isOutside a then s.linkDown w a
  else !s.atHome (s.tableWorld w a) (a / 128) && (s.granFault (s.tableWorld w a) a).isSome

/-- Stage two of a world: a guest page to a device page. -/
def State.stageTwo (s : State) (w gpa : Nat) (tbl : Bool) : Except WalkErr Leaf :=
  let W := s.world w
  if !W.trust.s2valid then .error (.two gpa tbl)
  else
    match walkFrom true (fun a => if s.tableBad w a then .error (.two gpa tbl) else .ok (s.s2Entry w a)) (.two gpa tbl) gpa [0, 1, 2, 3] (W.trust.s2root * 4096) with
    | .error e => .error e
    | .ok l => if s.mayMap w l.out then .ok l else .error (.target gpa tbl)

/-- Stage one of a world, live: a virtual page to its leaf. -/
def State.stageOne (s : State) (w tcid va : Nat) : Except WalkErr Leaf :=
  let c := (s.world w).ctx.getD tcid 0
  if !bitAt c 0 then .error .one
  else
    let rd (g : Nat) : Except WalkErr Nat :=
      match s.stageTwo w g true with
      | .error e => .error e
      | .ok l => if s.tableBad w (l.out * 4096 + g % 4096) then .error .one else .ok (s.seenNat w (l.out * 4096 + g % 4096) 8)
    walkFrom false rd .one va [0, 1, 2, 3] (nfld c 12 40 * 4096)

/-- Both stages, live (07 R150): a virtual page to its device page and effective bits. -/
def State.walk (s : State) (w tcid va : Nat) : Except WalkErr Page :=
  match s.stageOne w tcid va with
  | .error e => .error e
  | .ok l1 =>
    match s.stageTwo w (l1.out * 4096 + va % 4096) false with
    | .error e => .error e
    | .ok l2 => .ok { dpa := l2.out * 4096, w := l1.w && l2.w, cow := l1.cow, p := l1.p || l2.p, size := min l1.size l2.size }

/-! ### Leases and access checks (07 R153-R158) -/

/-- Does a lease entry cover an address? -/
def Lease.covers (l : Lease) (va : Nat) : Bool :=
  l.state == 2 && decide (l.base * 4096 ≤ va) && decide (va < l.base * 4096 + l.len * 4096)

/-- The leases of a launch that cover an address, with the access its own list declares. -/
def State.covering (s : State) (L : Launch) (va : Nat) : List (Use × Lease) :=
  (L.uses.map (fun u => (u, (s.world L.world).leases.getD u.entry Lease0))).filter (fun e => e.2.covers va)

/-- What an access is, for the checks of Table 7-6. -/
inductive Kind where
  | load
  | store
  | laneIn
  | laneOut
  | tensorIn
  | tensorOut
  deriving DecidableEq, Repr, Inhabited

/-- Does the access write? -/
def Kind.writes : Kind → Bool
  | .store | .laneOut | .tensorOut => true
  | _ => false

/-- Is the access a copy, which may use a streamed lease? -/
def Kind.copies : Kind → Bool
  | .load | .store => false
  | _ => true

/-- Is the access a tensor copy, which may touch protected and compute-capable pages? -/
def Kind.tensor : Kind → Bool
  | .tensorIn | .tensorOut => true
  | _ => false

/-- A lane's failure: cause, reason. -/
abbrev Bad := Nat × Nat

/-- Check 1 of Table 7-6: the covering resident lease, or a streamed one for a copy. -/
def State.leaseOf (s : State) (L : Launch) (k : Kind) (va : Nat) : Except Bad Lease :=
  let cs := if va < 2 ^ 48 then s.covering L va else []
  if cs.isEmpty then .error (0x20, 1)
  else if k.writes && !cs.any (fun e => e.1.rw) then .error (0x20, 2)
  else
    match cs.find? (fun e => !e.2.streamed) with
    | some e => .ok e.2
    | none =>
      if k.copies then match cs.head? with
        | some e => .ok e.2
        | none => .error (0x20, 1)
      else .error (0x20, 3)

/-- Is an address beyond the carve in force (06 R127)? -/
def State.beyondCarve (s : State) (a : Nat) : Bool :=
  isCarved a && decide ((s.slice (sliceAt a)).steps * 2 ^ 23 ≤ (a - 0x8000000000000) % 2 ^ 26)

/-- Checks 2 to 6 of Table 7-6 on a translation. -/
def State.pageBad (s : State) (k : Kind) (va : Nat) (p : Page) : Option Bad :=
  let a := p.dpa + va % 4096
  if k.writes && !p.w then some (0x22, 0)
  else if k.writes && p.cow then some (0x23, 0)
  else if !k.tensor && p.p then some (0x21, 0)
  else if !k.tensor && s.computeCapable a then some (0x39, 0)
  else if s.beyondCarve a then some (0x3A, 0)
  else none

/-- The page of a resident lease: its snapshot (07 R154). -/
def Lease.page (l : Lease) (va : Nat) : Page :=
  l.snap.getD (va / 4096) { dpa := 0, w := false, cow := false, p := false, size := 12 }

/-- An access of a core thread or cue stream through the launch's resident leases: checks 1 to 6, then the DPA. -/
def State.translate (s : State) (L : Launch) (k : Kind) (va : Nat) : Except Bad Nat :=
  match s.leaseOf L k va with
  | .error e => .error e
  | .ok l =>
    let p := l.page va
    match s.pageBad k va p with
    | some e => .error e
    | none => .ok (p.dpa + va % 4096)

/-! ### Commutative ranges and sealed buffers (06 R131-R138) -/

/-- The live range of a world that holds a virtual address under a context. -/
def World.rangeAt (W : World) (tcid va : Nat) : Option Nat :=
  (W.rngs.find? (fun e => e.2.valid && e.2.tcid == tcid && decide (e.2.base * 128 ≤ va) &&
    decide (va < e.2.base * 128 + e.2.len * 128))).map (·.1)

/-- The write-once entry, sealed or draining, that holds a virtual address. -/
def World.wobAt (W : World) (tcid va : Nat) : Option (Nat × Wob) :=
  W.wobs.find? (fun e => e.2.state != 0 && e.2.tcid == tcid && decide (e.2.base * 128 ≤ va) &&
    decide (va < e.2.base * 128 + e.2.len * 128))

/-- Does a line lie in a live range of a world, under whatever address: a granted resident lease of the range's context maps an
address of the range to it (06 R134, R135)? -/
def World.liveLine (W : World) (line : Nat) : Bool :=
  W.rngs.any (fun r => r.2.valid && W.leases.any (fun e => e.2.state == 2 && !e.2.streamed && e.2.tcid == r.2.tcid &&
    e.2.snap.any (fun p => p.2.dpa / 4096 == line / 32 && decide (r.2.base ≤ p.1 * 32 + line % 32) &&
      decide (p.1 * 32 + line % 32 < r.2.base + r.2.len))))

/-! ### Writes that reach a home (04 R77, 05 R105, 10 R495) -/

/-- Lines of a table of bytes. -/
def linesOf (t : Tab Byte) : List Nat := (Tab.keys t).foldl (fun l a => addNew l (a / 128)) []

/-- Granules of a table of bytes. -/
def granulesOf (t : Tab Byte) : List Nat := (Tab.keys t).foldl (fun l a => addNew l (a / 64)) []

/-- Write bytes to memory. -/
def Memory.writeTab (m : Memory) (t : Tab Byte) : Memory := t.foldl (fun m e => m.write e.1 e.2) m

/-- Mark a line that its home holds as dirty. -/
def State.dirtyLine (s : State) (w line : Nat) : State :=
  { s with lines := s.lines.adjust (lineKey w line) (fun h => { h with dirty := true }) }

/-- Write the bytes of one granule of device memory for a world: whole, or merged into a granule that reads well; a granule that fails
keeps its contents (10 R495). A line that its home holds merges there, and its granules are written back whole when it leaves. -/
def State.writeGranule (s : State) (w g : Nat) (t : Tab Byte) : State × Option Nat :=
  let a := g * 64
  if !isDram a then ({ s with mem := s.mem.writeTab t }, none)
  else
    let fault := s.granFault w a
    let held := s.atHome w (a / 128)
    let barred := match fault with
      | some c => c == 0x53 || (s.slice (sliceAt a)).state == 3 || (t.length != 64 && !held)
      | none => false
    if barred then (s.bankRead w a 0, fault)
    else if held && fault.isSome && t.length != 64 then ({ s with mem := s.mem.writeTab t }.dirtyLine w (a / 128), none)
    else
      let s := if t.length = 64 || held then s else s.bankRead w a 0
      let s : State := { s with mem := s.mem.writeTab t }
      (if held then (s.freshen a).dirtyLine w (a / 128) else s.bankWrite a, none)

/-- The home's copy of an outside line, fetched when it holds none (06 R122; log 11). -/
def State.copyOf (s : State) (w line : Nat) : Copy :=
  (s.copies.get? (lineKey w line)).getD { bytes := s.mem.readBytes (line * 128) 128, dirty := 0 }

/-- Merge bytes into a home's copy of an outside line and mark them dirty, or clean when they are also at the target. -/
def State.mergeCopy (s : State) (w line : Nat) (t : Tab Byte) (dirty : Bool) : State :=
  let c := s.copyOf w line
  let bytes := t.foldl (fun b e => setAt b (e.1 % 128) e.2) c.bytes
  let d := t.foldl (fun d e =>
    if dirty then d ||| BitVec.ofNat 128 (2 ^ (e.1 % 128)) else d &&& ~~~ BitVec.ofNat 128 (2 ^ (e.1 % 128))) c.dirty
  { s with copies := s.copies.set (lineKey w line) { bytes := bytes, dirty := d } }

/-- Width of a range's elements. -/
def Rng.width (r : Rng) : Nat := if r.fmt = 0 then 4 else 8

/-- Bytes at the home of a line, without what is still undrained. -/
def State.homeBytes (s : State) (w a n : Nat) : List Byte :=
  (List.range n).map (fun i =>
    if isOutside a then (s.copyOf w ((a + i) / 128)).bytes.getD ((a + i) % 128) 0 else s.mem.read (a + i))

/-- A home changes an element of a line: in the line where it holds it, which is dirty from now on (06 R122); else in its granule, read and
written whole, where a granule that fails keeps its contents (04 R77, R78), or at the target of an outside line, where what a link that is
down cannot take is lost. -/
def State.homePut (s : State) (w a : Nat) (bs : List Byte) : State :=
  if isOutside a then
    if (s.copies.get? (lineKey w (a / 128))).isSome then s.mergeCopy w (a / 128) (bs.mapIdx (fun i b => (a + i, b))) true
    else if s.linkDown w a then s
    else { s with mem := s.mem.writeBytes a bs }
  else (s.writeGranule w (a / 64) (bs.mapIdx (fun i b => (a + i, b)))).1

/-- Combine a partial into its line: each sum adds modulo the element's width (06 R133, R134). -/
def State.addPartial (s : State) (p : Partial) : State :=
  let n := ((s.world p.world).rngs.getD p.range Rng0).width
  p.sums.foldl (fun (s : State) (e : Nat × Nat) =>
    s.homePut p.world e.1 (leBytes n ((leNat (s.homeBytes p.world e.1 n) + e.2) % 2 ^ (8 * n)))) s

/-- The home gathers a line's partials from every core, in ascending core number (06 R134 case 2). -/
def State.combine (s : State) (line : Nat) : State :=
  (Tab.keys s.cores).foldl (fun (s : State) (c : Nat) =>
    match (s.coreAt c).partials.get? line with
    | some p => (s.addPartial p).onCore c (fun C => { C with partials := C.partials.del line })
    | none => s) s

/-- Bytes of a run. -/
def runTab (a : Nat) (bs : List Byte) : Tab Byte := (bs.mapIdx (fun i b => (a + i, b)))

/-! ### Failures at homes, banks and targets (04 R78; 24 R479; 25 R484, R485) -/

/-- A home gives up its copy of an outside line. -/
def State.dropCopy (s : State) (w line : Nat) : State :=
  { s with
    copies := s.copies.del (lineKey w line)
    gran := s.gran.filter (fun e => e.1 != granKey w (line * 128) && e.1 != granKey w (line * 128 + 64) || !isOutside (line * 128)) }

/-- Does an address lie in the contained slice of its home or its DRAM (24 R479)? -/
def State.contained (s : State) (w a : Nat) : Bool :=
  (s.slice (s.home w (a / 128))).state == 3 || ((isDram a || isCarved a) && (s.slice (sliceAt a)).state == 3)

/-- Why a read fails at its home, its bank or its target (04 R78, 24 R479, 25 R484); a line that the home holds needs no
bank and no link. -/
def State.readFault (s : State) (w a : Nat) : Option Nat :=
  if s.contained w a || (isOutside a && s.groupDown a) then some 0x50
  else if isOutside a then
    if (s.copies.get? (lineKey w (a / 128))).isNone then s.targetFault w a
    else if (s.gran.getD (granKey w a) Gran0).poison then some 0x50 else none
  else if s.atHome w (a / 128) then none
  else s.granFault w a

/-- Reads of a world on a CXL port that are out (06 R141). -/
def State.readsOut (s : State) (w p : Nat) : Nat :=
  (s.requests.filter (fun r => r.2.world == w && r.2.port == p && match r.2.kind with
    | .read _ | .fill => true
    | _ => false)).length

/-- Reads of one core's copies among them (06 R141): its engine's. -/
def State.engineReads (s : State) (core w p : Nat) : Nat :=
  (s.requests.filter (fun r => r.2.world == w && r.2.port == p && (match r.2.kind with
    | .read _ => true
    | _ => false) && match r.2.owner with
    | .op c _ _ => c == core
    | _ => false)).length

/-- May a world send a read of an address: fewer than MAXOUT are out on its CXL port (06 R141)? -/
def State.mayRead (s : State) (w a : Nat) : Bool :=
  decide (s.portOf a < 2) || decide (s.readsOut w (s.portOf a) < (s.world w).maxout)

/-- Send a request over a link. -/
def State.send (s : State) (k : ReqKind) (o : ReqOwner) (w a l : Nat) (va : Nat := 0) : State :=
  { s with
    requests := s.requests.set s.nextId
      { kind := k, owner := o, world := w, port := s.portOf a, dpa := a, launch := l, va := va, down := s.linkDown w a }
    nextId := s.nextId + 1 }

/-! ### One-line writes in the global order (10 R217, R223, R225, R226) -/

/-- Is a line held back from a new write at its home: a grant of its arbiter or a drain not finished, a starving set's hold, or a committing
chunk of the world that read it and answers with a refusal (10 R217, R219)? Another world's writes have other homes, or are nothing to its
lines (01 R17). -/
def State.lineBusy (s : State) (w line : Nat) : Bool :=
  s.grants.any (fun g => g.home == s.home w line && writeSig g.lines [line]) ||
    s.drains.any (fun d => d.world == w && d.homes.contains (s.home w line) && writeSig d.lines [line]) ||
    s.troupes.any (fun (e : Nat × Troupe) => s.worldOf e.2 == w && e.2.setTab.any (fun (f : Nat × SetState) =>
      f.2.held.contains line ||
        match f.2.closing with
        | some c => (match c.phase with
          | .granting _ | .acking .. => readSig c.reads line
          | _ => false)
        | none => false))

/-- A sealed line has left an L1: its buffer's count falls, and a draining buffer with none out is free (06 Table 6-6). -/
def State.lessSealed (s : State) (l : L1Line) : State :=
  match (s.world l.world).wobAt l.tcid (l.va * 128) with
  | some (i, _) => s.onWorld l.world (fun W => { W with wobs := W.wobs.adjust i (fun b =>
      { b with rc := b.rc - 1, state := if b.state = 2 && b.rc ≤ 1 then 0 else b.state }) })
  | none => s

/-- L1 lines that satisfy `p core line` are dropped (10 Table 10-3 step 3); sealed ones give their counts back. -/
def State.dropL1 (s : State) (p : Nat → L1Line → Bool) : State :=
  let gone := s.cores.flatMap (fun (e : Nat × Core) => e.2.l1.filter (fun l => l.sealed && p e.1 l))
  let s : State := { s with cores := s.cores.map (fun (e : Nat × Core) =>
    (e.1, { e.2 with l1 := e.2.l1.filter (fun l => !p e.1 l) })) }
  gone.foldl (fun (s : State) l => s.lessSealed l) s

/-- Every open chunk of the world that read a line is squashed, but for the writer's own set (10 Table 10-3 step 3; 01 R13). -/
def State.squashReaders (s : State) (w : Nat) (lines : List Nat) (own : Option (Nat × Nat)) : State :=
  s.troupes.foldl (fun (s : State) (e : Nat × Troupe) => e.2.setTab.foldl (fun (s : State) (f : Nat × SetState) =>
    if own == some (e.1, f.1) || s.worldOf e.2 != w then s
    else
      match f.2.closing, f.2.chunk with
      | some c, o =>
        if lines.any (fun l => readSig c.reads l) then s.squash e.1 f.1 true
        else if (o.map (fun (c : Chunk) => lines.any (fun l => readSig c.reads l))).getD false then s.squash e.1 f.1 false
        else s
      | none, some c => if lines.any (fun l => readSig c.reads l) then s.squash e.1 f.1 false else s
      | none, none => s) s) s

/-- Every core of a world drops its copies, but for a writer's own core that takes the bytes, and every open chunk that read a line is
squashed. -/
def State.expose (s : State) (w : Nat) (lines : List Nat) (keep : Option Nat := none) : State :=
  (s.dropL1 (fun n l => l.world == w && lines.contains l.dpa && keep != some n)).squashReaders w lines none

/-- A commit reaches the L1s of its world: other cores drop the lines, and the writer's own copies take the stores (10 Table 10-3 step 3; 11
Table 11-2). -/
def State.exposeCommit (s : State) (w core : Nat) (c : Chunk) (own : Nat × Nat) : State :=
  (s.dropL1 (fun n l => l.world == w && c.writes.contains l.dpa && n != core)).squashReaders w c.writes (some own)

/-- Stores of a world leave: a line that one writes under the streaming or the bypass policy leaves the L1 of its core
(11 Table 11-2). -/
def State.dropPassed (s : State) (w troupe : Nat) (sts : List Store) : State :=
  let out := sts.filter (fun x => decide (2 ≤ x.l1))
  if out.isEmpty then s
  else
    let core := (s.troupes.get? troupe).map (·.place.coreNo)
    s.dropL1 (fun n l => l.world == w && core.all (· == n) && out.any (fun x => x.dpa / 128 == l.dpa))

/-! ### Lines at their homes (06 R122-R128) -/

/-- The dirty bytes of a copy, by address (06 R122). -/
def Copy.dirtyBytes (c : Copy) (line : Nat) : Tab Byte :=
  ((List.range 128).filter (fun i => c.dirty.getLsbD i)).map (fun i => (line * 128 + i, c.bytes.getD i 0))

/-- Has a home's copy of an outside line been poisoned (06 R143)? -/
def State.copyPoisoned (s : State) (w line : Nat) : Bool :=
  isOutside (line * 128) && ((s.gran.getD (granKey w (line * 128)) Gran0).poison || (s.gran.getD (granKey w (line * 128 + 64)) Gran0).poison)

/-- A line leaves its home and every L1 (11 R269): committed dirty bytes go back to their target, and a dirty line of device memory is
written back in whole granules (04 R77). Poisoned bytes go nowhere. -/
def State.invalidate (s : State) (w line : Nat) : State :=
  let a := line * 128
  let s : State := match s.copies.get? (lineKey w line) with
    | some c =>
      if s.linkDown w a || s.copyPoisoned w line then s else { s with mem := s.mem.writeTab (c.dirtyBytes line) }
    | none =>
      if isDram a && s.frameWorld a == some w && ((s.lines.get? (lineKey w line)).map (·.dirty)).getD false then
        (s.bankWrite a).bankWrite (a + 64)
      else s
  { s.dropCopy w line with lines := s.lines.del (lineKey w line) }.dropL1 (fun _ l => l.world == w && l.dpa == line)

/-- A home gives up a line: chunks that read it are squashed (10 R218). -/
def State.evictLine (s : State) (w line : Nat) : State := ((s.combine line).invalidate w line).expose w [line]

/-- May a line leave its home now: it does not drain, and its target can take what is dirty? -/
def State.mayLeave (s : State) (w line : Nat) : Bool :=
  !s.lineBusy w line && !s.copyPoisoned w line &&
    !(isOutside (line * 128) && ((s.copies.get? (lineKey w line)).map (fun c => c.dirty != 0)).getD false && s.linkDown w (line * 128))

/-- World and line of a key. -/
def keyLine (key : Nat) : Nat × Nat := (key / 2 ^ 45, key % 2 ^ 45)

/-- The other lines that lie in the ways of a line's set at its home: the low 16 bits of a line number name its set (06 R122; log 52). -/
def State.rivals (s : State) (w line : Nat) : List (Nat × HomeLine) :=
  s.lines.filter (fun e => e.1 != lineKey w line && decide (e.2.way < 16) && (keyLine e.1).2 % 65536 == line % 65536 &&
    s.home (keyLine e.1).1 (keyLine e.1).2 == s.home w line)

/-- The least recently used of some lines. -/
def oldestLine (es : List (Nat × HomeLine)) : Option Nat :=
  match minNat (es.map (fun e => e.2.used)) with
  | some n => (es.find? (fun e => e.2.used == n)).map (·.1)
  | none => none

/-- The line that gives way: the least recently used unretained one, else the least recently used (06 R126). -/
def State.victim (s : State) (es : List (Nat × HomeLine)) : Option Nat :=
  let es := es.filter (fun e => s.mayLeave (keyLine e.1).1 (keyLine e.1).2)
  match oldestLine (es.filter (fun e => !e.2.retained)) with
  | some key => some key
  | none => oldestLine es

/-- A set of a home with all its ways in use gives one up (06 R122, R127). -/
def State.makeRoom (s : State) (w line : Nat) : State :=
  let es := s.rivals w line
  if es.length < 16 - (s.slice (s.home w line)).steps then s
  else match s.victim es with
    | some key => s.evictLine (keyLine key).1 (keyLine key).2
    | none => s

/-- May a line be marked retained: fewer than RETAINW lines of its set are (06 R126)? -/
def State.mayRetain (s : State) (w line : Nat) : Bool :=
  decide (((s.rivals w line).filter (fun e => e.2.retained)).length < s.ctl.retainw)

/-- The lowest free way of a line's set (06 R122); carved storage has none, 17 (06 R127). -/
def State.freeWay (s : State) (w line : Nat) : Option Nat :=
  if isCarved (line * 128) then some 17
  else
    let es := s.rivals w line
    (List.range (16 - (s.slice (s.home w line)).steps)).find? (fun n => !es.any (fun e => e.2.way == n))

/-- A line is used at its home, and held there from now on where a way can be had: the MSC policy places it (06 R122, R124, R126). A
compute-capable page is never cached (06 R123). -/
def State.takeLine (s : State) (w line pol : Nat) (prot : Bool) : State :=
  let now := if pol = 1 then 0 else s.tick + 1
  match s.lines.get? (lineKey w line) with
  | some h =>
    let h' : HomeLine :=
      { h with used := s.tick + 1, retained := h.retained || (pol == 2 && decide (h.way < 16) && s.mayRetain w line), prot := prot }
    { s with lines := s.lines.set (lineKey w line) h' }
  | none =>
    if s.computeCapable (line * 128) then s
    else
      let s := if isCarved (line * 128) then s else s.makeRoom w line
      match s.freeWay w line with
      | none => s
      | some n =>
        let h : HomeLine :=
          { clusters := [], slices := [], retained := pol == 2 && s.mayRetain w line, dirty := false, prot := prot, way := n, used := now }
        { s with lines := s.lines.set (lineKey w line) h }

/-- Is a line that a home holds ciphertext (06 R124)? -/
def State.protLine (s : State) (w line : Nat) : Bool := ((s.lines.get? (lineKey w line)).map (·.prot)).getD false

/-- The companion processor returns a line before any access of the device (25 R483). -/
def State.takeBack (s : State) (line : Nat) : State := { s with hostHeld := s.hostHeld.filter (fun e => e.1 != line) }

/-- Why a write cannot be performed at its home: the home, or the storage behind it, is contained (24 R479); a group of the line is not
formed (25 R485); or an outside line that the home does not hold cannot be fetched (07 R145, 25 R484). A granule of device memory is
checked as it is written. -/
def State.storeFault (s : State) (w a : Nat) : Option Nat :=
  if s.contained w a || (isOutside a && s.groupDown a) then some 0x50
  else if isOutside a && (s.copies.get? (lineKey w (a / 128))).isNone then s.targetFault w a
  else none

/-- Bytes performed at their homes for a world, under an MSC policy, after the companion processor has returned their lines (25 R483). Answers
the granules that failed, with their causes. -/
def State.homeWrite (s : State) (w : Nat) (t : Tab Byte) (pol : Nat → Nat := fun _ => 0) : State × List (Nat × Nat) :=
  let s := (linesOf t).foldl (fun s l => ((s.takeBack l).combine l).movesThrough w (s.home w l)) s
  (granulesOf t).foldl (fun (p : State × List (Nat × Nat)) g =>
    let part := t.filter (fun e => e.1 / 64 == g)
    match p.1.storeFault w (g * 64) with
    | some c => (p.1, p.2 ++ [(g * 64, c)])
    | none =>
    if isOutside (g * 64) then
      if !p.1.ctl.poolc && (p.1.copies.get? (lineKey w (g / 2))).isNone then ({ p.1 with mem := p.1.mem.writeTab part }, p.2)
      else
      let s := (p.1.mergeCopy w (g / 2) part true).takeLine w (g / 2) (pol (g / 2)) (p.1.protLine w (g / 2))
      (if part.length = 64 then { s with gran := s.gran.del (granKey w (g * 64)) } else s, p.2)
    else
      match p.1.writeGranule w g part with
      | (s', some c) => (s', p.2 ++ [(g * 64, c)])
      | (s', none) => (s', p.2)) (s, [])

/-- The lines in a slice's sync store (06 R128). -/
def State.syncLines (s : State) (k : Nat) : List (Nat × HomeLine) :=
  s.lines.filter (fun e => e.2.way == 16 && s.home (keyLine e.1).1 (keyLine e.1).2 == k)

/-- A line goes back from the sync store to the cache part of its home, if a way can be had there. -/
def State.fromSync (s : State) (w line : Nat) : State :=
  let s := s.makeRoom w line
  match s.freeWay w line with
  | some n => { s with lines := s.lines.adjust (lineKey w line) (fun h => { h with way := n }) }
  | none => s.evictLine w line

/-- A line moves to the sync store of its home: 8192 lines, the least recently used goes back (06 R128). -/
def State.toSync (s : State) (w line : Nat) : State :=
  let h := (s.lines.get? (lineKey w line)).getD
    { clusters := [], slices := [], retained := false, dirty := false, prot := false, way := 16, used := 0 }
  let s : State := { s with lines := s.lines.set (lineKey w line) { h with way := 16, retained := false, used := s.tick + 1 } }
  let es := s.syncLines (s.home w line)
  if es.length ≤ 8192 then s
  else match oldestLine es with
    | some key => s.fromSync (keyLine key).1 (keyLine key).2
    | none => s

/-- A read of `n` bytes of one line reaches its home: partials are gathered first (06 R134), and what the home does not hold of device
memory comes from its bank (06 R122; 04 R78). -/
def State.serve (s : State) (w a n : Nat) : State :=
  let s := ((s.takeBack (a / 128)).combine (a / 128)).movesThrough w (s.home w (a / 128))
  if s.atHome w (a / 128) || (s.copies.get? (lineKey w (a / 128))).isSome then s.takeLine w (a / 128) 0 (s.protLine w (a / 128))
  else (List.range ((a % 64 + n + 63) / 64)).foldl (fun (s : State) i => s.bankRead w (a / 64 * 64 + 64 * i) 0) s

/-! ### What a walk reads (04 R78, R84, R86; 07 R150, R152) -/

/-- Addresses and sizes of the entries that a walk of one stage reads: one to a level, and the line of a leaf's group. -/
def walkPath (two : Bool) (rd : Nat → Option Nat) (x : Nat) : List Nat → Nat → List (Nat × Nat)
  | [], _ => []
  | lvl :: ls, table =>
    let a := table + 8 * nfld x (39 - 9 * lvl) 9
    match rd a with
    | none => [(a, 8)]
    | some e =>
      if !bitAt e 0 || entryBad two lvl e then [(a, 8)]
      else if bitAt e 1 then (a, 8) :: (if bitAt e 5 then [(a / 128 * 128, 128)] else [])
      else (a, 8) :: walkPath two rd x ls (nfld e 12 40 * 4096)

/-- Entries that stage two reads for a guest address. -/
def State.twoPath (s : State) (w gpa : Nat) : List (Nat × Nat) :=
  if !(s.world w).trust.s2valid then []
  else walkPath true (fun a => if s.tableBad w a then none else some (s.s2Entry w a)) gpa [0, 1, 2, 3] ((s.world w).trust.s2root * 4096)

/-- Entries that both stages read for a virtual address, in order. -/
def State.walkReads (s : State) (w tcid va : Nat) : List (Nat × Nat) :=
  let c := (s.world w).ctx.getD tcid 0
  if !bitAt c 0 then []
  else
    let rd (g : Nat) : Option Nat := match s.stageTwo w g true with
      | .ok l => if s.tableBad w (l.out * 4096 + g % 4096) then none else some (s.seenNat w (l.out * 4096 + g % 4096) 8)
      | .error _ => none
    let one := (walkPath false rd va [0, 1, 2, 3] (nfld c 12 40 * 4096)).flatMap (fun e =>
      s.twoPath w e.1 ++ match s.stageTwo w e.1 true with
        | .ok l => [(l.out * 4096 + e.1 % 4096, e.2)]
        | .error _ => [])
    one ++ match s.stageOne w tcid va with
      | .ok l => s.twoPath w (l.out * 4096 + va % 4096)
      | .error _ => []

/-- A walk's reads reach the homes of the table entries, and the banks of those that no home holds (04 R84, R86; 23 R466). -/
def State.readTables (s : State) (w tcid va : Nat) : State :=
  (s.walkReads w tcid va).foldl (fun (s : State) e => s.serve (s.tableWorld w e.1) e.1 e.2) s

/-- Why the fill of a line fails: at its home, its bank or its link. -/
def State.fillError (s : State) (w line : Nat) : Option Nat :=
  match s.readFault w (line * 128) with
  | some c => some c
  | none => s.readFault w (line * 128 + 64)

/-- A read of `n` bytes of one line is served by its home (06 R122; 11 Table 11-2): a line that reads well as a whole is held there from
now on under an MSC policy, an outside line once it is fetched (log 11); of another, only the granules asked for are read. -/
def State.homeRead (s : State) (w a n pol : Nat) : State :=
  let line := a / 128
  let whole := (s.fillError w line).isNone
  let s := (s.takeBack line).combine line
  if s.atHome w line then s.takeLine w line pol (s.protLine w line)
  else if isOutside a then
    if whole && s.ctl.poolc then { s with copies := s.copies.set (lineKey w line) (s.copyOf w line) }.takeLine w line pol false else s
  else if whole then (s.serve w (line * 128) 128).takeLine w line pol false
  else s.serve w a n

/-- Bytes are stored at their homes under MSC policies: a line of device memory that they cover whole, or that reads well, is held there
from now on (06 R122, R126). -/
def State.homeStore (s : State) (w : Nat) (t : Tab Byte) (pol : Nat → Nat := fun _ => 0) : State × List (Nat × Nat) :=
  let s := (linesOf t).foldl (fun (s : State) l =>
    if isOutside (l * 128) then s
    else if (t.filter (fun e => e.1 / 128 == l)).length = 128 && !s.contained w (l * 128) && s.frameWorld (l * 128) == some w then
      (s.combine l).takeLine w l (pol l) (s.protLine w l)
    else if (s.fillError w l).isNone then s.homeRead w (l * 128) 128 (pol l)
    else s) s
  s.homeWrite w t pol

/-- A one-line write of the cue stream or an engine: performed whole at its place in the global order.
`none` while the line is held back. -/
def State.writeLine (s : State) (w : Nat) (t : Tab Byte) (pol : Nat := 0) (keep : Option Nat := none) :
    Option (State × List (Nat × Nat)) :=
  if (linesOf t).any (s.lineBusy w) then none
  else
    let (s, bad) := s.homeStore w t (fun _ => pol)
    some (s.expose w (linesOf t) keep, bad)

end Sys2Proof.Machine
end

