-- ==== Sys2Proof/Machine/Ends.lean ====
section
/-! DEFINITION. The actions of a trap (22 R445-R447) and the ends they bring to launches and worlds (07 R158; 24 R471). -/

namespace Sys2Proof.Machine

/-- A launch ends with a status (22 R446, 07 R158): none of its sets or cue streams issues again. The first end stands. -/
def State.endLaunch (s : State) (l status detail : Nat) : State :=
  s.onLaunch l (fun L =>
    if L.ending || L.stage == .done then L
    else { L with ending := true, status := status, user := false, detail := detail })

/-- The device address that a page gives the choreographer: not in a protected or a compute-capable page, nor beyond the carve
(06 R124, R127; 05 R102; log 56). -/
def State.choreoByte (s : State) (va : Nat) (p : Page) : Except Nat Nat :=
  match s.pageBad .load va p with
  | some (c, _) => .error c
  | none => .ok (p.dpa + va % 4096)

/-- Device address of a byte under a driver-held resident lease of a context, or the cause: 0x20 with no such lease. -/
def State.driverByte (s : State) (w tcid va : Nat) (rw : Bool) : Except Nat Nat :=
  match (s.world w).leases.find? (fun (e : Nat × Lease) =>
    e.2.drv && !e.2.streamed && (e.2.rw || !rw) && e.2.tcid == tcid && e.2.covers va) with
  | some (_, l) => s.choreoByte va (l.page va)
  | none => .error 0x20

/-- Device address of `n` bytes of one page under such a lease. -/
def State.driverDpa (s : State) (w tcid va n : Nat) (rw : Bool) : Except Nat Nat :=
  match s.driverByte w tcid (va + n - 1) rw with
  | .ok _ => s.driverByte w tcid va rw
  | .error c => .error c

/-- A home that holds a line takes bytes that were performed at the target, and keeps them clean (10 R230). -/
def State.refresh (s : State) (w a : Nat) (bs : List Byte) : State :=
  if (s.copies.get? (lineKey w (a / 128))).isSome then s.mergeCopy w (a / 128) (runTab a bs) false else s

/-- Bytes of one line are written for the choreographer: at their home, or performed at their target (log 11), after the line's partials are
combined (06 R135). Answers the cause of a failure. -/
def State.putLine (s : State) (w a : Nat) (bs : List Byte) : State × Option Nat :=
  if isOutside a then
    let s := s.combine (a / 128)
    match s.targetFault w a with
    | some c => (s, some c)
    | none => ((({ s with mem := s.mem.writeBytes a bs } : State).refresh w a bs).expose w [a / 128], none)
  else if s.contained w a then (s, some 0x50)
  else
    let (s, bad) := s.homeWrite w (runTab a bs)
    (s.expose w [a / 128], bad.head?.map (·.2))

/-- STATE 2 is written into a queue's record, where the choreographer can reach it (21 Table 21-1). -/
def State.markStopped (s : State) (q : Slot) : State :=
  match s.driverDpa q.world 0 (q.record + 0x18) 1 true with
  | .error _ => s
  | .ok a => (s.putLine q.world a [2]).1

/-- Every launch of a world ends with status 11, and its mapped queues take STATE 2 (22 R446 action 3, 24 R471). -/
def State.endWorld (s : State) (w detail : Nat) : State :=
  let s := (Tab.keys (s.launches.filter (fun (e : Nat × Launch) => e.2.world == w))).foldl
    (fun (s : State) (l : Nat) => s.endLaunch l 11 detail) s
  let mine := s.slots.filter (fun (e : Nat × Slot) => e.2.world == w && e.2.state != 0)
  let s : State := { s with slots := s.slots.map (fun (e : Nat × Slot) =>
      if e.2.world == w && e.2.state != 0 then (e.1, { e.2 with state := 2 }) else e) }
  mine.foldl (fun (s : State) (e : Nat × Slot) => s.markStopped e.2) s

/-- A world's interface enters ERROR (24 R471). -/
def State.errorWorld (s : State) (w detail : Nat) : State :=
  (s.endWorld w detail).onWorld w (fun W => { W with trust := { W.trust with tstate := 4 } })

/-- Action 4: every launch of every world ends, until cold reset (22 R446). -/
def State.lockDown (s : State) (detail : Nat) : State :=
  { (Tab.keys s.launches).foldl (fun (s : State) (l : Nat) => s.endLaunch l 11 detail) s with lockedDown := true }

/-- The class of a cause: the field of SEC_ACT that holds its action (22 Table 22-3). -/
def classOfCause (cause : Nat) : Nat :=
  if cause < 0x20 then 0 else if cause < 0x40 then 1 else if cause < 0x50 then 2 else if cause < 0x60 then 3
  else if cause < 0x70 then 4 else 5

/-- The action of a world's table for a cause. -/
def State.tableAction (s : State) (w cause : Nat) : Nat := nfld (s.world w).trust.act (3 * classOfCause cause) 3

/-- The action taken (22 R447): `valid` says that the launch has a valid handler, `unit` that a near-bank unit raised
the trap, `ended` that an asynchronous trap finds its stream or troupe ended. -/
def State.action (s : State) (w : Nat) (tr : Trap) (valid unit ended : Bool) : Nat :=
  let a := s.tableAction w tr.cause
  let a := if a ≤ 1 && (tr.cause = 0x25 || tr.cause = 0x70 || tr.cause = 0x71) then 1 else a
  let a := if a = 0 && ended then 1 else if a = 0 && (!valid || unit) then 2 else a
  if tr.cause = 0x20 || tr.cause = 0x72 || bitAt tr.flags 4 then max a 2 else a

/-- Actions 2 to 4 (22 R446): the launch's own end after cause 0x20 has status 10 (21 Table 21-6). -/
def State.punish (s : State) (w l : Nat) (tr : Trap) (act : Nat) : State :=
  if act < 2 then s
  else
    let s := s.endLaunch l (if tr.cause = 0x20 then 10 else 11) tr.cause
    if act = 3 then s.errorWorld w tr.cause else if act = 4 then s.lockDown tr.cause else s

/-- A cause that no launch raised, against a world: logged, and the world's action applied when it is 3 or 4 (22 R446). -/
def State.worldCause (s : State) (w : Nat) (tr : Trap) : State :=
  let act := s.tableAction w tr.cause
  let s := s.log w { tr with world := w, time := s.now, flags := nput tr.flags 6 1 1 }
  if act = 3 then s.errorWorld w tr.cause else if act = 4 then s.lockDown tr.cause else s

/-- A command that names a tag of 65 to 127 is refused, and the refusal is logged as a system fault against the management world (01 R16; log
50). -/
def State.badTag (s : State) (tag : Nat) : State := if 64 < tag then s.worldCause 0 { cause := 0x70, info := tag } else s

/-! ### Translation faults that wait for an answer (07 R160, R161) -/

/-- Are two faults of one waiter? -/
def Flt.same (f g : Flt) : Bool := f.world == g.world && f.waiter == g.waiter && f.entry == g.entry && f.core == g.core

/-- A stage-one fault is reported to the world's driver, one at a time and in the order of occurrence (07 R160): waiter 1 a launch's
grant, 2 a driver's, 3 a copy, 4 staging, 5 a launch whose own words the choreographer reads, 6 its completion. -/
def State.reportOne (s : State) (w lease tcid va waiter entry core : Nat) : State :=
  let f : Flt :=
    { Flt0 with pend := true, lease := lease, tcid := tcid, addr := va, waiter := waiter, entry := entry, core := core }
  let W := s.world w
  if !W.flt.pend then (s.onWorld w (fun W => { W with flt := f })).interrupt w 64
  else if (W.flt :: W.fltNext).any (f.same ·) then s
  else s.onWorld w (fun W => { W with fltNext := W.fltNext ++ [f] })

/-- The next stage-one fault of a world is shown (07 R160). -/
def State.nextOne (s : State) (w : Nat) : State :=
  match (s.world w).fltNext with
  | f :: fs => (s.onWorld w (fun W => { W with flt := f, fltNext := fs })).interrupt w 64
  | [] => s.onWorld w (fun W => { W with flt := { W.flt with pend := false } })

/-- Is XL_S2F in use: a fault waits in it, or a copy has not taken its denial yet? -/
def State.s2Busy (s : State) : Bool :=
  s.s2f.pend || (s.s2f.resp == 2 && s.s2f.waiter == 3 && ((s.coreAt s.s2f.core).ops.get? s.s2f.entry).isSome)

/-- A stage-two fault is reported to the management world (07 R161), in the order of occurrence; waiters as in `reportOne`. -/
def State.reportTwo (s : State) (w lease tcid gpa : Nat) (tbl : Bool) (waiter entry core : Nat) : State :=
  let f : Flt :=
    { Flt0 with
      pend := true, tbl := tbl, world := w, lease := lease, tcid := tcid, addr := gpa, waiter := waiter, entry := entry
      core := core }
  if !s.s2Busy then { s with s2f := f }.interrupt 0 65
  else if (s.s2f.pend && f.same s.s2f) || s.s2fNext.any (f.same ·) then s
  else { s with s2fNext := s.s2fNext ++ [f] }

/-- The next stage-two fault is shown once the one before it has been answered (07 R161). -/
def State.nextTwo (s : State) : State :=
  match s.s2fNext with
  | f :: fs => if s.s2Busy then s else { s with s2f := f, s2fNext := fs }.interrupt 0 65
  | [] => s

/-- Does a fault of this waiter wait for its answer? -/
def State.faultStands (s : State) (w waiter entry core : Nat) : Bool :=
  let mine (f : Flt) : Bool := f.pend && f.waiter == waiter && f.entry == entry && f.core == core
  ((s.world w).flt :: (s.world w).fltNext).any mine || (s.s2f :: s.s2fNext).any (fun f => mine f && f.world == w)

/-- A translation fault of what waits for its answer: stage one to the driver; stage two, and a leaf that leads nowhere (cause 0x25,
logged against the management world), to management (07 R152, R160, R161). -/
def State.reportFault (s : State) (w lease two tcid va : Nat) (e : WalkErr) (waiter entry core : Nat) : State :=
  match e with
  | .one => s.reportOne w lease tcid va waiter entry core
  | .two g tbl => s.reportTwo w two tcid g tbl waiter entry core
  | .target g tbl => (s.reportTwo w two tcid g tbl waiter entry core).worldCause 0 { cause := 0x25, addr := g }

/-- FLAGS of a trap that its action only logs. -/
def Trap.logged (tr : Trap) : Trap := { tr with flags := nput tr.flags 6 1 1 }

/-- The record of a trap of a troupe that is gone: its launch, and where the troupe stood (22 R444). -/
def Launch.recordPast (L : Launch) (t : Nat) (tr : Trap) : Trap :=
  let tr := { tr with qid := L.qid, seq := L.seq, world := L.world }
  match L.past.get? t with
  | some (tag, index, company) =>
    { tr with core := tag, troupe := index, company := company, flags := tr.flags + (if 0x8000 ≤ tag then 2 ^ 5 else 0) }
  | none => tr

/-- A late trap that its set or stream cannot take any more: recorded against the launch (10 R495, 22 R447). What its troupe would take
is only logged (DEDUCED, log 70). -/
def State.lateGone (s : State) (launch t : Nat) (tr : Trap) : State :=
  match s.launches.get? launch with
  | some L =>
    let T := s.troupes.get? t
    let tr := if T.isSome then tr else L.recordPast t tr
    let act := max 1 (s.action L.world tr L.handler.isSome (bitAt tr.flags 5) (T.all Troupe.finished))
    (s.log L.world (if act = 1 then tr.logged else tr)).punish L.world launch tr act
  | none => s

/-- A trap of an effect after its commit point, or of a unit's deferred access (22 R494, 10 R495): it waits on its set, or
is recorded against the launch when the set has ended (22 R447). -/
def State.lateTrap (s : State) (launch t k : Nat) (tr : Trap) : State :=
  let tr := { s.record t tr with flags := (s.record t tr).flags + 4 }
  match s.setAt? t k with
  | some S => if S.live = 0 then s.lateGone launch t tr else s.onSet t k (fun S => { S with traps := S.traps ++ [tr] })
  | none => s.lateGone launch t tr

end Sys2Proof.Machine
end

