-- ==== Sys2Proof/Machine/Ring.lean ====
section
/-! DEFINITION. How the choreographer reaches memory: through its capabilities, leases and live tables, at homes and at targets (07
R153-R164; 21 R427, R433-R439), and the faults that it records against queues (21 R439; 16 R386). -/

namespace Sys2Proof.Machine

/-! ### Capabilities (21 R438) -/

/-- What a capability points to (21 Table 21-7 TYPE). -/
inductive CapType where
  | ring
  | queueRecord
  | launchRecord
  | codeObject
  | context
  deriving DecidableEq, Repr, Inhabited

/-- A tagged capability of the choreographer (21 Table 21-7). No value without its tag exists in the model: capabilities are derived where
the rule says and never read from memory. -/
structure Capability where
  base : Nat
  len : Nat
  world : Nat
  type : CapType
  read : Bool
  write : Bool
  execute : Bool
  deriving DecidableEq, Repr, Inhabited

/-- TYPE of a capability. -/
def CapType.code : CapType → Nat
  | .ring => 0
  | .queueRecord => 1
  | .launchRecord => 2
  | .codeObject => 3
  | .context => 4

/-- The 128 bits of a capability. -/
def Capability.word (c : Capability) : BitVec 128 :=
  BitVec.ofNat 128 (c.base % 2 ^ 48 + c.len % 2 ^ 48 * 2 ^ 48 + c.world % 2 ^ 7 * 2 ^ 96 + c.type.code * 2 ^ 103 +
    (b2n c.read + 2 * b2n c.write + 4 * b2n c.execute) * 2 ^ 106)

/-- Does an access of `n` bytes stay within a capability (21 R439)? -/
def Capability.holds (c : Capability) (va n : Nat) : Bool := decide (c.base ≤ va) && decide (va + n ≤ c.base + c.len)

/-- The capability of a mapped queue's ring, derived at map. -/
def Slot.ringCap (q : Slot) : Capability :=
  { base := q.ring, len := 128 * 2 ^ q.log2sz, world := q.world, type := .ring, read := true, write := false, execute := false }

/-- The capability of its record, derived at map. -/
def Slot.recordCap (q : Slot) : Capability :=
  { base := q.record, len := 64, world := q.world, type := .queueRecord, read := true, write := true, execute := false }

/-- The capability of the launch record at an index of the ring: a part of the ring's. -/
def Slot.launchCap (q : Slot) (i : Nat) : Capability :=
  { base := q.ring + 128 * (i % 2 ^ q.log2sz), len := 128, world := q.world, type := .launchRecord, read := true, write := false
    execute := false }

/-- Length of the code-object capability: the largest end that the descriptor names (21 R438). -/
def Desc.extent (d : Desc) : Nat :=
  maxNat [d.codeOff + d.codeSize, d.lit + d.litSize, d.listEnd]

/-- The code-object capability, derived in step 1. -/
def Desc.codeCap (d : Desc) (world code : Nat) : Capability :=
  { base := code, len := d.extent, world := world, type := .codeObject, read := true, write := false, execute := true }

/-- The context capability of a company, derived at its save: it bounds the company's pages of the world's context area (22 R461). -/
def CtxArea.cap (c : CtxArea) (world page pages : Nat) : Capability :=
  { base := (c.base + page) * 4096, len := pages * 4096, world := world, type := .context, read := true, write := true, execute := false }

/-! ### Translations -/

/-- A granted resident lease that covers an address under a context. -/
def World.leasedEntry (W : World) (tcid va : Nat) : Option Lease :=
  (W.leases.find? (fun (e : Nat × Lease) => e.2.tcid == tcid && !e.2.streamed && e.2.covers va)).map (·.2)

/-- Its page of that address. -/
def World.leasedPage (W : World) (tcid va : Nat) : Option Page := (W.leasedEntry tcid va).map (fun l => l.page va)

/-- A page under a context: a granted resident lease's snapshot, or the live tables. -/
def State.choreoPage (s : State) (w tcid va : Nat) : Except WalkErr Page :=
  if 2 ^ 48 ≤ va then .error .one
  else
    match (s.world w).leasedPage tcid va with
    | some p => .ok p
    | none => s.walk w tcid va

/-- Where a translation of the choreographer leads: an address, a cause (0x20 with no translation), or nowhere until a stage-two fault
is answered (07 R161). -/
inductive Looked where
  | dpa (a : Nat)
  | bad (cause : Nat)
  | wait (e : WalkErr)
  deriving DecidableEq, Repr, Inhabited

/-- The device address of a launch's own access under a context. -/
def State.choreoDpa (s : State) (w tcid va : Nat) : Looked :=
  match s.choreoPage w tcid va with
  | .ok p => (match s.choreoByte va p with
    | .ok a => .dpa a
    | .error c => .bad c)
  | .error .one => .bad 0x20
  | .error e => .wait e

/-- The device address of an access under a driver's lease. -/
def State.driverLook (s : State) (w va : Nat) (rw : Bool) : Looked :=
  match s.driverByte w 0 va rw with
  | .ok a => .dpa a
  | .error c => .bad c

/-- What translates an access of the choreographer: a driver's lease, or a context. -/
inductive Through where
  | driver (rw : Bool)
  | context (tcid : Nat)
  deriving DecidableEq, Repr, Inhabited

/-- Where it leads. -/
def State.look (s : State) (t : Through) (w va : Nat) : Looked :=
  match t with
  | .driver rw => s.driverLook w va rw
  | .context c => s.choreoDpa w c va

/-- A live walk for it reads its tables; a snapshot reads none (07 R154). -/
def State.lookReads (s : State) (t : Through) (w va : Nat) : State :=
  match t with
  | .driver _ => s
  | .context c => if 2 ^ 48 ≤ va || ((s.world w).leasedPage c va).isSome then s else s.readTables w c va

/-! ### Reads -/

/-- The granule-sized pieces of a range: address and length. -/
def granulePieces : Nat → Nat → Nat → List (Nat × Nat)
  | 0, _, _ => []
  | fuel + 1, va, n =>
    if n = 0 then []
    else
      let k := min n (64 - va % 64)
      (va, k) :: granulePieces fuel (va + k) (n - k)

/-- Why a read of the choreographer gives no bytes: the cause of a failure, or a stage-two fault at an address that it waits for. -/
inductive Stuck where
  | bad (cause : Nat)
  | wait (va : Nat) (e : WalkErr)
  deriving DecidableEq, Repr, Inhabited

/-- One piece of a read reaches its home or its bank, which logs what it finds (04 R73, R78). -/
def State.choreoPiece (s : State) (t : Through) (w : Nat) (p : Nat × Nat) : State × Except Stuck (List Byte) :=
  let looked := s.look t w p.1
  let s := s.lookReads t w p.1
  match looked with
  | .bad c => (s, .error (.bad c))
  | .wait e => (s, .error (.wait p.1 e))
  | .dpa a =>
    let fault := s.readFault w a
    let s := if s.contained w a then s else s.serve w a p.2
    match fault with
    | some c => (s, .error (.bad c))
    | none => (s, .ok (s.seenBytes w a p.2))

/-- Read pieces in order, up to the first that fails or waits. -/
def State.choreoPieces (t : Through) (w : Nat) : State → List Byte → List (Nat × Nat) → State × Except Stuck (List Byte)
  | s, bs, [] => (s, .ok bs)
  | s, bs, p :: ps =>
    match s.choreoPiece t w p with
    | (s, .ok x) => State.choreoPieces t w s (bs ++ x) ps
    | (s, .error r) => (s, .error r)

/-- `n` bytes of virtual memory through a translation: a missing one is cause 0x20, a failing granule or link its own
cause. -/
def State.choreoRead (s : State) (t : Through) (w va n : Nat) : State × Except Stuck (List Byte) :=
  State.choreoPieces t w s [] (granulePieces (n / 64 + 2) va n)

/-! ### Writes -/

/-- Committed stores of a world to a line that have not drained do so before a later write to the line (10 R217). -/
def State.forceDrain (s : State) (w line : Nat) : State :=
  let mine (x : Store) : Bool := (!x.sys || s.ctl.poolc) && x.dpa / 128 == line
  let s := (s.drains.filter (fun d => d.world == w)).foldl (fun (s : State) d =>
    (d.stores.filter mine).foldl (fun (s : State) x =>
      let (s, bad) := (s.dropPassed d.world d.troupe [x]).homeWrite d.world (runTab x.dpa x.bytes)
      bad.foldl (fun (s : State) (b : Nat × Nat) =>
        s.lateTrap d.launch d.troupe d.set { cause := b.2, set := d.set, pc := d.pc, addr := b.1 }) s) s) s
  { s with drains := s.drains.map (fun d => if d.world = w then { d with stores := d.stores.filter (fun x => !mine x) } else d) }

/-- A write of the choreographer within one line. Answers the cause of a failure. -/
def State.choreoWrite (s : State) (w a : Nat) (bs : List Byte) : State × Option Nat := (s.forceDrain w (a / 128)).putLine w a bs

/-! ### Faults recorded against a queue (21 R439) -/

/-- Error fields of a queue: CH_QSTAT, and the queue record when it can be written. -/
def State.queueError (s : State) (slot cause reason addr : Nat) (stop : Bool) : State :=
  let q := s.slot slot
  let st := if stop then 2 else q.state
  let s := s.onSlot slot (fun q => { q with state := st, ecause := cause, ereason := reason, eaddr := addr })
  let put (s : State) (off : Nat) (bs : List Byte) : State := match s.driverDpa q.world 0 (q.record + off) bs.length true with
    | .ok a => (s.choreoWrite q.world a bs).1
    | .error _ => s
  put (put s 0x18 (leBytes 1 (if st = 3 then 1 else st) ++ leBytes 1 cause ++ leBytes 1 reason)) 0x20 (leBytes 8 addr)

/-- A fault of a queue is shown to its world: the fault interrupt, the trap log and the world's action table (21 R439, 22 R447). -/
def State.queueTrap (s : State) (w qid seq cause reason addr : Nat) : State :=
  let s := s.interrupt w 64
  let tr : Trap := { cause := cause, reason := reason, flags := 2 ^ 6, addr := addr, time := s.now, qid := qid, seq := seq, world := w }
  let s := s.log w tr
  let act := s.tableAction w cause
  if act = 3 then s.errorWorld w cause else if act = 4 then s.lockDown cause else s

/-- A queue capability fault, or a failed access of the choreographer to a queue: STATE 2 and the record (21 R439). -/
def State.queueFault (s : State) (slot cause reason addr seq : Nat) : State :=
  let q := s.slot slot
  (s.queueError slot cause reason addr true).queueTrap q.world q.qid seq cause reason addr

/-- Cause and reason of a failed access of the choreographer to a queue: a lease that is lost is cause 0x71 (21 R439). -/
def queueCause (c : Nat) : Nat × Nat := if c = 0x20 then (0x71, 4) else (c, 0)

/-- A queue record cannot be read at map: no slot holds the queue, so its record takes the fields where it can be written (21 R439; log
67). -/
def State.unreadRecord (s : State) (w va c : Nat) : State :=
  let put (s : State) (off : Nat) (bs : List Byte) : State := match s.driverDpa w 0 (va + off) bs.length true with
    | .ok a => (s.choreoWrite w a bs).1
    | .error _ => s
  let s := put (put s 0x18 (leBytes 1 2 ++ leBytes 1 (queueCause c).1 ++ leBytes 1 (queueCause c).2)) 0x20 (leBytes 8 va)
  s.queueTrap w 0 0 (queueCause c).1 (queueCause c).2 va

/-- Is the slot still the launch's queue? -/
def State.slotOf (s : State) (L : Launch) : Option Nat :=
  let q := s.slot L.slot
  if q.state != 0 && q.world == L.world && q.qid == L.qid then some L.slot else none

/-- Record an error against a launch's queue without stopping it (21 R439). -/
def State.queueNote (s : State) (L : Launch) (cause reason addr : Nat) : State :=
  (match s.slotOf L with
    | some i => s.queueError i cause reason addr false
    | none => s).interrupt L.world 64

/-- A launch is refused, or ended by the choreographer, with a status (21 Tables 21-5, 21-6). -/
def State.refuse (s : State) (l status detail : Nat) : State :=
  s.onLaunch l (fun L =>
    if L.ending then L
    else { L with ending := true, status := status, user := false, detail := detail, again := false, stage := .running })

/-- A prologue fault (16 R386, Table 16-7): the run ends, the queue's error fields and the trap log are written, and the
launch goes to its completion with status 6. -/
def State.prologueFault (s : State) (l reason cause illegal addr : Nat) : State :=
  match s.launches.get? l with
  | some L =>
    let pc := match s.cur with | some u => u.group | none => L.ppc
    let s := s.queueNote L cause reason (if reason = 3 then addr else pc)
    let s := s.log L.world
      { cause := cause, reason := illegal, flags := 2 ^ 6, pc := pc, info := reason, time := s.now, qid := L.qid
        seq := L.seq, world := L.world, addr := addr }
    (s.refuse l 6 reason).endIssue
  | none => s.endIssue

/-- A launch waits for the answer to a stage-two fault of its own words (07 R161). -/
def State.awaitTwo (s : State) (l va : Nat) (e : WalkErr) : State :=
  match s.launches.get? l with
  | some L => if s.faultStands L.world 5 l 0 then s else s.reportFault L.world 31 31 L.tcid va e 5 l 0
  | none => s

end Sys2Proof.Machine
end

