-- ==== Sys2Proof/Machine/Fetch.lean ====
section
/-! DEFINITION. Fetching and decoding an instruction word of each front end (02 R27, R37, R43; 16 R364; 22 R448), and what a
turn does before the word's meaning is asked. -/

namespace Sys2Proof.Machine

/-- The code object that an agent runs, its launch and its descriptor: a handler's own object in handler mode. -/
structure Code where
  launch : Nat
  world : Nat
  desc : Desc
  pages : Tab Nat
  deriving DecidableEq, Repr, Inhabited

/-- The code an agent runs. -/
def State.codeOf (s : State) (a : Agent) : Option Code :=
  match a with
  | .step f =>
    match s.troupes.get? f.troupe with
    | some T =>
      let L := s.launchOf T
      if ((T.setTab.get? f.set).bind (·.handler)).isSome then some ⟨T.launch, L.world, L.handler.getD L.desc, L.hcode⟩
      else some ⟨T.launch, L.world, L.desc, L.code⟩
    | none => none
  | .cue t =>
    match s.troupes.get? t with
    | some T =>
      let L := s.launchOf T
      if T.cue.handler.isSome then some ⟨T.launch, L.world, L.handler.getD L.desc, L.hcode⟩
      else some ⟨T.launch, L.world, L.desc, L.code⟩
    | none => none
  | .prologue l => (s.launches.get? l).map (fun L => ⟨l, L.world, L.desc, L.code⟩)

/-- Does an offset lie in the code section (16 R364)? -/
def Desc.inCode (d : Desc) (off : Nat) : Bool := decide (d.codeOff ≤ off) && decide (off + 4 ≤ d.codeOff + d.codeSize)

/-- Does a literal of `n` bytes lie in the code or literal section (02 R44)? -/
def Desc.inObject (d : Desc) (off n : Nat) : Bool :=
  (decide (d.codeOff ≤ off) && decide (off + n ≤ d.codeOff + d.codeSize)) ||
    (decide (d.lit ≤ off) && decide (off + n ≤ d.lit + d.litSize))

/-- Bytes of a code object at an offset, through the pages taken at admission (log 12). -/
def State.codeBytes (s : State) (c : Code) (off n : Nat) : List Byte :=
  (List.range n).map (fun i => s.seen c.world (c.pages.getD ((off + i) / 4096) 0 * 4096 + (off + i) % 4096))

/-- The instruction word at an offset. -/
def State.codeWord (s : State) (c : Code) (off : Nat) : Word := BitVec.ofNat 32 (leNat (s.codeBytes c off 4))

/-- What the issuing context adds to a word's decoding. -/
def State.decodeCtx (s : State) (u : Issue) : DecodeCtx :=
  match u.agent with
  | .step f =>
    match s.troupes.get? f.troupe with
    | some T =>
      let h := ((T.setTab.get? f.set).bind (·.handler)).isSome
      { profile := if T.place.isUnit then .nearBank else .core
        vregs := if h then ((s.launchOf T).handler.map (·.vregs)).getD T.vregs else T.vregs
        uregs := T.uregs, cueHandler := false, hints := u.hints }
    | none => { profile := .core, vregs := 0, uregs := 0, cueHandler := false, hints := u.hints }
  | .cue t =>
    match s.troupes.get? t with
    | some T => { profile := .cue, vregs := 0, uregs := T.uregs, cueHandler := T.cue.handler.isSome, hints := u.hints }
    | none => { profile := .cue, vregs := 0, uregs := 0, cueHandler := false, hints := u.hints }
  | .prologue _ => { profile := .prologue, vregs := 0, uregs := 256, cueHandler := false, hints := u.hints }

/-- The address behind the group that goes on at an offset: its hint words and one word more (02 R37), or the end of the
code section. -/
def State.afterGroup (s : State) (c : Code) : Nat → Nat → Nat
  | 0, off => off + 4
  | n + 1, off =>
    if !c.desc.inCode off then off
    else if (s.codeWord c off).toNat / 2 ^ 25 = 0x7F then s.afterGroup c n (off + 4) else off + 4

/-- The issue moved to the last word of its group, behind which a trap resumes (22 R446). -/
def State.groupEnd (s : State) (u : Issue) : Issue :=
  match s.codeOf u.agent with
  | some c => { u with word := s.afterGroup c (c.desc.codeSize / 4) u.word - 4 }
  | none => u

/-- The instruction of the group at a figure's address, without its hints, and the offset of its word. -/
def State.instrAt (s : State) (f : Figure) : Option (Instr × Nat) :=
  match s.codeOf (.step f) with
  | some c =>
    let last := s.afterGroup c (c.desc.codeSize / 4) f.pc - 4
    if f.pc ≤ last && c.desc.inCode last then
      some (decodeAt (s.decodeCtx { agent := .step f, group := f.pc, word := last, hints := [] }) (s.codeWord c last), last)
    else none
  | none => none

/-- A precise trap of whichever front end issues: an illegal word, or a fetch past the code section. A step trap is the
figure's; a prologue's is a fault of its run. -/
def State.raiseAny (s : State) (cause reason addr : Nat) : Option State :=
  match s.cur with
  | none => none
  | some u0 =>
    let u := s.groupEnd u0
    let s : State := { s with cur := some u }
    match u.agent with
    | .step f =>
      match s.troupes.get? f.troupe, s.setAt? f.troupe f.set with
      | some T, some S =>
        let m := f.here u S
        if !canIssue s T S || m == 0 then some s.endIssue
        else if S.txFull then some (s.fallback f.troupe f.set 0x03 0).endIssue
        else
          match (if T.place.isUnit then some S else S.enter u.group false false) with
          | none => some (s.onSet f.troupe f.set (fun S => (S.blocked false false).holding m (.until [.room]))).endIssue
          | some S1 =>
            let c : Ctx :=
              { t := f.troupe, k := f.set, T := T, S := S1, mask := m, act := m, issue := u, now := s.cycle.toNat }
            some (s.raise c m cause reason addr 0)
      | _, _ => some s.endIssue
    | .cue t =>
      match s.troupes.get? t with
      | some T => if cueCan s T then some (s.raiseCue t u.group cause reason 0 addr 0) else some s.endIssue
      | none => some s.endIssue
    | .prologue l => some (s.prologueFault l (if cause = 0x01 then 1 else 5) cause (if cause = 0x01 then reason else 0) addr)

/-- A fetch that runs past the code section: hint misuse when hints stand before it (02 R43), else cause 0x0A (16 R364);
in a prologue a fetch outside the code object is a queue fault that the choreographer records (21 R439). -/
def State.runOff (s : State) (u : Issue) : Option State :=
  let beyond? := match u.agent with
    | .prologue l => (s.launches.get? l).bind (fun L =>
      if (L.desc.codeCap L.world 0).holds u.word 4 then none else some (l, L))
    | _ => none
  if !u.hints.isEmpty then s.raiseAny 0x01 9 0
  else
    match beyond? with
    | some (l, L) => some ((s.queueFault L.slot 0x71 2 u.word L.seq).refuse l 1 0).endIssue
    | none => s.raiseAny 0x0A 1 u.word

/-- Why a word of the code cannot be read: no page was taken for it (log 12), or its granule fails (21 R433). -/
def State.fetchBad (s : State) (c : Code) (off : Nat) : Option Nat :=
  match c.pages.get? (off / 4096) with
  | none => some 0x20
  | some p => s.readFault c.world (p * 4096 + off % 4096)

/-- A word of the code that can be read is served by its home, which holds its line from then on (06 R122; 04 R84, R86); code outside the
device comes from its target (log 57). -/
def State.fetched (s : State) (c : Code) (off n : Nat) : State :=
  match c.pages.get? (off / 4096) with
  | none => s
  | some p =>
    let a := p * 4096 + off % 4096
    if isOutside a then s else s.homeRead c.world a n 0

/-- The bank of a word of the code that fails finds and logs why (04 R73, R78). -/
def State.fetchNote (s : State) (u : Issue) (off : Nat) : State :=
  match (s.codeOf u.agent).bind (fun c => (c.pages.get? (off / 4096)).map (fun p => (c, p))) with
  | some (c, p) => s.serve c.world (p * 4096 + off % 4096) 4
  | none => s

/-- A code or literal word that cannot be read: a prologue's launch ends with status 2 and the cause (21 R433), another agent takes the
cause as a precise trap (04 R78). -/
def State.unread (s : State) (u : Issue) (off cause : Nat) : Option State :=
  let s := s.fetchNote u off
  match u.agent with
  | .prologue l => some (s.refuse l 2 cause).endIssue
  | _ => s.raiseAny cause (if cause = 0x20 then 1 else 0) off

/-- Where an agent's next group starts. -/
def State.agentPc (s : State) (a : Agent) : Option Nat :=
  match a with
  | .step f => (s.setAt? f.troupe f.set).map (fun _ => f.pc)
  | .cue t => (s.troupes.get? t).map (fun T => T.cue.pc)
  | .prologue l =>
    match s.launches.get? l with
    | some L => if L.stage == .prologue && !L.ending then some L.ppc else none
    | none => none

/-- An agent's issue begins, if the agent exists. -/
def State.begin (s : State) (a : Agent) : State :=
  match s.agentPc a with
  | some pc => { s with cur := some { agent := a, group := pc, word := pc, hints := [] } }
  | none => s

/-- Is an instruction a turn of its own: a step of the device? -/
def isTurn (i : Instr) : Bool :=
  i.side == .event && match i with
    | .illegalInstruction _ => false
    | _ => true

/-- Core cycles with a troupe resident are counted (24 Table 24-6 event 1). -/
def State.countCycles (s : State) (n : Nat) : State :=
  (addAll [] ((s.troupes.filter (fun (e : Nat × Troupe) => !e.2.place.isUnit)).map (fun e => (e.2.place.coreNo, s.worldOf e.2)))).foldl
    (fun (s : State) (c : Nat × Nat) => s.tally c.2 1 n) s

/-- A step passes: the counters advance (13 R309; log 2). -/
def State.pass (s : State) : State :=
  let n := Config.stepCycles s.tick
  { s with cycle := s.cycle + BitVec.ofNat 64 n, tick := s.tick + 1 }.countCycles n

/-- The next step of bring-up (25 Table 25-6). -/
def State.bringUpStep (s : State) : State :=
  match s.bringUp with
  | 0 => { s with bringUp := 1 }.onWorld 0 (fun W => { W with trust := { W.trust with keys := W.trust.keys + 1, keyed := true } })
  | 1 => { s with bringUp := 2, image := 1 }
  | 2 => { s with bringUp := 3 }
  | 3 => { s with bringUp := 4, copies := [], lines := [], clusters := [] }
  | 4 => { s with bringUp := 5, ports := s.ports.mapIdx (fun p P => { P with up := true, lanes := portLanes p }) }
  | _ => { s with bringUp := 6, ctl := { s.ctl with ready := true } }

end Sys2Proof.Machine
end

