-- ==== Sys2Proof/Machine/Integer.lean ====
section
/-! DEFINITION. Integer, compare, predicate, select, move and width-conversion instructions (13 R297-R307). -/

namespace Sys2Proof.Machine

/-! ### Reading operands -/

/-- Register `r` of lane `j` at issue. -/
def Ctx.rd (c : Ctx) (j : Nat) (r : BitVec 7) : Word := c.S.read j r.toNat

/-- The pair at `r` of lane `j`. -/
def Ctx.rd2 (c : Ctx) (j : Nat) (r : BitVec 7) : DWord := pair (c.S.read j r.toNat) (c.S.read j (r.toNat + 1))

/-- One register from one. -/
def un (d a : BitVec 7) (f : Word → Word) : Ctx → Nat → List (Nat × Word) :=
  fun c j => [(d.toNat, f (c.rd j a))]

/-- One register from two. -/
def bin (d a b : BitVec 7) (f : Word → Word → Word) : Ctx → Nat → List (Nat × Word) :=
  fun c j => [(d.toNat, f (c.rd j a) (c.rd j b))]

/-- One register from two and its own old value. -/
def tern (d a b : BitVec 7) (f : Word → Word → Word → Word) : Ctx → Nat → List (Nat × Word) :=
  fun c j => [(d.toNat, f (c.rd j d) (c.rd j a) (c.rd j b))]

/-- One register from one and a number that the instruction carries. -/
def imm (d a : BitVec 7) (f : Issue → Word → Word) : Ctx → Nat → List (Nat × Word) :=
  fun c j => [(d.toNat, f c.issue (c.rd j a))]

/-! ### Functions of Table 13-1 -/

/-- High 32 bits of a product (mulhi). -/
def mulHigh (signed : Bool) (a b : Word) : Word :=
  if signed then BitVec.ofInt 32 (a.toInt * b.toInt / 2 ^ 32) else BitVec.ofNat 32 (a.toNat * b.toNat / 2 ^ 32)

/-- The lesser of two words. -/
def minW (signed : Bool) (a b : Word) : Word := if (if signed then b.slt a else b.ult a) then b else a

/-- The greater of two words. -/
def maxW (signed : Bool) (a b : Word) : Word := if (if signed then a.slt b else a.ult b) then b else a

/-- Shift left by a whole word (13 R298). -/
def shlW {n : Nat} (a : BitVec n) (c : Word) : BitVec n := a <<< c.toNat

/-- Shift right by a whole word, logical or arithmetic (13 R298). -/
def shrW (signed : Bool) (a c : Word) : Word := if signed then a.sshiftRight c.toNat else a >>> c.toNat

/-- Rotate left (13 Table 13-1). -/
def rotW (a b : Word) : Word := a.rotateLeft (b.toNat % 32)

/-- The field rule's extract (13 R299) at width `n`; `flag` says signed. -/
def extract {n : Nat} (signed : Bool) (a : BitVec n) (pos len : Nat) : BitVec n :=
  let pos := Nat.min pos n
  let len := Nat.min len n
  let x : Int := if signed then a.toInt else (a.toNat : Int)
  let f := (x / (2 ^ pos : Nat)) % (2 ^ len : Nat)
  BitVec.ofInt n (if signed && decide (0 < len) && decide ((2 ^ (len - 1) : Nat) ≤ f) then f - (2 ^ len : Nat) else f)

/-- The field rule's insert (13 R299) at width `n`. -/
def insertField {n : Nat} (old a : BitVec n) (pos len : Nat) : BitVec n :=
  let pos := Nat.min pos n
  let mask : BitVec n := BitVec.ofNat n ((2 ^ Nat.min len n - 1) * 2 ^ pos)
  (old &&& ~~~ mask) ||| ((a <<< pos) &&& mask)

/-- Population count. -/
def popcount (a : Word) : Word := BitVec.ofNat 32 ((List.range 32).filter (fun i => a.getLsbD i)).length

/-- Leading zeros. -/
def clzN {n : Nat} (a : BitVec n) : Nat :=
  match (List.range n).find? (fun i => a.getLsbD (n - 1 - i)) with
  | some i => i
  | none => n

/-- Byte `j` of a number. -/
def byteOf (x j : Nat) : Nat := (x / 256 ^ j) % 256

/-- The byte rule (13 R300). -/
def permute (sel a b : Word) : Word :=
  let src := b.toNat * 2 ^ 32 + a.toNat
  BitVec.ofNat 32 (leNat ((List.range 4).map (fun j =>
    let n := nfld sel.toNat (4 * j) 4
    let t := byteOf src (n % 8)
    BitVec.ofNat 8 (if n < 8 then t else if 128 ≤ t then 255 else 0))))

/-- Saturating add (13 Table 13-1, adds). -/
def addSat (signed : Bool) (a b : Word) : Word :=
  if signed then BitVec.ofInt 32 (sat (a.toInt + b.toInt) (-(2 ^ 31)) (2 ^ 31 - 1))
  else BitVec.ofNat 32 (Nat.min (a.toNat + b.toNat) (2 ^ 32 - 1))

/-- Width conversion (13 Table 13-3) of a word, or of a pair for codes 0xC and 0xD, to one word or to a pair. -/
def convert (code : Nat) (a : Word) (p : DWord) : DWord :=
  let u := a.toNat
  let i := a.toInt
  let cl (x lo hi : Int) : DWord := BitVec.ofInt 64 (sat x lo hi)
  match code with
  | 0x00 => (a.extractLsb' 0 8).signExtend 64
  | 0x01 => (a.extractLsb' 0 16).signExtend 64
  | 0x02 => (a.extractLsb' 0 8).zeroExtend 64
  | 0x03 => (a.extractLsb' 0 16).zeroExtend 64
  | 0x04 => a.signExtend 64
  | 0x05 => a.zeroExtend 64
  | 0x06 => cl i (-128) 127
  | 0x07 => cl i (-32768) 32767
  | 0x08 => cl i 0 255
  | 0x09 => cl i 0 65535
  | 0x0A => cl u 0 255
  | 0x0B => cl u 0 65535
  | 0x0C => cl p.toInt (-(2 ^ 31)) (2 ^ 31 - 1)
  | 0x0D => cl p.toNat 0 (2 ^ 32 - 1)
  | 0x0E => cl u 0 (2 ^ 31 - 1)
  | _ => cl i 0 (2 ^ 32 - 1)

/-- Signed form of an instruction whose m field selects it. -/
def sg (m : BitVec 1) : Bool := m == 1

/-! ### Meanings -/

/-- Outcome of an instruction of this machine. -/
abbrev Out := Host.Outcome State Fault Refusal

/-- A literal that an instruction reads is fetched like the instruction (02 R44). -/
def afterFetch (c : Code) (off n : Nat) : Out → Out
  | .next s => .next (s.fetched c off n)
  | o => o

/-- ADD. -/
def execAdd (d a b : BitVec 7) (g : BitVec 3) (m : BitVec 1) (s : State) : Out :=
  vecOp s (.add d a b g m) (fun c j =>
    if m = 1 then pairOut d.toNat (c.rd2 j a + c.rd2 j b) else [(d.toNat, c.rd j a + c.rd j b)])

/-- SUB. -/
def execSub (d a b : BitVec 7) (g : BitVec 3) (m : BitVec 1) (s : State) : Out :=
  vecOp s (.sub d a b g m) (fun c j =>
    if m = 1 then pairOut d.toNat (c.rd2 j a - c.rd2 j b) else [(d.toNat, c.rd j a - c.rd j b)])

/-- MUL. -/
def execMul (d a b : BitVec 7) (g : BitVec 3) (s : State) : Out := vecOp s (.mul d a b g) (bin d a b (· * ·))

/-- MULHI. -/
def execMulhi (d a b : BitVec 7) (g : BitVec 3) (m : BitVec 1) (s : State) : Out :=
  vecOp s (.mulhi d a b g m) (bin d a b (mulHigh (sg m)))

/-- MAD. -/
def execMad (d a b : BitVec 7) (g : BitVec 3) (m : BitVec 1) (s : State) : Out :=
  vecOp s (.mad d a b g m) (fun c j =>
    if m = 1 then
      pairOut d.toNat (BitVec.ofNat 64 ((c.rd j a).toNat * (c.rd j b).toNat) + c.rd2 j d)
    else [(d.toNat, c.rd j a * c.rd j b + c.rd j d)])

/-- The lanes of a division whose flag has its trap enabled: cause 0x08 before 0x09 (13 R301). -/
def divTrap (c : Ctx) (signed : Bool) (a b : BitVec 7) : Option (Nat × Word) :=
  let z := maskOf (fun j => inMask c.act j && (divide signed (c.rd j a) (c.rd j b)).2.2.1)
  let o := maskOf (fun j => inMask c.act j && (divide signed (c.rd j a) (c.rd j b)).2.2.2)
  if c.amask.getLsbD 0 && z != 0 then some (0x08, z)
  else if c.amask.getLsbD 1 && o != 0 then some (0x09, o)
  else none

/-- div and rem: a result for every active lane, or one precise trap (13 R301). -/
def divOp (s : State) (i : Instr) (d a b : BitVec 7) (signed : Bool) (f : Word × Word × Bool × Bool → Word) : Out :=
  match stepGo s i with
  | none => .fault .noIssuer
  | some (.stop t) => .next t
  | some (.go c) =>
    match divTrap c signed a b with
    | some (cause, lanes) => .next (s.raise c lanes cause 0 0 0)
    | none =>
      .next (s.done c (SetState.retire c i (bin d a b (fun x y => f (divide signed x y)) c) (fun _ th => th) (fun _ => c.next)))

/-- DIV. -/
def execDiv (d a b : BitVec 7) (g : BitVec 3) (m : BitVec 1) (s : State) : Out :=
  divOp s (.div d a b g m) d a b (sg m) (fun r => r.1)

/-- REM. -/
def execRem (d a b : BitVec 7) (g : BitVec 3) (m : BitVec 1) (s : State) : Out :=
  divOp s (.rem d a b g m) d a b (sg m) (fun r => r.2.1)

/-- MIN. -/
def execMin (d a b : BitVec 7) (g : BitVec 3) (m : BitVec 1) (s : State) : Out :=
  vecOp s (.min d a b g m) (bin d a b (minW (sg m)))

/-- MAX. -/
def execMax (d a b : BitVec 7) (g : BitVec 3) (m : BitVec 1) (s : State) : Out :=
  vecOp s (.max d a b g m) (bin d a b (maxW (sg m)))

/-- ABS. -/
def execAbs (d a : BitVec 7) (g : BitVec 3) (s : State) : Out :=
  vecOp s (.abs d a g) (un d a (fun x => if x.msb then -x else x))

/-- NEG. -/
def execNeg (d a : BitVec 7) (g : BitVec 3) (s : State) : Out := vecOp s (.neg d a g) (un d a (fun x => -x))

/-- AND. -/
def execAnd (d a b : BitVec 7) (g : BitVec 3) (s : State) : Out := vecOp s (.and d a b g) (bin d a b (· &&& ·))

/-- OR. -/
def execOr (d a b : BitVec 7) (g : BitVec 3) (s : State) : Out := vecOp s (.or d a b g) (bin d a b (· ||| ·))

/-- XOR. -/
def execXor (d a b : BitVec 7) (g : BitVec 3) (s : State) : Out := vecOp s (.xor d a b g) (bin d a b (· ^^^ ·))

/-- ANDN. -/
def execAndn (d a b : BitVec 7) (g : BitVec 3) (s : State) : Out :=
  vecOp s (.andn d a b g) (bin d a b (fun x y => x &&& ~~~ y))

/-- SHL. -/
def execShl (d a b : BitVec 7) (g : BitVec 3) (m : BitVec 1) (s : State) : Out :=
  vecOp s (.shl d a b g m) (fun c j =>
    if m = 1 then pairOut d.toNat (shlW (c.rd2 j a) (c.rd j b)) else [(d.toNat, shlW (c.rd j a) (c.rd j b))])

/-- SHR. -/
def execShr (d a b : BitVec 7) (g : BitVec 3) (m : BitVec 1) (s : State) : Out :=
  vecOp s (.shr d a b g m) (bin d a b (shrW (sg m)))

/-- ROT. -/
def execRot (d a b : BitVec 7) (g : BitVec 3) (s : State) : Out := vecOp s (.rot d a b g) (bin d a b rotW)

/-- BFX. -/
def execBfx (d a b : BitVec 7) (g : BitVec 3) (m : BitVec 1) (s : State) : Out :=
  vecOp s (.bfx d a b g m) (bin d a b (fun x y => extract (sg m) x (nfld y.toNat 0 8) (nfld y.toNat 8 8)))

/-- BFI. -/
def execBfi (d a b : BitVec 7) (g : BitVec 3) (s : State) : Out :=
  vecOp s (.bfi d a b g) (tern d a b (fun o x y => insertField o x (nfld y.toNat 0 8) (nfld y.toNat 8 8)))

/-- POPC. -/
def execPopc (d a : BitVec 7) (g : BitVec 3) (s : State) : Out := vecOp s (.popc d a g) (un d a popcount)

/-- CLZ. -/
def execClz (d a : BitVec 7) (g : BitVec 3) (s : State) : Out :=
  vecOp s (.clz d a g) (un d a (fun x => BitVec.ofNat 32 (clzN x)))

/-- BREV. -/
def execBrev (d a : BitVec 7) (g : BitVec 3) (s : State) : Out := vecOp s (.brev d a g) (un d a (fun x => x.reverse))

/-- PERM. -/
def execPerm (d a b : BitVec 7) (g : BitVec 3) (s : State) : Out := vecOp s (.perm d a b g) (tern d a b permute)

/-- ADDS. -/
def execAdds (d a b : BitVec 7) (g : BitVec 3) (m : BitVec 1) (s : State) : Out :=
  vecOp s (.adds d a b g m) (bin d a b (addSat (sg m)))

/-- ADDI: imm8 sign-extended, or 30 bits with a hint (13 Table 13-2). -/
def execAddi (d a : BitVec 7) (i : BitVec 8) (g : BitVec 3) (s : State) : Out :=
  vecOp s (.addi d a i g) (imm d a (fun u x => x + BitVec.ofInt 32 (immS u.hints 8 i.toNat)))

/-- ANDI: imm8 zero-extended, or 30 bits with a hint. -/
def execAndi (d a : BitVec 7) (i : BitVec 8) (g : BitVec 3) (s : State) : Out :=
  vecOp s (.andi d a i g) (imm d a (fun u x => x &&& BitVec.ofNat 32 (immZ u.hints 8 i.toNat)))

/-- ORI. -/
def execOri (d a : BitVec 7) (i : BitVec 8) (g : BitVec 3) (s : State) : Out :=
  vecOp s (.ori d a i g) (imm d a (fun u x => x ||| BitVec.ofNat 32 (immZ u.hints 8 i.toNat)))

/-- XORI. -/
def execXori (d a : BitVec 7) (i : BitVec 8) (g : BitVec 3) (s : State) : Out :=
  vecOp s (.xori d a i g) (imm d a (fun u x => x ^^^ BitVec.ofNat 32 (immZ u.hints 8 i.toNat)))

/-- SHLI. -/
def execShli (d a : BitVec 7) (i : BitVec 8) (g : BitVec 3) (s : State) : Out :=
  vecOp s (.shli d a i g) (imm d a (fun _ x => x <<< i.toNat))

/-- SHRI. -/
def execShri (d a : BitVec 7) (i : BitVec 8) (g : BitVec 3) (s : State) : Out :=
  vecOp s (.shri d a i g) (imm d a (fun _ x => x >>> i.toNat))

/-- CMP: every live thread of the figure combines the condition (13 R303). -/
def execCmp (p : BitVec 5) (a b : BitVec 7) (c : BitVec 4) (k : BitVec 2) (s : State) : Out :=
  vecOp s (.cmp p a b c k) (fun _ _ => [])
    (fun x j th => th.combine p.toNat k.toNat (intCond c.toNat (x.rd j a) (x.rd j b)))

/-- PSET (13 R304). -/
def execPset (p a b : BitVec 5) (c : BitVec 4) (k : BitVec 2) (s : State) : Out :=
  vecOp s (.pset p a b c k) (fun _ _ => [])
    (fun _ _ th => th.combine p.toNat k.toNat (truth c.toNat (th.pred a.toNat) (th.pred b.toNat)))

/-- SEL: the g field or the GUARD hint selects (13 R305). -/
def execSel (d a b : BitVec 7) (g : BitVec 3) (s : State) : Out :=
  vecOp s (.sel d a b g) (fun c j =>
    [(d.toNat, if guardOf c.issue.hints g.toNat (c.S.lane j) then c.rd j a else c.rd j b)])

/-- MOV. -/
def execMov (d a : BitVec 7) (g : BitVec 3) (s : State) : Out := vecOp s (.mov d a g) (un d a (fun x => x))

/-- MOVI: 18 bits sign-extended, or the low 32 of 40 with a hint. -/
def execMovi (d : BitVec 7) (i : BitVec 18) (s : State) : Out :=
  vecOp s (.movi d i) (fun c _ => [(d.toNat, BitVec.ofInt 32 (immS c.issue.hints 18 i.toNat))])

/-- MOVU: low half of the register's value at troupe start (09 R198). -/
def execMovu (d : BitVec 7) (r : BitVec 9) (s : State) : Out :=
  vecOp s (.movu d r) (fun c _ => [(d.toNat, (c.T.first.getD r.toNat 0).extractLsb' 0 32)])

/-- Where the literal of the issue in progress lies: `n` bytes at `size` times an offset from its word, if the code object holds them
(02 R44, R53 reason 0x0B). -/
def State.literalAt (s : State) (u : Issue) (w f n : Nat) : Option (Code × Nat) :=
  let off : Int := (u.word : Int) + n * immS u.hints w f
  match s.codeOf u.agent with
  | some code => if decide (0 ≤ off) && code.desc.inObject off.toNat n then some (code, off.toNat) else none
  | none => none

/-- LDC: the word at 4 * imm from the ldc word (02 R44); one outside the code object is met as the word is decoded, and is illegal
instruction reason 0x0B (02 R53). -/
def execLdc (d : BitVec 7) (i : BitVec 18) (s : State) : Out :=
  match s.figure? with
  | none => .fault .noIssuer
  | some (_, u) =>
    match s.literalAt u 18 i.toNat 4 with
    | none => .next ((s.raiseAny 0x01 0x0B 0).getD s.endIssue)
    | some (code, off) =>
      match s.fetchBad code off with
      | some cause => .next ((s.unread u off cause).getD s.endIssue)
      | none => afterFetch code off 4 (vecOp s (.ldc d i) (fun _ _ => [(d.toNat, s.codeWord code off)]))

/-- CVTI. -/
def execCvti (d a c : BitVec 7) (g : BitVec 3) (s : State) : Out :=
  vecOp s (.cvti d a c g) (fun x j =>
    let r := convert c.toNat (x.rd j a) (if c = 0xC || c = 0xD then x.rd2 j a else 0)
    if c = 4 || c = 5 then pairOut d.toNat r else [(d.toNat, r.extractLsb' 0 32)])

end Sys2Proof.Machine
end

