-- ==== Sys2Proof/Machine/Real.lean ====
section
/-! DEFINITION. Floating formats, exact values, rounding and the generator (12 R274-R287). -/

namespace Sys2Proof.Machine

/-! ### Formats (12 Table 12-1) -/

/-- A floating format: field widths, bias, the magnitude code of the largest finite value, and the codes of infinity and
of the canonical NaN where the format has them. -/
structure Fmt where
  ebits : Nat
  fbits : Nat
  bias : Nat
  top : Nat
  inf : Option Nat
  nan : Option Nat
  deriving DecidableEq, Repr, Inhabited

/-- FP32. -/
def fp32 : Fmt := { ebits := 8, fbits := 23, bias := 127, top := 0x7F7FFFFF, inf := some 0x7F800000, nan := some 0x7FC00000 }

/-- BF16. -/
def bf16 : Fmt := { ebits := 8, fbits := 7, bias := 127, top := 0x7F7F, inf := some 0x7F80, nan := some 0x7FC0 }

/-- FP16. -/
def fp16 : Fmt := { ebits := 5, fbits := 10, bias := 15, top := 0x7BFF, inf := some 0x7C00, nan := some 0x7E00 }

/-- E4M3. -/
def e4m3 : Fmt := { ebits := 4, fbits := 3, bias := 7, top := 0x7E, inf := none, nan := some 0x7F }

/-- E5M2. -/
def e5m2 : Fmt := { ebits := 5, fbits := 2, bias := 15, top := 0x7B, inf := some 0x7C, nan := some 0x7E }

/-- E2M1. -/
def e2m1 : Fmt := { ebits := 2, fbits := 1, bias := 1, top := 0x7, inf := none, nan := none }

/-- Weight of the sign bit. -/
def Fmt.sign (F : Fmt) : Nat := 2 ^ (F.ebits + F.fbits)

/-- Bits of a code. -/
def Fmt.bits (F : Fmt) : Nat := F.ebits + F.fbits + 1

/-- Exponent of the subnormal spacing. -/
def Fmt.low (F : Fmt) : Int := 1 - (F.bias : Int) - F.fbits

/-! ### Exact values -/

/-- An exact value: NaN, an infinity, or a sign and the magnitude `m * 2 ^ e`; a zero keeps its sign. -/
inductive Fp where
  | nan
  | inf (neg : Bool)
  | num (neg : Bool) (m : Nat) (e : Int)
  deriving DecidableEq, Repr, Inhabited

/-- The value of a code (12 R274). -/
def Fmt.value (F : Fmt) (code : Nat) : Fp :=
  let neg := bitAt code (F.ebits + F.fbits)
  let mag := code % F.sign
  if F.top < mag then if F.inf = some mag then .inf neg else .nan
  else
    let E := mag / 2 ^ F.fbits
    let f := mag % 2 ^ F.fbits
    if E = 0 then .num neg f F.low else .num neg (f + 2 ^ F.fbits) (F.low + (E : Int) - 1)

/-- The opposite value. -/
def Fp.neg : Fp → Fp
  | .nan => .nan
  | .inf n => .inf (!n)
  | .num n m e => .num (!n) m e

/-- An exact product (14 R323). -/
def Fp.mul : Fp → Fp → Fp
  | .nan, _ => .nan
  | _, .nan => .nan
  | .inf a, .inf b => .inf (a != b)
  | .inf a, .num b m _ => if m = 0 then .nan else .inf (a != b)
  | .num a m _, .inf b => if m = 0 then .nan else .inf (a != b)
  | .num a m e, .num b n f => .num (a != b) (m * n) (e + f)

/-- Signed mantissa over the exponent `e0`, which is not above the value's own. -/
def Fp.scaled (e0 : Int) : Fp → Int
  | .num n m e => let x : Int := ((m * 2 ^ (e - e0).toNat : Nat) : Int); if n then -x else x
  | _ => 0

/-- Exponent of a finite value. -/
def Fp.exp : Fp → Int
  | .num _ _ e => e
  | _ => 0

/-- Is the value a zero of this sign? -/
def Fp.isZero (neg : Bool) : Fp → Bool
  | .num n m _ => m == 0 && n == neg
  | _ => false

/-- Is the value an infinity of this sign? -/
def Fp.isInf (neg : Bool) : Fp → Bool
  | .inf n => n == neg
  | _ => false

/-- The exact sum of terms (12 R276, R292; 14 R323); `down` says that the rounding mode is toward −∞. -/
def Fp.sum (down : Bool) (ts : List Fp) : Fp :=
  if ts.any (· == .nan) then .nan
  else
    let p := ts.any (·.isInf false)
    let n := ts.any (·.isInf true)
    if p && n then .nan
    else if p then .inf false
    else if n then .inf true
    else
      let e0 := ts.foldl (fun e t => min e t.exp) ((ts.map Fp.exp).headD 0)
      let x : Int := ts.foldl (fun (y : Int) t => y + t.scaled e0) 0
      if x = 0 then .num (ts.all (·.isZero true) || (down && !ts.all (·.isZero false))) 0 0
      else .num (decide (x < 0)) x.natAbs e0

/-! ### Rounding (12 R280-R282) -/

/-- One step of the generator (12 R285). -/
def genStep (x : Word) : Word :=
  let x := x ^^^ (x <<< 13)
  let x := x ^^^ (x >>> 17)
  x ^^^ (x <<< 5)

/-- The trailing zero bits of a number, up to a count. -/
def trailing : Nat → Nat → Nat
  | 0, _ => 0
  | k + 1, x => if x % 2 = 1 then 0 else 1 + trailing k (x / 2)

/-- Round `m * 2 ^ e` to a whole number of units `2 ^ eu`, by mode (12 Table 12-2; 0 to 4) and, under `.rs`, with a
generator output. -/
def roundUnits (mode : Nat) (neg : Bool) (g : Word) (m : Nat) (e eu : Int) : Nat :=
  if eu ≤ e then m * 2 ^ (e - eu).toNat
  else
    let d := (eu - e).toNat
    let t := m / 2 ^ d
    let r := m % 2 ^ d
    let up : Bool :=
      match mode with
      | 0 => decide (2 ^ d < 2 * r) || (2 * r == 2 ^ d && t % 2 == 1)
      | 1 => false
      | 2 => r != 0 && !neg
      | 3 => r != 0 && neg
      | _ =>
        if r = 0 then false
        else
          let k := Nat.min (d - trailing d r) 32
          decide (2 ^ k ≤ r * 2 ^ k / 2 ^ d + (g >>> (32 - k)).toNat)
    if up then t + 1 else t

/-- The result of an overflow (12 Table 12-3), without its sign bit, and whether it takes the sign. -/
def Fmt.overflow (F : Fmt) (mode : Nat) (sat neg : Bool) : Nat :=
  let s := if neg then F.sign else 0
  let big : Nat :=
    match F.inf, F.nan with
    | some i, _ => s + i
    | none, some q => q
    | none, none => s + F.top
  if sat || mode = 1 || (mode = 2 && neg) || (mode = 3 && !neg) then s + F.top else big

/-- Round an exact nonzero magnitude into a format. -/
def Fmt.roundNum (F : Fmt) (mode : Nat) (sat : Bool) (g : Word) (neg : Bool) (m : Nat) (e : Int) : Nat :=
  let eu := max F.low ((Nat.log2 m : Int) + e - F.fbits)
  let t := roundUnits mode neg g m e eu
  let mag := t + (eu - F.low).toNat * 2 ^ F.fbits
  if F.top < mag then F.overflow mode sat neg else (if neg then F.sign else 0) + mag

/-- Round an exact value of an arithmetic operation: under saturation only a finite value is clamped (14 R323). -/
def Fmt.round (F : Fmt) (mode : Nat) (sat : Bool) (g : Word) : Fp → Nat
  | .nan => F.nan.getD 0
  | .inf n =>
    match F.inf, F.nan with
    | some i, _ => (if n then F.sign else 0) + i
    | none, some q => q
    | none, none => (if n then F.sign else 0) + F.top
  | .num n m e => if m = 0 then (if n then F.sign else 0) else F.roundNum mode sat g n m e

/-- `round_ne` (00 R8). -/
def Fmt.near (F : Fmt) (x : Fp) : Nat := F.round 0 false 0 x

/-- Narrow a value into a format (12 R283, Table 12-4): saturation clamps an infinity too. -/
def Fmt.narrow (F : Fmt) (mode : Nat) (sat : Bool) (g : Word) : Fp → Nat
  | .inf n => if sat then (if n then F.sign else 0) + F.top else F.round mode sat g (.inf n)
  | x => F.round mode sat g x

/-- Round a value to an integer, saturated to a range; a NaN gives 0 (12 R284). -/
def toInteger (mode : Nat) (g : Word) (lo hi : Int) : Fp → Int
  | .nan => 0
  | .inf n => if n then lo else hi
  | .num n m e =>
    let t : Int := (roundUnits mode n g m e 0 : Nat)
    sat (if n then -t else t) lo hi

/-- The exact value of an integer. -/
def ofInteger (x : Int) : Fp := .num (decide (x < 0)) x.natAbs 0

/-- FP32 value of a word. -/
def f32 (x : Word) : Fp := fp32.value x.toNat

/-- Is a code a NaN? -/
def Fmt.isNan (F : Fmt) (c : Nat) : Bool := F.value c == .nan

/-- Order of two codes that are no NaN, with −0 below +0 (14 R324): magnitude with its sign. -/
def Fmt.key (F : Fmt) (c : Nat) : Int :=
  if bitAt c (F.ebits + F.fbits) then -1 - (c % F.sign : Nat) else (c % F.sign : Nat)

/-- fmin and fmax (14 R324): one operand unchanged. -/
def Fmt.pick (F : Fmt) (most : Bool) (x y : Nat) : Nat :=
  if F.isNan x && F.isNan y then F.nan.getD 0
  else if F.isNan x then y
  else if F.isNan y then x
  else if (if most then F.key x < F.key y else F.key y < F.key x) then y else x

/-- Compare two values (14 R325): less, equal or greater; none when unordered. -/
def Fp.compare : Fp → Fp → Option Ordering
  | .nan, _ => none
  | _, .nan => none
  | .inf a, .inf b => some (if a == b then .eq else if a then .lt else .gt)
  | .inf a, .num .. => some (if a then .lt else .gt)
  | .num .., .inf b => some (if b then .gt else .lt)
  | .num a m e, .num b n f =>
    let e0 := min e f
    let x := Fp.scaled e0 (.num a m e)
    let y := Fp.scaled e0 (.num b n f)
    some (if x < y then .lt else if x = y then .eq else .gt)

/-- Condition `c` of the fcmp column of 02 Table 2-2. -/
def floatCond (c : Nat) (o : Option Ordering) : Bool :=
  match c with
  | 0x0 => o == some .eq
  | 0x1 => o != some .eq
  | 0x2 => o == some .lt
  | 0x3 => o == some .lt || o == some .eq
  | 0x4 => o == some .gt
  | 0x5 => o == some .gt || o == some .eq
  | 0x6 => o == some .lt || o == none
  | 0x7 => o != some .gt
  | 0x8 => o == some .gt || o == none
  | 0x9 => o != some .lt
  | 0xA => o != none
  | _ => o == none

/-- The seed rule of `rngs` (12 R287). -/
def seedOf (s : Word) (g : Nat) : Word :=
  let x := BitVec.ofNat 32 (s.toNat + 0x9E3779B9 * (g + 1))
  if x = 0 then 1 else x

end Sys2Proof.Machine
end

