-- ==== Sys2Proof/Machine/Special.lean ====
section
/-! DEFINITION. The special functions (12 R288, R289): each encloses the exact value between two dyadic numbers, at rising
precision until both round to the same FP32 code. Where the exact value is dyadic or algebraic the code is formed exactly. -/

namespace Sys2Proof.Machine

/-! ### Integer roots -/

/-- Bits of the integer square root below weight `2 ^ k`, from a partial root. -/
def rootBits (x : Nat) : Nat → Nat → Nat
  | 0, r => r
  | k + 1, r => rootBits x k (if (r + 2 ^ k) * (r + 2 ^ k) ≤ x then r + 2 ^ k else r)

/-- The integer square root. -/
def isqrt (x : Nat) : Nat := rootBits x (Nat.log2 x / 2 + 1) 0

/-! ### Algebraic functions: a quotient or root with a sticky bit -/

/-- FP32 code nearest to `(q + r) / 2 ^ k` for a remainder `r` in [0, 1), exact when `exact`. -/
def nearSticky (neg : Bool) (q k : Nat) (e : Int) (exact : Bool) : Nat :=
  fp32.near (.num neg (2 * q + b2n (!exact)) (e - k - 1))

/-- 1 / x. -/
def rcpF : Fp → Nat
  | .nan => fp32.near .nan
  | .inf n => fp32.near (.num n 0 0)
  | .num n m e =>
    if m = 0 then fp32.near (.inf n) else nearSticky n (2 ^ 80 / m) 80 (-e) (2 ^ 80 % m == 0)

/-- The square root. -/
def sqrtF : Fp → Nat
  | .nan => fp32.near .nan
  | .inf n => fp32.near (if n then .nan else .inf false)
  | .num n m e =>
    if m = 0 then fp32.near (.num n 0 0)
    else if n then fp32.near .nan
    else
      let m' := if e % 2 = 0 then m else 2 * m
      let e' := if e % 2 = 0 then e else e - 1
      let x := m' * 2 ^ 64
      nearSticky false (isqrt x) 32 (e' / 2) (isqrt x * isqrt x == x)

/-- The reciprocal square root. -/
def rsqrtF : Fp → Nat
  | .nan => fp32.near .nan
  | .inf n => fp32.near (if n then .nan else .num false 0 0)
  | .num n m e =>
    if m = 0 then fp32.near (.inf n)
    else if n then fp32.near .nan
    else
      let m' := if e % 2 = 0 then m else 2 * m
      let e' := if e % 2 = 0 then e else e - 1
      let q := isqrt (2 ^ 160 / m')
      nearSticky false q 80 (-(e' / 2)) (q * q * m' == 2 ^ 160)

/-! ### Enclosures -/

/-- A closed interval of dyadic numbers over `2 ^ -p`. -/
structure Span where
  lo : Nat
  hi : Nat
  p : Nat
  deriving DecidableEq, Repr, Inhabited

/-- The FP32 code of an enclosed magnitude: when both ends round alike at the precision that `f` is asked for, that code,
else the next precision; the last one's lower end if none does. -/
def settle (neg : Bool) (f : Nat → Span) : List Nat → Nat
  | [] => 0
  | q :: qs =>
    let s := f q
    let lo := fp32.near (.num neg s.lo (-(s.p : Int)))
    if lo = fp32.near (.num neg s.hi (-(s.p : Int))) || qs.isEmpty then lo else settle neg f qs

/-- The precisions tried. -/
def precisions : List Nat := [80, 160, 320, 640]

/-- A product of fixed-point numbers rounded down, and rounded up. -/
def mulDown (p a b : Nat) : Nat := a * b / 2 ^ p

/-- The same, rounded up. -/
def mulUp (p a b : Nat) : Nat := (a * b + 2 ^ p - 1) / 2 ^ p

/-- Bits of `log2 y` for `y` in [1, 2) over `2 ^ -p`, most significant first: each squaring yields one bit. -/
def lgBits (up : Bool) (p : Nat) : Nat → Nat → Nat → Nat
  | 0, _, acc => acc
  | n + 1, y, acc =>
    let z := if up then mulUp p y y else mulDown p y y
    if 2 ^ (p + 1) ≤ z then lgBits up p n (if up then (z + 1) / 2 else z / 2) (2 * acc + 1)
    else lgBits up p n z (2 * acc)

/-- log2. For a magnitude in [2 ^ k, 2 ^ (k + 1)) the logarithm is k plus that of the significand. -/
def lg2F : Fp → Nat
  | .nan => fp32.near .nan
  | .inf n => fp32.near (if n then .nan else .inf false)
  | .num n m e =>
    if m = 0 then fp32.near (.inf true)
    else if n then fp32.near .nan
    else
      let b := Nat.log2 m
      let k : Int := (b : Int) + e
      if m = 2 ^ b then fp32.near (ofInteger k)
      else
        let f (q : Nat) : Nat × Nat :=
          let p := 3 * q
          let y := m * 2 ^ (p - b)
          (lgBits false p q y 0, lgBits true p q y 0 + 1)
        if 0 ≤ k then
          settle false (fun q => { lo := k.toNat * 2 ^ q + (f q).1, hi := k.toNat * 2 ^ q + (f q).2, p := q }) precisions
        else
          settle true (fun q => { lo := (-k).toNat * 2 ^ q - (f q).2, hi := (-k).toNat * 2 ^ q - (f q).1, p := q }) precisions

/-- Product of the roots `2 ^ (2 ^ -i)` over the set bits of a fraction: `c` is the root of the next bit, `r` the fraction
over `2 ^ n`. -/
def exBits (up : Bool) (p : Nat) : Nat → Nat → Nat → Nat → Nat
  | 0, _, _, acc => acc
  | n + 1, r, c, acc =>
    let c := if up then isqrt (c * 2 ^ p) + 1 else isqrt (c * 2 ^ p)
    let acc := if 2 ^ n ≤ r then (if up then mulUp p acc c else mulDown p acc c) else acc
    exBits up p n (r % 2 ^ n) c acc

/-- `2 ^ x`. -/
def ex2F : Fp → Nat
  | .nan => fp32.near .nan
  | .inf n => fp32.near (if n then .num false 0 0 else .inf false)
  | .num n m e =>
    if m = 0 then fp32.near (.num false 1 0)
    else
      let top : Int := (Nat.log2 m : Int) + e
      if 8 ≤ top then fp32.near (if n then .num false 1 (-1000) else .num false 1 1000)
      else if top < -30 then fp32.near (.num false 1 0)
      else
        -- x = k + r / 2 ^ w with 0 ≤ r < 2 ^ w
        let w := (-e).toNat
        let v : Int := ((m * 2 ^ e.toNat : Nat) : Int)
        let v : Int := if n then -v else v
        let k := v / (2 ^ w : Nat)
        let r := (v % (2 ^ w : Nat)).toNat
        if r = 0 then fp32.near (.num false 1 k)
        else
          settle false (fun q =>
            let lo := exBits false q w r (2 ^ (q + 1)) (2 ^ q)
            let hi := exBits true q w r (2 ^ (q + 1)) (2 ^ q)
            if 0 ≤ k then { lo := lo * 2 ^ k.toNat, hi := hi * 2 ^ k.toNat, p := q }
            else { lo := lo, hi := hi, p := q + (-k).toNat }) precisions

/-- Terms of `atan (1 / d)` over `2 ^ -p` from a power on, with alternating signs; each is off by less than one unit. -/
def atanTerms (d : Nat) : Nat → Nat → Nat → Int → Int
  | 0, _, _, _ => 0
  | n + 1, k, pow, s => s * (pow / k : Nat) + atanTerms d n (k + 2) (pow / (d * d)) (-s)

/-- An enclosure of π over `2 ^ -p` (Machin's formula). -/
def piSpan (p : Nat) : Span :=
  let x := 16 * atanTerms 5 p 1 (2 ^ p / 5) 1 - 4 * atanTerms 239 p 1 (2 ^ p / 239) 1
  { lo := x.toNat - 32 * p, hi := x.toNat + 32 * p, p := p }

/-- Terms of the series of sin or cos from `t` on: `t * y² / ((k + 1) (k + 2))`, alternating, each off by less than two
units. -/
def trigTerms (p y2 : Nat) : Nat → Nat → Nat → Int → Int
  | 0, _, _, _ => 0
  | n + 1, k, t, s => s * (t : Nat) + trigTerms p y2 n (k + 2) (t * y2 / 2 ^ p / ((k + 1) * (k + 2))) (-s)

/-- An enclosure of sin (π r / 2 ^ w) or cos for r / 2 ^ w in (0, 1/2): the series at an argument within `8 p` units. -/
def trigSpan (isSin : Bool) (w r q : Nat) : Span :=
  let p := q + 2 * w
  let pi := piSpan p
  let y := (pi.lo + pi.hi) / 2 * r / 2 ^ w
  let y2 := y * y / 2 ^ p
  let x := if isSin then trigTerms p y2 p 1 y 1 else trigTerms p y2 p 0 (2 ^ p) 1
  { lo := x.toNat - 128 * p, hi := x.toNat + 128 * p, p := p }

/-- sin (π x) or cos (π x) for a finite x that is no multiple of 1/2, from its reduction modulo 2: `r / 2 ^ w` in (0, 2). -/
def trigF (isSin neg : Bool) (w r : Nat) : Nat :=
  let one := 2 ^ w
  -- fold into (0, 1/2)
  let half := r % one
  let low := decide (2 * half < one)
  let arg := if low then half else one - half
  let sign : Bool :=
    if isSin then neg != decide (one ≤ r)
    else (if low then false else true) != decide (one ≤ r)
  settle sign (fun q => trigSpan isSin w arg q) precisions

/-- sin (π x). -/
def sinpiF : Fp → Nat
  | .nan => fp32.near .nan
  | .inf _ => fp32.near .nan
  | .num n m e =>
    if m = 0 || 0 ≤ e then fp32.near (.num n 0 0)
    else
      let w := (-e).toNat
      let r := m % 2 ^ (w + 1)
      if r % 2 ^ w = 0 then fp32.near (.num n 0 0)
      else if 2 * (r % 2 ^ w) = 2 ^ w then fp32.near (.num (n != decide (2 ^ w ≤ r)) 1 0)
      else trigF true n w r

/-- cos (π x). -/
def cospiF : Fp → Nat
  | .nan => fp32.near .nan
  | .inf _ => fp32.near .nan
  | .num _ m e =>
    if m = 0 then fp32.near (.num false 1 0)
    else
      let w := (-e).toNat
      let r := (m * 2 ^ e.toNat) % 2 ^ (w + 1)
      if r = 0 then fp32.near (.num false 1 0)
      else if r = 2 ^ w then fp32.near (.num true 1 0)
      else if 2 * (r % 2 ^ w) = 2 ^ w then fp32.near (.num false 0 0)
      else if w > 60 then fp32.near (.num false 1 0)
      else trigF false false w r

/-- Terms of the series of exp from `t` on: `t * y / (k + 1)`, each off by less than two units. -/
def expTerms (p y : Nat) : Nat → Nat → Nat → Nat
  | 0, _, _ => 0
  | n + 1, k, t => t + expTerms p y n (k + 1) (t * y / 2 ^ p / (k + 1))

/-- tanh, by (exp 2x − 1) / (exp 2x + 1); within [x (1 − 2^-27), x] below 2^-13, and within [1 − 2^-27, 1] from 16 up. -/
def tanhF : Fp → Nat
  | .nan => fp32.near .nan
  | .inf n => fp32.near (.num n 1 0)
  | .num n m e =>
    let top : Int := (Nat.log2 m : Int) + e
    if m = 0 then fp32.near (.num n 0 0)
    else if top < -13 then fp32.near (.num n m e)
    else if 4 ≤ top then fp32.near (.num n 1 0)
    else
      settle n (fun q =>
        let p := 2 * q
        let y := m * 2 ^ (e + p + 1).toNat
        let x := expTerms p y p 0 (2 ^ p)
        let err := 2 ^ 48
        { lo := (x - err - 2 ^ p) * 2 ^ p / (x + err + 2 ^ p), hi := (x + err - 2 ^ p) * 2 ^ p / (x - err + 2 ^ p) + 1, p := p })
        precisions

end Sys2Proof.Machine
end

