-- ==== Sys2Proof/Machine/Float.lean ====
section
/-! DEFINITION. Floating-point, conversion, special-function, generator and dot-product instructions (14 R318-R337). -/

namespace Sys2Proof.Machine

/-! ### Rounding in a lane -/

/-- The rounding mode of the group. -/
def Ctx.mode (c : Ctx) : Nat := (roundOf c.issue.hints).1

/-- The saturation choice of the group. -/
def Ctx.sat (c : Ctx) : Bool := (roundOf c.issue.hints).2

/-- The output of the `n`-th generator step that lane `j` takes for an instruction, from 0 (12 R282). -/
def Ctx.random (c : Ctx) (j : Nat) : Nat → Word
  | 0 => genStep (c.S.lane j).gen
  | n + 1 => genStep (c.random j n)

/-- A rounded instruction of `n` elements: under `.rs` the generator takes `n` steps in every active lane (14 R319). -/
def roundedOp (s : State) (i : Instr) (n : Nat) (regs : Ctx → Nat → List (Nat × Word)) : Out :=
  vecOp s i regs (fun c j th => if c.mode = 4 then { th with gen := c.random j (n - 1) } else th)

/-- FP32 word of an exact value under the group's mode. -/
def Ctx.round32 (c : Ctx) (j : Nat) (x : Fp) : Word :=
  BitVec.ofNat 32 (fp32.round c.mode c.sat (c.random j 0) x)

/-- Is the mode toward −∞? -/
def Ctx.down (c : Ctx) : Bool := c.mode == 3

/-- The packed format that m selects (14 R327). -/
def halfFmt (m : BitVec 1) : Fmt := if m = 1 then fp16 else bf16

/-- Element `k` of a packed word. -/
def half (x : Word) (k : Nat) : Nat := nfld x.toNat (16 * k) 16

/-- A packed result from its two element codes. -/
def packed (lo hi : Nat) : Word := BitVec.ofNat 32 (hi * 2 ^ 16 + lo)

/-- A packed rounded instruction: element 0 takes its generator step first (14 R319, R328). -/
def packedOp (s : State) (i : Instr) (d : BitVec 7) (F : Fmt) (x : Ctx → Nat → Nat → Fp) : Out :=
  roundedOp s i 2 (fun c j =>
    let e (k : Nat) := F.round c.mode c.sat (c.random j k) (x c j k)
    [(d.toNat, packed (e 0) (e 1))])

/-- Element `k` of register `r` as a value. -/
def Ctx.halfAt (c : Ctx) (F : Fmt) (j : Nat) (r : BitVec 7) (k : Nat) : Fp := F.value (half (c.rd j r) k)

/-! ### Meanings -/

/-- FADD. -/
def execFadd (d a b : BitVec 7) (g : BitVec 3) (s : State) : Out :=
  roundedOp s (.fadd d a b g) 1 (fun c j =>
    [(d.toNat, c.round32 j (Fp.sum c.down [f32 (c.rd j a), f32 (c.rd j b)]))])

/-- FSUB. -/
def execFsub (d a b : BitVec 7) (g : BitVec 3) (s : State) : Out :=
  roundedOp s (.fsub d a b g) 1 (fun c j =>
    [(d.toNat, c.round32 j (Fp.sum c.down [f32 (c.rd j a), (f32 (c.rd j b)).neg]))])

/-- FMUL. -/
def execFmul (d a b : BitVec 7) (g : BitVec 3) (s : State) : Out :=
  roundedOp s (.fmul d a b g) 1 (fun c j =>
    [(d.toNat, c.round32 j (Fp.sum c.down [(f32 (c.rd j a)).mul (f32 (c.rd j b))]))])

/-- FFMA. -/
def execFfma (d a b : BitVec 7) (g : BitVec 3) (s : State) : Out :=
  roundedOp s (.ffma d a b g) 1 (fun c j =>
    [(d.toNat, c.round32 j (Fp.sum c.down [(f32 (c.rd j a)).mul (f32 (c.rd j b)), f32 (c.rd j d)]))])

/-- fmin or fmax of two words. -/
def pick32 (most : Bool) (x y : Word) : Word := BitVec.ofNat 32 (fp32.pick most x.toNat y.toNat)

/-- FMIN. -/
def execFmin (d a b : BitVec 7) (g : BitVec 3) (s : State) : Out :=
  vecOp s (.fmin d a b g) (bin d a b (pick32 false))

/-- FMAX. -/
def execFmax (d a b : BitVec 7) (g : BitVec 3) (s : State) : Out :=
  vecOp s (.fmax d a b g) (bin d a b (pick32 true))

/-- FCMP (14 R325). -/
def execFcmp (p : BitVec 5) (a b : BitVec 7) (c : BitVec 4) (k : BitVec 2) (s : State) : Out :=
  vecOp s (.fcmp p a b c k) (fun _ _ => [])
    (fun x j th => th.combine p.toNat k.toNat (floatCond c.toNat ((f32 (x.rd j a)).compare (f32 (x.rd j b)))))

/-- The class bit of a word (14 Table 14-3). -/
def classOf (x : Word) : Nat :=
  match f32 x with
  | .nan => if x.msb then 9 else 8
  | .inf n => if n then 0 else 7
  | .num n m _ =>
    if m = 0 then (if n then 3 else 4) else if m < 2 ^ 23 then (if n then 2 else 5) else (if n then 1 else 6)

/-- FCLASS. -/
def execFclass (d a : BitVec 7) (g : BitVec 3) (s : State) : Out :=
  vecOp s (.fclass d a g) (un d a (fun x => maskBit (classOf x)))

/-- Round a word to an integral value (14 R329). -/
def integral (mode : Nat) (g : Word) (x : Word) : Word :=
  match f32 x with
  | .num n m e => if e < 0 && m != 0 then BitVec.ofNat 32 (fp32.near (.num n (roundUnits mode n g m e 0) 0)) else x
  | .inf _ => x
  | .nan => BitVec.ofNat 32 (fp32.near .nan)

/-- FRINT. -/
def execFrint (d a : BitVec 7) (g : BitVec 3) (s : State) : Out :=
  roundedOp s (.frint d a g) 1 (fun c j => [(d.toNat, integral c.mode (c.random j 0) (c.rd j a))])

/-- The narrow format of an fcvt kind (14 Table 14-4). -/
def kindFmt (kind : Nat) : Fmt :=
  match kind % 5 with
  | 0 => bf16
  | 1 => fp16
  | 2 => e4m3
  | 3 => e5m2
  | _ => e2m1

/-- fcvt of a word, with the old destination: kinds 0 to 4 widen, 5 to 9 narrow (14 R330, R331). -/
def convertFloat (code mode : Nat) (sat : Bool) (g old x : Word) : Word :=
  let F := kindFmt (code % 16)
  let k := code / 16
  let w := F.bits
  if code % 16 < 5 then BitVec.ofNat 32 (fp32.near (F.value (nfld x.toNat (w * k) w)))
  else BitVec.ofNat 32 (nput old.toNat (w * k) w (F.narrow mode sat g (f32 x)))

/-- FCVT: a widening takes no ROUND hint, so it never steps the generator. -/
def execFcvt (d a c : BitVec 7) (g : BitVec 3) (s : State) : Out :=
  roundedOp s (.fcvt d a c g) 1 (fun x j =>
    [(d.toNat, convertFloat c.toNat x.mode x.sat (x.random j 0) (x.rd j d) (x.rd j a))])

/-- Range of a ficvt code (14 Table 14-5). -/
def intRange (code : Nat) : Int × Int :=
  match code with
  | 0 => (-(2 ^ 31), 2 ^ 31 - 1)
  | 1 => (0, 2 ^ 32 - 1)
  | 2 => (-(2 ^ 63), 2 ^ 63 - 1)
  | 3 => (0, 2 ^ 64 - 1)
  | 4 => (-128, 127)
  | 5 => (0, 255)
  | 6 => (-(2 ^ 15), 2 ^ 15 - 1)
  | _ => (0, 2 ^ 16 - 1)

/-- FICVT. -/
def execFicvt (d a c : BitVec 7) (g : BitVec 3) (s : State) : Out :=
  roundedOp s (.ficvt d a c g) 1 (fun x j =>
    let (lo, hi) := intRange c.toNat
    let r := BitVec.ofInt 64 (toInteger x.mode (x.random j 0) lo hi (f32 (x.rd j a)))
    if c = 2 || c = 3 then pairOut d.toNat r else [(d.toNat, r.extractLsb' 0 32)])

/-- IFCVT: sat has no effect. -/
def execIfcvt (d a c : BitVec 7) (g : BitVec 3) (s : State) : Out :=
  roundedOp s (.ifcvt d a c g) 1 (fun x j =>
    let n : Int :=
      if c = 0 then (x.rd j a).toInt else if c = 1 then (x.rd j a).toNat
      else if c = 2 then (x.rd2 j a).toInt else (x.rd2 j a).toNat
    [(d.toNat, BitVec.ofNat 32 (fp32.round x.mode false (x.random j 0) (ofInteger n)))])

/-- HADD2. -/
def execHadd2 (d a b : BitVec 7) (g : BitVec 3) (m : BitVec 1) (s : State) : Out :=
  packedOp s (.hadd2 d a b g m) d (halfFmt m) (fun c j k =>
    Fp.sum c.down [c.halfAt (halfFmt m) j a k, c.halfAt (halfFmt m) j b k])

/-- HMUL2. -/
def execHmul2 (d a b : BitVec 7) (g : BitVec 3) (m : BitVec 1) (s : State) : Out :=
  packedOp s (.hmul2 d a b g m) d (halfFmt m) (fun c j k =>
    Fp.sum c.down [(c.halfAt (halfFmt m) j a k).mul (c.halfAt (halfFmt m) j b k)])

/-- HFMA2. -/
def execHfma2 (d a b : BitVec 7) (g : BitVec 3) (m : BitVec 1) (s : State) : Out :=
  packedOp s (.hfma2 d a b g m) d (halfFmt m) (fun c j k =>
    Fp.sum c.down
      [(c.halfAt (halfFmt m) j a k).mul (c.halfAt (halfFmt m) j b k), c.halfAt (halfFmt m) j d k])

/-- HMAX2. -/
def execHmax2 (d a b : BitVec 7) (g : BitVec 3) (m : BitVec 1) (s : State) : Out :=
  vecOp s (.hmax2 d a b g m) (bin d a b (fun x y =>
    let F := halfFmt m
    packed (F.pick true (half x 0) (half y 0)) (F.pick true (half x 1) (half y 1))))

/-- A special function of each active lane (14 R334). -/
def specialOp (s : State) (i : Instr) (d a : BitVec 7) (f : Fp → Nat) : Out :=
  vecOp s i (un d a (fun x => BitVec.ofNat 32 (f (f32 x))))

/-- RCP. -/
def execRcp (d a : BitVec 7) (h : BitVec 4) (g : BitVec 3) (s : State) : Out := specialOp s (.rcp d a h g) d a rcpF

/-- RSQRT. -/
def execRsqrt (d a : BitVec 7) (h : BitVec 4) (g : BitVec 3) (s : State) : Out := specialOp s (.rsqrt d a h g) d a rsqrtF

/-- SQRT. -/
def execSqrt (d a : BitVec 7) (h : BitVec 4) (g : BitVec 3) (s : State) : Out := specialOp s (.sqrt d a h g) d a sqrtF

/-- EX2. -/
def execEx2 (d a : BitVec 7) (h : BitVec 4) (g : BitVec 3) (s : State) : Out := specialOp s (.ex2 d a h g) d a ex2F

/-- LG2. -/
def execLg2 (d a : BitVec 7) (h : BitVec 4) (g : BitVec 3) (s : State) : Out := specialOp s (.lg2 d a h g) d a lg2F

/-- SINPI. -/
def execSinpi (d a : BitVec 7) (h : BitVec 4) (g : BitVec 3) (s : State) : Out := specialOp s (.sinpi d a h g) d a sinpiF

/-- COSPI. -/
def execCospi (d a : BitVec 7) (h : BitVec 4) (g : BitVec 3) (s : State) : Out := specialOp s (.cospi d a h g) d a cospiF

/-- TANH. -/
def execTanh (d a : BitVec 7) (h : BitVec 4) (g : BitVec 3) (s : State) : Out := specialOp s (.tanh d a h g) d a tanhF

/-- RNGS (14 R336, 12 R287). -/
def execRngs (a : BitVec 7) (g : BitVec 3) (s : State) : Out :=
  vecOp s (.rngs a g) (fun _ _ => [])
    (fun c j th => { th with gen := seedOf (c.rd j a) (globalIndex c.T (s.launchOf c.T).desc.troupes c.k j) })

/-- RNG. -/
def execRng (d : BitVec 7) (g : BitVec 3) (s : State) : Out :=
  vecOp s (.rng d g) (fun c j => [(d.toNat, c.random j 0)]) (fun c j th => { th with gen := c.random j 0 })

/-- Byte `j` of a word, extended. -/
def extByte (signed : Bool) (x : Word) (j : Nat) : Int :=
  if signed then sextNat 8 (nfld x.toNat (8 * j) 8) else nfld x.toNat (8 * j) 8

/-- The dot product of four byte pairs, added to an accumulator (14 R337). -/
def dot4W (signed : Bool) (acc a b : Word) : Word :=
  BitVec.ofInt 32 ((List.range 4).foldl (fun x j => x + extByte signed a j * extByte signed b j) (acc.toNat : Int))

/-- DOT4. -/
def execDot4 (d a b : BitVec 7) (g : BitVec 3) (m : BitVec 1) (s : State) : Out :=
  vecOp s (.dot4 d a b g m) (tern d a b (dot4W (sg m)))

end Sys2Proof.Machine
end

