-- ==== Sys2Proof/Machine/Lane.lean ====
section
/-! DEFINITION. Cross-lane instructions (13 R310-R316; the tree of 05 R114 and 12 R291). -/

namespace Sys2Proof.Machine

/-! ### The tree -/

/-- One level of the tree: neighbours combine, and an absent side leaves the other (12 R291). -/
def treeLevel {α : Type} (f : α → α → α) : List (Option α) → List (Option α)
  | some x :: some y :: t => some (f x y) :: treeLevel f t
  | some x :: none :: t => some x :: treeLevel f t
  | none :: y :: t => y :: treeLevel f t
  | t => t

/-- The value of the tree over leaves, lower index on the left; `n` levels. -/
def treeOf {α : Type} (f : α → α → α) : Nat → List (Option α) → Option α
  | 0, l => l.headD none
  | n + 1, l => treeOf f n (treeLevel f l)

/-- Node operation of a code of 13 Table 13-5; 32-bit values stand in the low half. -/
def nodeOp (code : Nat) (x y : DWord) : DWord :=
  let a : Word := x.extractLsb' 0 32
  let b : Word := y.extractLsb' 0 32
  let w (r : Word) : DWord := r.zeroExtend 64
  match code with
  | 0 => w (a + b)
  | 1 => w (minW true a b)
  | 2 => w (minW false a b)
  | 3 => w (maxW true a b)
  | 4 => w (maxW false a b)
  | 5 => w (a &&& b)
  | 6 => w (a ||| b)
  | 7 => w (a ^^^ b)
  | 8 => BitVec.ofNat 64 (fp32.near (Fp.sum false [f32 a, f32 b]))
  | 9 => w (pick32 false a b)
  | 10 => w (pick32 true a b)
  | _ => x + y

/-- Identity of a code. -/
def nodeId (code : Nat) : DWord :=
  match code with
  | 1 => 0x7FFFFFFF
  | 2 => 0xFFFFFFFF
  | 3 => 0x80000000
  | 5 => 0xFFFFFFFF
  | 9 => 0x7F800000
  | 10 => 0xFF800000
  | _ => 0

/-- A floating result with a NaN made canonical (12 R275, 13 R316). -/
def canonical (code : Nat) (x : DWord) : DWord :=
  if 8 ≤ code && code ≤ 10 && fp32.isNan (x.toNat % 2 ^ 32) then 0x7FC00000 else x

/-- The tree of a code over lanes that satisfy `here`. -/
def laneTree (code : Nat) (here : Nat → Bool) (v : Nat → DWord) : DWord :=
  canonical code ((treeOf (nodeOp code) 5
    ((List.range 32).map (fun i => if here i then some (v i) else none))).getD (nodeId code))

/-- Results of sred and sscan: one register, or a pair for code 0x0B. -/
def treeOut (d : BitVec 7) (code : Nat) (x : DWord) : List (Nat × Word) :=
  if code = 11 then pairOut d.toNat x else [(d.toNat, x.extractLsb' 0 32)]

/-- A lane's leaf. -/
def Ctx.leaf (c : Ctx) (code : Nat) (a : BitVec 7) (j : Nat) : DWord :=
  if code = 11 then c.rd2 j a else (c.rd j a).zeroExtend 64

/-- Register `r` of lane `k` when that lane is live, else the lane's own. -/
def Ctx.from (c : Ctx) (j k : Nat) (a : BitVec 7) : Word := if inMask c.mask k then c.rd k a else c.rd j a

/-! ### Meanings -/

/-- BALLOT (13 R311). -/
def execBallot (d : BitVec 7) (a : BitVec 5) (g : BitVec 3) (s : State) : Out :=
  vecOp s (.ballot d a g) (fun c _ =>
    [(d.toNat, maskOf (fun k => inMask c.act k && (c.S.lane k).pred a.toNat))])

/-- The term of a vote in lane `k` (13 R312). -/
def voteTerm (c : Ctx) (a : BitVec 5) (cond : BitVec 4) (k : Nat) : Bool :=
  (c.S.lane k).pred a.toNat != cond.getLsbD 0

/-- VANY. -/
def execVany (p a : BitVec 5) (c : BitVec 4) (k : BitVec 2) (s : State) : Out :=
  vecOp s (.vany p a c k) (fun _ _ => [])
    (fun x _ th => th.combine p.toNat k.toNat ((lanesOf x.mask).any (voteTerm x a c)))

/-- VALL. -/
def execVall (p a : BitVec 5) (c : BitVec 4) (k : BitVec 2) (s : State) : Out :=
  vecOp s (.vall p a c k) (fun _ _ => [])
    (fun x _ th => th.combine p.toNat k.toNat ((lanesOf x.mask).all (voteTerm x a c)))

/-- ELECT: the lowest live lane, or the highest. -/
def execElect (p : BitVec 5) (c : BitVec 4) (k : BitVec 2) (s : State) : Out :=
  vecOp s (.elect p c k) (fun _ _ => [])
    (fun x j th => th.combine p.toNat k.toNat
      (if c = 1 then (lanesOf x.mask).getLast? == some j else lowLane x.mask == some j))

/-- SHFL (13 R313). -/
def execShfl (d a b : BitVec 7) (g : BitVec 3) (s : State) : Out :=
  vecOp s (.shfl d a b g) (fun c j => [(d.toNat, c.from j (c.rd j b).toNat a)])

/-- SRED (13 R316). -/
def execSred (d a c : BitVec 7) (g : BitVec 3) (s : State) : Out :=
  vecOp s (.sred d a c g) (fun x _ =>
    treeOut d c.toNat (laneTree c.toNat (inMask x.act) (x.leaf c.toNat a)))

/-- SSCAN (13 R316). -/
def execSscan (d a c : BitVec 7) (g : BitVec 3) (s : State) : Out :=
  vecOp s (.sscan d a c g) (fun x j =>
    let code := c.toNat % 64
    treeOut d code (laneTree code
      (fun k => inMask x.act k && decide (k < j + (if 64 ≤ c.toNat then 0 else 1))) (x.leaf code a)))

/-- QSWP (13 R314). -/
def execQswp (d a b : BitVec 7) (g : BitVec 3) (s : State) : Out :=
  vecOp s (.qswp d a b g) (fun c j => [(d.toNat, c.from j (Nat.xor j (b.toNat + 1)) a)])

/-- QBCAST (13 R314). -/
def execQbcast (d a b : BitVec 7) (g : BitVec 3) (s : State) : Out :=
  vecOp s (.qbcast d a b g) (fun c j => [(d.toNat, c.from j (j / 4 * 4 + b.toNat) a)])

/-- MATCH (13 R315). -/
def execMatchLanes (d a b : BitVec 7) (g : BitVec 3) (s : State) : Out :=
  vecOp s (.matchLanes d a b g) (fun c j =>
    [(d.toNat, maskOf (fun k => inMask c.act k &&
      (if b = 1 then c.rd2 k a == c.rd2 j a else c.rd k a == c.rd j a)))])

end Sys2Proof.Machine
end

