-- ==== Sys2Proof/Machine/Space.lean ====
section
/-! DEFINITION. What the memory and copy instructions share: lane checks and their report (07 R157, R158; 11 R240),
scratchpad addresses, marks and the scoreboard's overlaps (08 R165-R176), values seen inside a chunk (10 R215, R233), misses
and answers (07 R146-R149), hotness samples (07 R162). -/

namespace Sys2Proof.Machine

/-! ### Failing lanes -/

/-- A lane that fails a check: cause, reason, address and detail. -/
structure LaneBad where
  lane : Nat
  cause : Nat
  reason : Nat
  addr : Nat
  info : Nat
  deriving DecidableEq, Repr, Inhabited

/-- What one precise trap reports of failing lanes: cause 0x20 first, else all of them, with the first failure of the lowest lane (07
R158; for causes other than the memory ones, log 58). -/
def report (fs : List LaneBad) : Option (Word × LaneBad) :=
  let lease := fs.filter (fun f => f.cause == 0x20)
  let xs := if lease.isEmpty then fs else lease
  (minNat (xs.map (·.lane))).bind (fun low =>
    (xs.find? (fun f => f.lane == low)).map (fun f => (maskOf (fun j => xs.any (fun x => x.lane == j)), f)))

/-- The lanes of a list whose check fails. -/
def badLanes (lanes : List Nat) (f : Nat → Option LaneBad) : List LaneBad := lanes.filterMap f

/-- Raise the trap that failing lanes ask for, or go on. -/
def State.orRaise (s : State) (c : Ctx) (fs : List LaneBad) (go : Unit → Out) : Out :=
  match report fs with
  | some (m, f) => .next (s.raise c m f.cause f.reason f.addr f.info)
  | none => go ()

/-- Issue a step instruction and do what it does (20 R415). -/
def stepOp (s : State) (i : Instr) (f : Ctx → Out) : Out :=
  match stepGo s i with
  | none => .fault .noIssuer
  | some (.stop t) => .next t
  | some (.go c) => f c

/-- Advance the figure with these register results. -/
def State.retire (s : State) (c : Ctx) (i : Instr) (regs : Nat → List (Nat × Word)) : Out :=
  .next (s.done c (SetState.retire c i regs (fun _ th => th) (fun _ => c.next)))

/-- The same lanes without some that wait, each in its own way. -/
def Ctx.without (c : Ctx) (lanes : List Nat) (h : Nat → Hold) : Ctx :=
  let m := maskOf (fun j => lanes.contains j)
  { c with mask := c.mask &&& ~~~ m, act := c.act &&& ~~~ m, S := c.S.onLanes m (fun j th => { th with hold := h j }) }

/-- Active lanes that are no helpers (11 R242). -/
def State.doers (s : State) (c : Ctx) : List Nat :=
  c.lanes.filter (fun j => !isHelper (s.launchOf c.T) c.T c.k j)

/-! ### Memory operands -/

/-- The virtual address of a lane's register pair (11 R239). -/
def Ctx.va (c : Ctx) (j : Nat) (a : BitVec 7) : Nat :=
  pairAddr (c.rd j a) (c.S.read j (a.toNat + 1)) (immOff c.issue.hints)

/-- The 32-bit address of a lane's register (11 R239). -/
def Ctx.sp (c : Ctx) (j : Nat) (a : BitVec 7) : Nat := wordAddr (c.rd j a) (immOff c.issue.hints)

/-- A memory access of one lane, in the order of 11 R240: lease, alignment, then checks 2 to 6. -/
def State.laneAddr (s : State) (L : Launch) (k : Kind) (va w : Nat) : Except (Nat × Nat) Nat :=
  match s.leaseOf L k va with
  | .error e => .error e
  | .ok l =>
    if va % w != 0 then .error (0x29, 0)
    else
      match s.pageBad k va (l.page va) with
      | some e => .error e
      | none => .ok ((l.page va).dpa + va % 4096)

/-- The failure of a lane's memory access, if any. -/
def State.laneBad (s : State) (L : Launch) (k : Kind) (j va w : Nat) : Option LaneBad :=
  match s.laneAddr L k va w with
  | .error (cause, reason) => some { lane := j, cause := cause, reason := reason, addr := va, info := 0 }
  | .ok _ => none

/-- The device physical address of a lane's access that passed its checks. -/
def State.dpaOf (s : State) (L : Launch) (va : Nat) : Nat :=
  match s.leaseOf L .load va with
  | .ok l => (l.page va).dpa + va % 4096
  | .error _ => 0

/-- Must an outside line be reached at its target (10 R229, 11 R246; 06 Table 6-2 POOLC)? -/
def State.atTarget (s : State) (system : Bool) (a : Nat) : Bool := isOutside a && (system || !s.ctl.poolc)

/-- Will a committed seal register a buffer at a virtual address once its chunk's stores have drained (06 R137)? -/
def State.sealComing (s : State) (w tcid va : Nat) : Bool :=
  s.drains.any (fun d => d.world == w && ((s.launches.get? d.launch).map (·.tcid)).getD 0 == tcid &&
    d.seals.any (fun e => decide (e.1 ≤ va) && decide (va < e.1 + e.2)))

/-- The state of the buffer at a virtual address for its writers: 0 none, 1 sealed, 2 they wait: it drains (06 Table 6-6), or a committed
seal is about to register it. -/
def State.sealState (s : State) (w tcid va : Nat) : Nat :=
  match (s.world w).wobAt tcid va with
  | some (_, b) => b.state
  | none => if s.sealComing w tcid va then 2 else 0

/-- Is an address in a live range of its world? -/
def State.inRange (s : State) (w tcid va : Nat) : Bool := ((s.world w).rangeAt tcid va).isSome

/-- Does an access meet a live range: by its address, or through another one of the same line (06 R135)? -/
def State.live (s : State) (w tcid va dpa : Nat) : Bool := s.inRange w tcid va || (s.world w).liveLine (dpa / 128)

/-- Does a read or an `amo` go to its target: not that of a line of a live range, which its home serves (06 R135)? -/
def State.far (s : State) (L : Launch) (system : Bool) (va dpa : Nat) : Bool :=
  s.atTarget system dpa && !s.live L.world L.tcid va dpa

/-! ### Scratchpad -/

/-- The troupe that company form names (08 R166), if it exists and has not ended. -/
def State.mate (s : State) (T : Troupe) (n : Nat) : Option Nat :=
  (s.troupes.find? (fun (e : Nat × Troupe) =>
    e.2.launch == T.launch && e.2.company == T.company && e.2.index == n && !e.2.finished)).map (·.1)

/-- A scratchpad address of `n` bytes: the allotment's troupe and the offset, or the reason of 08 R169. -/
def State.spadAt (s : State) (t : Nat) (T : Troupe) (x n : Nat) : Except Nat (Nat × Nat) :=
  let off := nfld x 0 19
  if nfld x 19 5 != 0 || nfld x 29 2 != 0 || (!bitAt x 31 && nfld x 24 5 != 0) then .error 2
  else
    match (if bitAt x 31 then s.mate T (nfld x 24 5) else some t) with
    | none => .error 3
    | some u =>
      let size := ((s.troupes.get? u).map (·.spadSize)).getD 0
      if size < off + n then .error 1 else .ok (u, off)

/-- Is a line full with skip 0, and is it full (08 R165)? -/
def Troupe.lineBits (T : Troupe) (line : Nat) : Bool × Bool := T.lines.getD line (true, false)

/-- Set a line's bits, keeping the table sparse. -/
def Troupe.setLine (T : Troupe) (line : Nat) (b : Bool × Bool) : Troupe :=
  { T with lines := if b = (true, false) then T.lines.del line else T.lines.set line b }

/-- One scratchpad byte. -/
def Troupe.byte (T : Troupe) (off : Nat) : Byte := T.spad.getD off 0

/-- Write scratchpad bytes. -/
def Troupe.putBytes (T : Troupe) (off : Nat) (bs : List Byte) : Troupe :=
  let put (m : Tab Byte) (e : Nat × Byte) : Tab Byte := if e.2 = 0 then Tab.del m e.1 else Tab.set m e.1 e.2
  { T with spad := (bs.mapIdx (fun i b => (off + i, b))).foldl put T.spad }

/-- Scratchpad bytes of a troupe. -/
def State.spadBytes (s : State) (t off n : Nat) : List Byte :=
  match s.troupes.get? t with
  | some T => (List.range n).map (fun i => T.byte (off + i))
  | none => List.replicate n 0

/-- Is the line of an offset full? -/
def State.lineFull (s : State) (t off : Nat) : Bool :=
  ((s.troupes.get? t).map (fun T => (T.lineBits (off / 128)).1)).getD true

/-- A line's full and skip bits as a set sees them: with its own pending `fe.clr` and `fe.set` (08 R191, R192). -/
def State.lineSeen (s : State) (S : SetState) (t line : Nat) : Bool × Bool :=
  let own := (S.chunks.flatMap (·.fe)).filter (fun f => f.troupe == t && f.line == line)
  own.foldl (fun b f => if f.full then (true, b.2) else (false, false))
    (((s.troupes.get? t).map (fun T => T.lineBits line)).getD (true, false))

/-- Do two intervals overlap (08 R170)? -/
def overlaps (a b c d : Nat) : Bool := decide (a < d) && decide (c < b)

/-- Does an operation's interval meet a range of its troupe's allotment? `any` counts read intervals too. -/
def Op.meets (o : Op) (t lo hi : Nat) (any : Bool) : Bool :=
  o.troupe == t && o.ivals.any (fun v => overlaps v.lo v.hi lo hi && (any || v.write))

/-- A range of a scratchpad that an instruction is about to use: troupe, first byte and end, and whether reads of it count. -/
abbrev Reach := Nat × Nat × Nat × Bool

/-- Does an operation meet one of these ranges (08 R176)? -/
def meetsAny (rs : List Reach) (o : Op) : Bool := rs.any (fun r => o.meets r.1 r.2.1 r.2.2.1 r.2.2.2)

/-- Is an operation that some chunks of the set hold pending of this kind? -/
def State.pendingIn (s : State) (c : Ctx) (ks : List Chunk) (p : Op → Bool) : Bool :=
  ks.any (fun k => k.copies.any (fun e => ((s.coreAt c.T.place.coreNo).ops.get? e).any p))

/-- Is one pending of the open or of the committing chunk? Neither has a position yet. -/
def State.pending (s : State) (c : Ctx) (p : Op → Bool) : Bool := s.pendingIn c c.S.chunks p

/-- An access that must take a position after a pending operation waits until the operation's chunk has committed; one of the open chunk
closes that chunk first, and inside a transaction the fallback has kind 0x06 (08 R176, 15 R348). -/
def State.closeFirst (s : State) (c : Ctx) (p : Op → Bool) : State :=
  let own := s.pendingIn c c.S.chunk.toList p
  if c.S.inTx && own then (s.fallback c.t c.k 0x06 0).endIssue
  else (s.onSet c.t c.k (fun S => (if own then S.blocked false true else S).holding c.mask (.until [.commit]))).endIssue

/-- Threads that wait at an instruction are marked under a key, so that each stalled issue counts once (08 Table 8-5, 15 Table 15-7). -/
def SetState.noteStall (S : SetState) (key : Nat) (m : Word) : SetState :=
  { S with answers := S.answers.set key (BitVec.ofNat 32 (S.answers.getD key 0) ||| m).toNat }

/-- Have all the threads of a mask been counted as stalled? -/
def SetState.stalledOn (S : SetState) (key : Nat) (m : Word) : Bool := BitVec.ofNat 32 (S.answers.getD key 0) &&& m == m

/-- The threads have what they waited for. -/
def SetState.endStall (S : SetState) (key : Nat) (m : Word) : SetState :=
  match S.answers.get? key with
  | some x => { S with answers := S.answers.set key (BitVec.ofNat 32 x &&& ~~~ m).toNat }
  | none => S

/-- An instruction that stalls is counted once by its core, under a key: 96 for a full scoreboard, 97 for the tile interlock. -/
def State.stallOnce (s : State) (c : Ctx) (i : Instr) (key : Nat) (count : Core → Core) (ws : List Wake) : State :=
  let s := if c.S.stalledOn key c.mask then s else s.onCore c.T.place.coreNo count
  let s := s.stall c.t c.k c.mask (majorOf i) (fun _ => ws)
  if c.S.inTx then s else s.onSet c.t c.k (fun S => S.noteStall key c.mask)

/-- Has a line that left its home taken the set's chunk, and this instruction with it (10 R218)? -/
def State.lostChunk (s : State) (c : Ctx) : Bool := (s.setAt? c.t c.k).map (fun S => (S.squashes, S.txSquashes)) != some (c.S.squashes, c.S.txSquashes)

/-- The threads wait at the instruction with no other effect. -/
def State.hold (s : State) (c : Ctx) (m : Word) (h : Hold) : State :=
  (s.onSet c.t c.k (fun S => S.holding m h)).endIssue

/-! ### Values inside a chunk -/

/-- The byte that the latest of these stores gives an address; `lane` restricts them to one lane. -/
def storeByte (sts : List Store) (a : Nat) (lane : Option Nat) : Option Byte :=
  sts.foldl (fun acc st =>
    if decide (st.dpa ≤ a) && decide (a < st.dpa + st.bytes.length) && (lane.isNone || lane == some st.lane)
    then some (st.bytes.getD (a - st.dpa) 0) else acc) none

/-- The same for scratchpad stores. -/
def spadStoreByte (sts : List SpStore) (t off : Nat) (lane : Option Nat) : Option Byte :=
  sts.foldl (fun acc st =>
    if st.troupe == t && decide (st.off ≤ off) && decide (off < st.off + st.bytes.length) &&
      (lane.isNone || lane == some st.lane)
    then some (st.bytes.getD (off - st.off) 0) else acc) none

/-- A byte as lane `j` loads it: the latest store of the open chunk, of the committing one, or the committed value
(10 R215; inside a transaction only the lane's own stores, R233). -/
def State.loadByte (s : State) (S : SetState) (w j a : Nat) : Byte :=
  match S.chunk.bind (fun c => storeByte c.stores a (if c.tx.isSome then some j else none)) with
  | some b => b
  | none =>
    match S.closing.bind (fun c => storeByte c.stores a none) with
    | some b => b
    | none => s.seen w a

/-- A scratchpad byte as lane `j` loads it. -/
def State.loadSpad (s : State) (S : SetState) (j t off : Nat) : Byte :=
  match S.chunk.bind (fun c => spadStoreByte c.spStores t off (if c.tx.isSome then some j else none)) with
  | some b => b
  | none =>
    match S.closing.bind (fun c => spadStoreByte c.spStores t off none) with
    | some b => b
    | none => ((s.troupes.get? t).map (fun T => T.byte off)).getD 0

/-- `n` bytes as lane `j` loads them from memory. -/
def State.loadBytes (s : State) (S : SetState) (w j a n : Nat) : List Byte :=
  (List.range n).map (fun i => s.loadByte S w j (a + i))

/-! ### Register groups (05 R104, Table 5-4) -/

/-- Width of a mod value. -/
def widthOf (m : Nat) : Nat :=
  match m with
  | 0 => 1
  | 1 => 1
  | 2 => 2
  | 3 => 2
  | 4 => 4
  | 5 => 8
  | _ => 16

/-- Registers that loaded bytes give. -/
def loadRegs (m d : Nat) (b : List Byte) : List (Nat × Word) :=
  let x := leNat b
  match m with
  | 1 => [(d, BitVec.ofInt 32 (sextNat 8 x))]
  | 3 => [(d, BitVec.ofInt 32 (sextNat 16 x))]
  | 5 => (List.range 2).map (fun j => (d + j, BitVec.ofNat 32 (nfld x (32 * j) 32)))
  | 6 => (List.range 4).map (fun j => (d + j, BitVec.ofNat 32 (nfld x (32 * j) 32)))
  | _ => [(d, BitVec.ofNat 32 x)]

/-- The low bytes of a register group, as a load lays them out. -/
def Ctx.storeBytes (c : Ctx) (m j : Nat) (d : BitVec 7) : List Byte :=
  let w := widthOf m
  let x := ((List.range ((w + 3) / 4)).map (fun k => (c.S.read j (d.toNat + k)).toNat * 2 ^ (32 * k))).foldl (· + ·) 0
  leBytes w x

/-! ### Marks of a chunk -/

/-- Key of a scratchpad line among the lines a transaction touches. -/
def padKey (t line : Nat) : Nat := 2 ^ 60 + t * 4096 + line

/-- Record lines that lanes touch inside a transaction (10 R234). -/
def Chunk.touch (k : Chunk) (xs : List (Nat × Nat × Bool)) : Chunk :=
  if k.tx.isSome then { k with touched := addAll k.touched xs } else k

/-- The granules of a world's lines that carry data under an unfinished IDE check (10 R232). -/
def State.unvOf (s : State) (w : Nat) (lines : List Nat) : List Nat :=
  (lines.flatMap (fun l => [granKey w (l * 128), granKey w (l * 128 + 64)])).filter (fun g => (s.unverified.get? g).isSome)

/-- Are there any? -/
def State.anyUnverified (s : State) (w : Nat) (lines : List Nat) : Bool := !(s.unvOf w lines).isEmpty

/-- The set after memory reads: read signature, transaction lines and unverified data (10 R216, R232, R234). -/
def SetState.reading (S : SetState) (lines : List Nat) (touched : List (Nat × Nat)) (unv : List Nat) : SetState :=
  S.onChunk (fun k =>
    ({ k with reads := addAll k.reads lines, unverified := addAll k.unverified unv }).touch
      (touched.map (fun (e : Nat × Nat) => (e.1, e.2, false))))

/-! ### Samples and misses -/

/-- A counted access of a cluster; every `2 ^ LOG2N`-th takes a sample (07 R162). -/
def State.sample (s : State) (cl w va core kind tcid : Nat) (miss : Bool) : State :=
  let h := (s.world w).hot
  if !h.en then s
  else
    let n := (s.cluster cl).hot.getD w 0 + 1
    if 2 ^ h.log2n ≤ n then
      let e : Sample :=
        { world := w, va := va / 128 * 128, time := s.now, core := core, kind := kind, tcid := tcid, miss := miss }
      s.onCluster cl (fun C => { C with hot := C.hot.del w, due := C.due ++ [e] })
    else s.onCluster cl (fun C => { C with hot := C.hot.set w n })

/-- Does the L1 of a core hold a line under its address, world and context, filled for writing where the access writes (07 R146)? -/
def Core.hits (C : Core) (w tcid va : Nat) (write : Bool) : Bool :=
  C.l1.any (fun l => l.world == w && l.tcid == tcid && l.va == va / 128 && (l.write || !write))

/-- Has a figure's line missed its L1: now, or when its instruction first asked for it (07 Table 7-9)? -/
def State.l1Missed (s : State) (c : Ctx) (va : Nat) (write : Bool) : Bool :=
  let L := s.launchOf c.T
  c.S.missed.contains (va / 128) || !(s.coreAt c.T.place.coreNo).hits L.world L.tcid va write

/-- Samples of the lines that a figure requests of its L1, each line once. -/
def State.samples (s : State) (c : Ctx) (kind : Nat) (vas : List Nat) (write : Bool) : State :=
  let L := s.launchOf c.T
  (addAll [] (vas.map (· / 128))).foldl
    (fun (t : State) (l : Nat) =>
      t.sample (c.T.place.coreNo / 4) L.world (l * 128) c.T.place.tag kind L.tcid (s.l1Missed c (l * 128) write)) s

/-! ### The cluster TLBs (07 R147, R156) -/

/-- 4 KiB pages of a page size. -/
def tlbPages (size : Nat) : Nat := 2 ^ (size - 12)

/-- The page size of an entry: the smaller of the two stage page sizes, and no page that leaves the lease (log 59). -/
def Lease.tlbSize (l : Lease) (page : Nat) : Nat :=
  (([30, 21, 16].find? (fun n => decide (n ≤ (l.page (page * 4096)).size) && decide (l.base ≤ page / tlbPages n * tlbPages n) &&
    decide (page / tlbPages n * tlbPages n + tlbPages n ≤ l.base + l.len)))).getD 12

/-- An entry enters a cluster's TLB, the most recent first; it holds 4096 entries (07 R147). -/
def State.tlbEnter (s : State) (cl : Nat) (e : Tlb) : State :=
  s.onCluster cl (fun C => { C with tlb := (e :: C.tlb.filter (fun x =>
    !(x.world == e.world && x.tcid == e.tcid && overlaps x.va (x.va + tlbPages x.size) e.va (e.va + tlbPages e.size)))).take 4096 })

/-- The translation of an address under a resident lease enters a cluster's TLB. -/
def State.toTlb (s : State) (cl w tcid va : Nat) : State :=
  match (s.world w).leasedEntry tcid va with
  | none => s
  | some l =>
    let n := l.tlbSize (va / 4096)
    let b := va / 4096 / tlbPages n * tlbPages n
    let p := l.page (b * 4096)
    s.tlbEnter cl
      { world := w, tcid := tcid, size := n, va := b, dpa := p.dpa / 4096, w := p.w, cow := p.cow, p := p.p
        cc := s.computeCapable p.dpa }

/-- A store, an atomic or a reduction to lines that the L1 does not hold for writing goes to the TLB as a miss (07 R146); none fills the
L1 (11 Table 11-2). -/
def State.writeMisses (s : State) (c : Ctx) (vas : List Nat) : State :=
  let L := s.launchOf c.T
  (vas.filter (fun va => s.l1Missed c va true)).foldl (fun (s : State) va => s.toTlb (c.T.place.coreNo / 4) L.world L.tcid va) s

/-! ### Misses (07 R149) -/

/-- Is a line asked for by a miss-status entry? -/
def Miss.of (m : Miss) (w tcid va : Nat) : Bool := m.world == w && m.tcid == tcid && m.va == va / 128

/-- Is a miss for the line under way? -/
def Core.missing (C : Core) (w tcid va : Nat) : Bool := C.misses.any (fun m => m.2.of w tcid va && m.2.err == 0)

/-- The cause of the error response that a line's miss has met, if it has (07 R145, 25 R484). -/
def Core.missErr (C : Core) (w tcid va : Nat) : Option Nat :=
  (C.misses.find? (fun m => m.2.of w tcid va && m.2.err != 0)).map (·.2.err)

/-- Entries whose errors have been taken are free again. -/
def Core.clearErrs (C : Core) (w tcid : Nat) (lines : List Nat) : Core :=
  { C with misses := C.misses.filter (fun m =>
      m.2.err == 0 || !(m.2.world == w && m.2.tcid == tcid && lines.contains m.2.va)) }

/-- The lowest of the 64 miss-status entries that is free. -/
def Core.freeMiss (C : Core) : Option Nat := (List.range 64).find? (fun i => (C.misses.get? i).isNone)

/-- When the oldest aged thread of a core that still asks for a line became ready: its request goes before others. -/
def State.agedAsk (s : State) (core : Nat) : Option Nat :=
  minNat (s.troupes.flatMap (fun (e : Nat × Troupe) =>
    if e.2.place.coreNo == core then
      e.2.setTab.flatMap (fun (f : Nat × SetState) =>
        if f.2.missed.isEmpty then [] else (f.2.threads.filter (fun th => th.ready && th.aged)).map (·.since))
    else []))

/-- A lane's miss asks for its line: it merges into an entry of fewer than 32 requests, takes a free one unless an older aged request
waits for it, or is rejected and changes nothing. Answers whether it was taken. -/
def State.miss (s : State) (core w tcid va dpa since msc : Nat) (alloc : Bool) : State × Bool :=
  let C := s.coreAt core
  match C.misses.find? (fun m => m.2.of w tcid va) with
  | some (i, m) =>
    if 32 ≤ m.merged then (s, false)
    else (s.onCore core (fun C => { C with misses := C.misses.set i { m with merged := m.merged + 1, alloc := m.alloc || alloc } }), true)
  | none =>
    match (if (s.agedAsk core).all (fun n => decide (since ≤ n)) then C.freeMiss else none) with
    | some i =>
      let m : Miss :=
        { world := w, tcid := tcid, va := va / 128, dpa := dpa / 128, write := false, merged := 1, msc := msc, alloc := alloc
          req := none, err := 0 }
      ((s.onCore core (fun C => { C with misses := C.misses.set i m })).tally w 6 1, true)
    | none => (s, false)

/-- Lanes ask for their lines; the addresses of the requests that were taken. -/
def State.missAll (s : State) (c : Ctx) (xs : List (Nat × Nat × Nat)) (msc : Nat) (alloc : Bool) : State × List Nat :=
  let L := s.launchOf c.T
  xs.foldl (fun (r : State × List Nat) x =>
    match r.1.miss c.T.place.coreNo L.world L.tcid x.2.1 x.2.2 (c.S.lane x.1).since msc alloc with
    | (s, true) => (s, r.2 ++ [x.2.1])
    | (s, false) => (s, r.2)) (s, [])

/-! ### Filling an L1 (07 R146-R148) -/

/-- A cluster joins a line's sharers: two exactly, more by slice (06 R125). -/
def HomeLine.share (h : HomeLine) (cl : Nat) : HomeLine :=
  if !h.slices.isEmpty then { h with slices := addNew h.slices (cl / 4) }
  else if h.clusters.contains cl then h
  else if h.clusters.length < 2 then { h with clusters := h.clusters ++ [cl] }
  else { h with clusters := [], slices := addAll [] ((h.clusters ++ [cl]).map (· / 4)) }

/-- An L1 takes a line, and its oldest line leaves when it would hold more than 1024. -/
def State.toL1 (s : State) (core : Nat) (l : L1Line) : State :=
  let old := (s.coreAt core).l1
  let s := match (if 1024 ≤ old.length then old.getLast? else none) with
    | some x => s.dropL1 (fun n y => n == core && y == x)
    | none => s
  s.onCore core (fun C => { C with l1 := l :: C.l1.filter (fun y => !(y.world == l.world && y.tcid == l.tcid && y.va == l.va)) })

/-- A missed line arrives at its core: served by its home and, where the L1 takes it, present there, in the home's filter unless it is
sealed, and in no other L1 of the cluster (07 R148; 06 Table 6-6; 11 Table 11-2). No L1 holds a line of a live range (06 R135). -/
def State.fillL1 (s : State) (core : Nat) (m : Miss) : State :=
  let cl := core / 4
  let wob := (s.world m.world).wobAt m.tcid (m.va * 128)
  let isSealed : Bool := (wob.map (fun b => b.2.state == 1)).getD false
  let fresh := !s.atHome m.world m.dpa && isDram (m.dpa * 128)
  let s := (s.homeRead m.world (m.dpa * 128) 128 m.msc).toTlb cl m.world m.tcid (m.va * 128)
  let s := if fresh then s.tally m.world 7 1 else s
  if !m.alloc || s.live m.world m.tcid (m.va * 128) (m.dpa * 128) then s
  else
    let s := s.dropL1 (fun n l => n / 4 == cl && l.world == m.world && l.dpa == m.dpa && !(n == core && l.va == m.va && l.tcid == m.tcid))
    let had := (s.coreAt core).hits m.world m.tcid (m.va * 128) false
    let s : State :=
      if isSealed then
        if had then s
        else match wob with
          | some (i, _) => s.onWorld m.world (fun W => { W with wobs := W.wobs.adjust i (fun b => { b with rc := b.rc + 1 }) })
          | none => s
      else { s with lines := s.lines.adjust (lineKey m.world m.dpa) (fun h => h.share cl) }
    s.toL1 core { world := m.world, tcid := m.tcid, va := m.va, dpa := m.dpa, write := m.write, sealed := isSealed }

/-! ### Answers of the links -/

/-- An answer that carries an error: no value is as large. -/
def badAnswer (cause : Nat) (reason : Nat := 0) : Nat := 2 ^ 1100 + 256 * reason + cause

/-- The cause and the reason that an answer carries, if it is an error. -/
def answerBad (x : Nat) : Option Bad := if 2 ^ 1100 ≤ x then some ((x - 2 ^ 1100) % 256, (x - 2 ^ 1100) / 256) else none

/-- Has a set link requests that are not acknowledged, and have its chunks drained (10 R229)? -/
def State.acked (s : State) (t k : Nat) : Bool :=
  !s.requests.any (fun e => match e.2.owner with
    | .set u j _ _ => u == t && j == k
    | _ => false) && !s.drains.any (fun d => d.troupe == t && d.set == k)

/-- Is a lane's request out? -/
def State.asked (s : State) (t k lane : Nat) : Bool :=
  s.requests.any (fun e => match e.2.owner with
    | .set u j l _ => u == t && j == k && l == lane && (match e.2.kind with | .read _ => true | .atomic .. => true | _ => false)
    | _ => false)

/-- Lanes of a near-bank unit's set whose stores still stand in its queue (05 R110). -/
def State.nbStores (s : State) (t k : Nat) (T : Troupe) : Bool :=
  match T.place with
  | .unit n u => ((s.slice n).unit u).queue.any (fun r => r.troupe == t && r.set == k && r.kind == 1)
  | .core _ => false

end Sys2Proof.Machine
end

