-- ==== Sys2Proof/Machine/LoadStore.lean ====
section
/-! DEFINITION. Loads and stores of memory and scratchpad (11 R239-R247; 10 R215, R216, R229, R233; 08 R168-R176). -/

namespace Sys2Proof.Machine

/-- Send the reads and atomics of lanes that go to their targets, as far as MAXOUT lets them out (11 R246, 06 R141). -/
def State.askAll (s : State) (c : Ctx) (xs : List (Nat × Nat × ReqKind)) : State :=
  xs.foldl (fun (s : State) (x : Nat × Nat × ReqKind) =>
    if s.mayRead (s.worldOf c.T) x.2.1 then
      s.send x.2.2 (.set c.t c.k x.1 c.issue.group) (s.worldOf c.T) x.2.1 c.T.launch
    else s) s

/-- What threads that have just asked wait for: nothing where no request could go out, so that they stay ready (07 R149). -/
def State.awaits (s : State) (c : Ctx) (asked : List Nat) (filled : List Nat) : Hold :=
  let ws := (asked.filter (fun j => s.asked c.t c.k j)).map Wake.answer ++ (addAll [] (filled.map (fun va => va / 128 * 128))).map Wake.filled
  if ws.isEmpty then .ready else .until ws

/-- Lanes whose read meets a failing granule. -/
def State.granBad (s : State) (w : Nat) (xs : List (Nat × Nat × Nat)) : List LaneBad :=
  xs.filterMap (fun x => (s.readFault w x.2.2).map (fun e =>
    { lane := x.1, cause := e, reason := 0, addr := x.2.1, info := 0 }))

/-- Reads of lanes are served by their homes, each line or failing granule once (06 R122; 04 R78). -/
def State.homeReads (s : State) (w : Nat) (as : List (Nat × Nat)) (pol : Nat) : State :=
  (addAll [] (as.map (fun x => (x.1 / 64, x.2)))).foldl (fun (s : State) (x : Nat × Nat) => s.homeRead w (x.1 * 64) (min x.2 64) pol) s

/-- Answers that carry errors, as failing lanes. -/
def answersBad (c : Ctx) (lanes : List Nat) (va : Nat → Nat) : List LaneBad :=
  lanes.filterMap (fun j => ((c.S.answers.get? j).bind answerBad).map (fun e =>
    { lane := j, cause := e.1, reason := e.2, addr := va j, info := 0 }))

/-- Drop the answers of lanes, and the marks of lines that missed. -/
def SetState.forget (S : SetState) (lanes : List Nat) : SetState :=
  { S with answers := S.answers.filter (fun e => !lanes.contains e.1), missed := [] }

/-- LD (11 R243, R245, R246). A line of a live range, and under the streaming and the bypass policy every line, is read at its home. -/
def execLd (d a : BitVec 7) (h : BitVec 4) (g : BitVec 3) (m : BitVec 4) (s : State) : Out :=
  stepOp s (.ld d a h g m) (fun c =>
    let L := s.launchOf c.T
    let n := widthOf m.toNat
    let va (j : Nat) := c.va j a
    s.orRaise c (badLanes c.lanes (fun j => s.laneBad L .load j (va j) n)) (fun _ =>
    let dpa (j : Nat) := s.dpaOf L (va j)
    let far (j : Nat) : Bool := s.far L (isSystem c.issue.hints) (va j) (dpa j)
    let (l1, msc) := cacheOf c.issue.hints
    let C := s.coreAt c.T.place.coreNo
    let live (j : Nat) : Bool := s.live L.world L.tcid (va j) (dpa j)
    let hit (j : Nat) : Bool := l1 != 3 && !live j && !s.groupDown (dpa j) && C.hits L.world L.tcid (va j) false
    let err (j : Nat) : Option Nat := C.missErr L.world L.tcid (va j)
    let near (j : Nat) : Bool := live j || hit j || (err j).isSome ||
      (2 ≤ l1 && (!isOutside (dpa j) || (s.copies.get? (lineKey L.world (dpa j / 128))).isSome))
    let asks := c.lanes.filter (fun j => far j && (c.S.answers.get? j).isNone)
    let misses := c.lanes.filter (fun j => !far j && !near j)
    if !asks.isEmpty || !misses.isEmpty then
      let s := s.askAll c ((asks.filter (fun j => !s.asked c.t c.k j)).map (fun j => (j, dpa j, ReqKind.read n)))
      let (s, taken) := s.missAll c (misses.map (fun j => (j, va j, dpa j))) msc (decide (l1 < 2))
      let s := s.onSet c.t c.k (fun S => { S with missed := addAll S.missed (misses.map (fun j => va j / 128)) })
      .next (s.hold c c.mask (s.awaits c asks taken))
    else
      let reads := c.lanes.filter (fun j => !far j && !hit j)
      let errs := (c.lanes.filter (fun j => !far j && !hit j && isOutside (dpa j))).filterMap (fun j => (err j).map (fun e =>
        ({ lane := j, cause := e, reason := 0, addr := va j, info := 0 } : LaneBad)))
      let c0 : Ctx := { c with S := c.S.forget c.lanes }
      let bad := answersBad c (c.lanes.filter far) va ++ errs ++ s.granBad L.world (reads.map (fun j => (j, va j, dpa j)))
      let s1 := (s.onCore c.T.place.coreNo (fun C => C.clearErrs L.world L.tcid (c.lanes.map (fun j => va j / 128)))).homeReads
        L.world (reads.map (fun j => (dpa j, n))) msc
      if s1.lostChunk c then .next s1.endIssue
      else s1.orRaise c0 bad (fun _ =>
      let s1 := s1.samples c 0 ((c.lanes.filter (fun j => !far j)).map va) false
      let bytes (j : Nat) : List Byte :=
        (List.range n).map (fun i =>
          if far j then
            (c.S.chunk.bind (fun k => storeByte k.stores (dpa j + i) (if k.tx.isSome then some j else none))).getD
              (BitVec.ofNat 8 (byteOf (c.S.answers.getD j 0) i))
          else s1.loadByte c.S L.world j (dpa j + i))
      let signed := c.lanes.filter (fun j => l1 != 1 && s.sealState L.world L.tcid (va j) != 1)
      let S := c0.S.reading (signed.map (fun j => dpa j / 128)) (c.lanes.map (fun j => (j, dpa j / 128)))
        (s.unvOf L.world (addAll [] (c.lanes.map (fun j => dpa j / 128))))
      s1.retire { c with S := S } (.ld d a h g m) (fun j => loadRegs m.toNat d.toNat (bytes j)))))

/-- A lane that would write a sealed buffer (06 R137). -/
def State.sealBad (s : State) (L : Launch) (j va : Nat) : Option LaneBad :=
  if s.sealState L.world L.tcid va = 1 then some { lane := j, cause := 0x2D, reason := 1, addr := va, info := 0 } else none

/-- The first failure of a lane that writes: the checks of memory, then a sealed buffer (11 R240). -/
def State.writeBad (s : State) (L : Launch) (j va n : Nat) : Option LaneBad :=
  (s.laneBad L .store j va n).orElse (fun _ => s.sealBad L j va)

/-- What writers of a draining buffer wait for (06 Table 6-6). -/
def State.draining (s : State) (L : Launch) (lanes : List Nat) (va : Nat → Nat) : List Wake :=
  (lanes.filter (fun j => s.sealState L.world L.tcid (va j) == 2)).map (fun j => .unsealed L.world L.tcid (va j))

/-- Has the SCOPE hint release order? -/
def isRelease (hints : List (Nat × BitVec 22)) : Bool := bitAt (scopeOf hints).2 1

/-- ST (11 R243-R247): the bytes enter the set's store queue. -/
def execSt (d a : BitVec 7) (g : BitVec 3) (m : BitVec 4) (s : State) : Out :=
  stepOp s (.st d a g m) (fun c =>
    let L := s.launchOf c.T
    let n := widthOf m.toNat
    let lanes := s.doers c
    let va (j : Nat) := c.va j a
    s.orRaise c (badLanes lanes (fun j => s.writeBad L j (va j) n)) (fun _ =>
    let dpa (j : Nat) := s.dpaOf L (va j)
    let lines := addAll [] (lanes.map (fun j => dpa j / 128))
    let writes := addAll ((c.S.chunk.map (·.writes)).getD []) lines
    if !(s.draining L lanes va).isEmpty then .next (s.hold c c.mask (.until (s.draining L lanes va)))
    else if 128 < writes.length then
      if c.S.inTx then .next (s.fallback c.t c.k 0x04 0).endIssue
      else .next ((s.onSet c.t c.k (fun S => S.blocked false true)).endIssue)
    else
      let sts := lanes.map (fun j =>
        ({ dpa := dpa j, va := va j, bytes := c.storeBytes m.toNat j d, lane := j
           sys := s.atTarget (isSystem c.issue.hints) (dpa j), rel := isSystem c.issue.hints && isRelease c.issue.hints
           l1 := (cacheOf c.issue.hints).1, msc := (cacheOf c.issue.hints).2 } : Store))
      let S := c.S.onChunk (fun k =>
        ({ k with stored := true, writes := writes, stores := k.stores ++ sts, outs := k.outs ++ (sts.filter (fun (x : Store) => x.sys)).map Eff.store }).touch
          (lanes.map (fun j => (j, dpa j / 128, true))))
      ((s.samples c 1 (lanes.map va) true).writeMisses c (lanes.map va)).retire { c with S := S } (.st d a g m) (fun _ => [])))

/-- A lane's scratchpad failure: alignment (11 R240), then 08 R169. -/
def State.spadBad (s : State) (c : Ctx) (j x n : Nat) : Option LaneBad :=
  if x % n != 0 then some { lane := j, cause := 0x29, reason := 0, addr := x, info := 1 }
  else
    match s.spadAt c.t c.T x n with
    | .error r => some { lane := j, cause := 0x28, reason := r, addr := x, info := 0 }
    | .ok _ => none

/-- Where a lane's scratchpad access lies, once its checks have passed. -/
def State.spadOf (s : State) (c : Ctx) (x n : Nat) : Nat × Nat :=
  match s.spadAt c.t c.T x n with
  | .ok p => p
  | .error _ => (c.t, 0)

/-- LDS (11 R243, R244; 08 R168): a lane whose line is empty stalls the instruction, which closes the chunk (10 R214); each such lane waits
for its line, and with a port all of them wait together. -/
def execLds (d a : BitVec 7) (h : BitVec 4) (g : BitVec 3) (m : BitVec 4) (s : State) : Out :=
  let i : Instr := .lds d a h g m
  stepOp s i (fun c =>
    let n := widthOf m.toNat
    let sp (j : Nat) := c.sp j a
    s.orRaise c (badLanes c.lanes (fun j => s.spadBad c j (sp j) n)) (fun _ =>
    let at' (j : Nat) := s.spadOf c (sp j) n
    let uses := c.lanes.map (fun j => ((at' j).1, (at' j).2, (at' j).2 + n, false))
    if s.pending c (meetsAny uses) then .next (s.closeFirst c (meetsAny uses))
    else
      let wake (j : Nat) : Wake := .line (at' j).1 ((at' j).2 / 128)
      let empty := c.lanes.filter (fun j => !(s.lineSeen c.S (at' j).1 ((at' j).2 / 128)).1)
      if !empty.isEmpty then
        .next (s.stall c.t c.k c.mask (majorOf i) (fun j =>
          if i.namesPort then addAll [] (empty.map wake) else if empty.contains j then [wake j] else []))
      else
        let marks := c.lanes.map (fun j => ((at' j).1, (at' j).2 / 128))
        let S := c.S.onChunk (fun k =>
          ({ k with spReads := addAll k.spReads marks }).touch
            (c.lanes.map (fun j => (j, padKey (at' j).1 ((at' j).2 / 128), false))))
        s.retire { c with S := S } i (fun j =>
          loadRegs m.toNat d.toNat ((List.range n).map (fun b => s.loadSpad c.S j (at' j).1 ((at' j).2 + b))))))

/-- STS (11 R243, R244; 08 R171). -/
def execSts (d a : BitVec 7) (g : BitVec 3) (m : BitVec 4) (s : State) : Out :=
  stepOp s (.sts d a g m) (fun c =>
    let n := widthOf m.toNat
    let lanes := s.doers c
    let sp (j : Nat) := c.sp j a
    s.orRaise c (badLanes lanes (fun j => s.spadBad c j (sp j) n)) (fun _ =>
    let at' (j : Nat) := s.spadOf c (sp j) n
    let uses := lanes.map (fun j => ((at' j).1, (at' j).2, (at' j).2 + n, true))
    if s.pending c (meetsAny uses) then .next (s.closeFirst c (meetsAny uses))
    else
      let sts := lanes.map (fun j =>
        ({ troupe := (at' j).1, off := (at' j).2, bytes := c.storeBytes m.toNat j d, lane := j } : SpStore))
      let marks := lanes.map (fun j => ((at' j).1, (at' j).2 / 128))
      let S := c.S.onChunk (fun k =>
        ({ k with stored := true, spStores := k.spStores ++ sts, spWrites := addAll k.spWrites marks }).touch
          (lanes.map (fun j => (j, padKey (at' j).1 ((at' j).2 / 128), true))))
      s.retire { c with S := S } (.sts d a g m) (fun _ => [])))

end Sys2Proof.Machine
end

