-- ==== Sys2Proof/Machine/Sync.lean ====
section
/-! DEFINITION. Atomics, reductions, waits, fences and barriers of the step stream (11 R248-R261), and the write queues of
the homes (06 R128-R135). -/

namespace Sys2Proof.Machine

/-! ### Atomic operations -/

/-- Operation, in the numbers of a samo control word (11 R271), and width of an amo mod value (11 Table 11-3). -/
def amoCode (m : Nat) : Nat × Nat :=
  match m with
  | 0 => (0, 4)
  | 1 => (0, 8)
  | 2 => (4, 4)
  | 3 => (5, 4)
  | 4 => (6, 4)
  | 5 => (7, 4)
  | 6 => (1, 4)
  | 7 => (2, 4)
  | 8 => (3, 4)
  | 9 => (8, 4)
  | 10 => (8, 8)
  | 11 => (9, 4)
  | 12 => (9, 8)
  | _ => (10, 4)

/-- The same for red, whose mod 9 adds 64 bits. -/
def redCode (m : Nat) : Nat × Nat := if m = 9 then (0, 8) else amoCode m

/-- The new value of an atomic (11 R249). -/
def atomicNew (op w old cmp x : Nat) : Nat :=
  let s (v : Nat) := sextNat (8 * w) v
  match op with
  | 0 => (old + x) % 2 ^ (8 * w)
  | 1 => Nat.land old x
  | 2 => Nat.lor old x
  | 3 => Nat.xor old x
  | 4 => if s x < s old then x else old
  | 5 => if x < old then x else old
  | 6 => if s old < s x then x else old
  | 7 => if old < x then x else old
  | 8 => x
  | 9 => if old = cmp then x else old
  | _ => fp32.near (Fp.sum false [fp32.value old, fp32.value x])

/-- Does the operation write? A compare-and-swap whose comparison fails does not. -/
def atomicWrites (op old cmp : Nat) : Bool := op != 9 || old == cmp

/-- Why an atomic at a link target is invalid (11 R251): reason of cause 0x2A. -/
def farAtomicBad (op a : Nat) : Option Nat :=
  if isPool a then some 2 else if op = 0 || op = 8 || op = 9 then none else some 1

/-- Compare value and operand of lane `j` (11 Table 11-3). -/
def Ctx.atomArgs (c : Ctx) (op w j : Nat) (d : BitVec 7) : Nat × Nat :=
  let r (k : Nat) := (c.S.read j (d.toNat + k)).toNat
  let wide (k : Nat) := r k + 2 ^ 32 * r (k + 1)
  if op = 9 then (if w = 8 then (wide 0, wide 2) else (r 0, r 1)) else (0, if w = 8 then wide 0 else r 0)

/-- The registers that an old value gives. -/
def oldRegs (d w old : Nat) : List (Nat × Word) :=
  if w = 8 then pairOut d (BitVec.ofNat 64 old) else [(d, BitVec.ofNat 32 old)]

/-- Lanes of a one-operation chunk wait for their results; the figure's other threads go on. -/
def State.await (s : State) (c : Ctx) (i : Instr) (lanes : List Nat) (d w : Nat) (va : Nat → Nat) : State :=
  let m := maskOf (fun j => lanes.contains j)
  let c' : Ctx := { c with mask := c.mask &&& ~~~ m, act := 0 }
  let S := SetState.retire c' i (fun _ => []) (fun _ th => th) (fun _ => c.next)
  let S := S.holding m .atomic
  s.done c { S with waiting := some { mask := m, dst := d, ahead := i.ahead, next := c.next, got := [], wide := w, vas := lanes.map (fun j => (j, va j)) } }

/-- Lines of reductions that arrive at a home. -/
def redLines (reds : List Red) : List Nat :=
  addAll [] ((reds.filter (fun r => r.range.isNone && !r.sys)).map (fun r => r.dpa / 128))

/-- Entries that chunks in steps 1 to 3 of their commits have set aside at a home for their reductions (06 R129; log 60). -/
def State.setAside (s : State) (h : Nat) : Nat :=
  s.troupes.foldl (fun n (e : Nat × Troupe) => e.2.setTab.foldl (fun n (f : Nat × SetState) =>
    match f.2.closing with
    | some c => (match c.phase with
      | .granting _ | .acking .. => n + ((redLines c.reds).filter (fun l => s.home (s.worldOf e.2) l == h)).length
      | _ => n)
    | none => n) n) 0

/-- Entries of a home's memory-port write queue: each atomic, each line of pending reductions, and what commits have set aside (06
R129, R130). -/
def State.queued (s : State) (h : Nat) : Nat :=
  (s.slice h).atomics.length + (addAll [] ((s.slice h).reds.map (fun r => r.red.dpa / 128))).length + s.setAside h

/-- An atomic arrives at the home of its line. -/
def State.enqueue (s : State) (e : Atomic) : State :=
  { s.onSlice (s.home e.world (e.dpa / 128)) (fun S => { S with atomics := S.atomics ++ [{ e with seq := s.nextId }] })
    with nextId := s.nextId + 1 }

/-- Why an atomic or a reduction of a lane fails as it issues (11 R240, R251, R252): the checks of memory, a sealed buffer, then an
operation that its target does not take. -/
def State.atomicBad (s : State) (L : Launch) (far : Bool) (op j va w : Nat) : Option LaneBad :=
  (s.writeBad L j va w).orElse (fun _ =>
    if far then (farAtomicBad op (s.dpaOf L va)).map (fun r => { lane := j, cause := 0x2A, reason := r, addr := va, info := 0 })
    else none)

/-- Does an atomic with release order wait for the set's earlier effects at targets: at system scope, or treated so (11 R251)? -/
def State.releaseWaits (s : State) (c : Ctx) (far : Bool) : Bool :=
  (isSystem c.issue.hints || far) && isRelease c.issue.hints && !s.acked c.t c.k

/-- Do reductions of committed chunks wait for room at a home? What commits later arrives there after them (06 R129). -/
def State.redsHeld (s : State) (before : List Drain) (h : Nat) : Bool :=
  before.any (fun d => d.outs.any (fun e => match e with
    | .red r => !r.sys && s.home d.world (r.dpa / 128) == h
    | _ => false))

/-- AMO (11 R249, R251, R252). -/
def execAmo (d a : BitVec 7) (h : BitVec 4) (g : BitVec 3) (m : BitVec 4) (s : State) : Out :=
  let i : Instr := .amo d a h g m
  stepOp s i (fun c =>
    let L := s.launchOf c.T
    let (op, w) := amoCode m.toNat
    let lanes := s.doers c
    let va (j : Nat) := c.va j a
    let dpa (j : Nat) := s.dpaOf L (va j)
    let far (j : Nat) := s.far L (isSystem c.issue.hints) (va j) (dpa j)
    s.orRaise c (badLanes lanes (fun j => s.atomicBad L (far j) op j (va j) w)) (fun _ =>
    let nears := lanes.filter (fun j => !far j)
    if lanes.isEmpty then s.retire c i (fun _ => [])
    else if !(s.draining L lanes va).isEmpty then .next (s.hold c c.mask (.until (s.draining L lanes va)))
    else if nears.any (fun j => decide (128 < s.queued (s.home L.world (dpa j / 128)) + nears.length) ||
        s.redsHeld s.drains (s.home L.world (dpa j / 128))) then .next s.endIssue
    else if s.releaseWaits c (lanes.any far) then .next (s.hold c c.mask (.until [.acked]))
    else
      let s1 := lanes.foldl (fun (t : State) (j : Nat) =>
        let (cmp, x) := c.atomArgs op w j d
        if far j then
          t.send (.atomic op w cmp x) (.set c.t c.k j c.issue.group) L.world (dpa j) c.T.launch (va j)
        else
          t.enqueue
            { seq := 0, asker := .lane c.t c.k j, world := L.world, tcid := L.tcid, va := va j, dpa := dpa j, op := op, width := w
              cmp := cmp, val := x }) ((s.samples c 2 (nears.map va) true).writeMisses c (nears.map va))
      .next (s1.await c i lanes d.toNat w va)))

/-- A value arrives for a lane that waits; when every lane has its value the threads take their results and go on. -/
def SetState.answer (S : SetState) (now j v : Nat) : SetState :=
  match S.waiting with
  | none => S
  | some q =>
    let got := q.got.set j v
    if (lanesOf q.mask).all (fun k => (got.get? k).isSome) then
      { S.onLanes q.mask (fun k th =>
          { th.write q.ahead (oldRegs q.dst q.wide (got.getD k 0)) with
          pc := q.next, hold := .ready, since := now, aged := false })
        with waiting := none }
    else { S with waiting := some { q with got := got } }

/-- Does an atomic belong to a set? -/
def Atomic.of (e : Atomic) (t k : Nat) : Bool :=
  match e.asker with
  | .lane u i _ => u == t && i == k
  | .cue _ => false

/-- The atomics of a set's `amo` that stand in write queues, with their slices. -/
def State.nearAtomics (s : State) (t k : Nat) : List (Nat × Atomic) :=
  s.slices.flatMap (fun (x : Nat × Slice) => (x.2.atomics.filter (·.of t k)).map (fun a => (x.1, a)))

/-- Is a request the atomic of one lane of a set's `amo`? -/
def Request.amoOf (r : Request) (t k : Nat) : Bool :=
  match r.owner, r.kind with
  | .set u i lane _, .atomic .. => u == t && i == k && decide (lane < 32)
  | _, _ => false

/-- The lane that a request serves. -/
def Request.lane (r : Request) : Nat :=
  match r.owner with
  | .set _ _ lane _ => lane
  | _ => 32

/-- The atomics of a set's `amo` that have gone to targets. -/
def State.farAtomics (s : State) (t k : Nat) : List (Nat × Request) := s.requests.filter (fun e => e.2.amoOf t k)

/-- Neither queue nor link holds an atomic of a set any more. -/
def State.dropAtomics (s : State) (t k : Nat) : State :=
  { s with
    slices := s.slices.map (fun (e : Nat × Slice) => (e.1, { e.2 with atomics := e.2.atomics.filter (fun x => !x.of t k) }))
    requests := s.requests.filter (fun e => !e.2.amoOf t k) }

/-- An atomic fails precisely at its instruction: no register is written, and its other lanes are withdrawn (10 R495, 11 R240). -/
def State.atomicFails (s : State) (t k : Nat) (fs : List LaneBad) : State :=
  match s.setAt? t k, report fs with
  | some S, some (m, f) =>
    match S.waiting with
    | some q =>
      let pc := (S.lane f.lane).pc
      let tr := s.record t
        { cause := f.cause, reason := f.reason, set := k, low := f.lane, mask := q.mask, fail := m, pc := pc, addr := f.addr
          after := q.next }
      ((s.dropAtomics t k).dropReads t k).onSet t k (fun _ => { S.trap q.mask pc tr with waiting := none })
    | none => s
  | _, _ => s

/-- Give an atomic's old value to who asked, or to a cue stream its failure. -/
def State.giveOld (s : State) (who : Asker) (v : Nat) : State :=
  match who with
  | .lane t k j => s.onSet t k (fun S => S.answer s.cycle.toNat j v)
  | .cue t => s.onCue t (fun C => { C with answers := C.answers.set 0 v })

/-- Why an atomic fails at its home: its granule, or a buffer that has been sealed since it was sent (10 R495, 11 R252; 06 R137). -/
def State.performBad (s : State) (e : Atomic) : Option Bad :=
  if s.sealState e.world e.tcid e.va = 1 then some (0x2D, 1) else (s.readFault e.world e.dpa).map (fun c => (c, 0))

/-- An atomic is performed: read, changed and written in one step; its line goes to the sync store (06 R128, R129). -/
def State.performAtomic (s : State) (e : Atomic) : State :=
  let line := e.dpa / 128
  let s := s.homeRead e.world e.dpa e.width 0
  let old := s.seenNat e.world e.dpa e.width
  let s :=
    if atomicWrites e.op old e.cmp then
      ((s.homeWrite e.world (runTab e.dpa (leBytes e.width (atomicNew e.op e.width old e.cmp e.val)))).1).expose e.world [line]
    else s
  (s.toSync e.world line).giveOld e.asker old

/-- An atomic is performed at its target, where a home that holds the line follows it: the state, and the old value. -/
def State.performFar (s : State) (r : Request) (op w cmp x : Nat) : State × Nat :=
  let old := leNat (s.mem.readBytes r.dpa w)
  let new := leBytes w (atomicNew op w old cmp x)
  (if atomicWrites op old cmp then
      ((({ s with mem := s.mem.writeBytes r.dpa new } : State).refresh r.world r.dpa new).expose r.world [r.dpa / 128])
    else s, old)

/-- Has what arrived before an atomic in its queue, but for others of its own asker, gone? -/
def Slice.first (S : Slice) (e : Atomic) : Bool :=
  !S.atomics.any (fun a => decide (a.seq < e.seq) && match a.asker, e.asker with
    | .lane t k _, .lane u i _ => !(t == u && k == i)
    | _, _ => true) && !S.reds.any (fun r => decide (r.seq < e.seq))

/-- May an atomic be performed at its home now? Data under an unfinished integrity check and a draining buffer are waited for (10 R232,
06 R137). -/
def State.nearReady (s : State) (h : Nat) (e : Atomic) : Bool :=
  (s.slice h).first e && !s.lineBusy e.world (e.dpa / 128) && !s.anyUnverified e.world [e.dpa / 128] &&
    s.sealState e.world e.tcid e.va != 2

/-- The state of the buffer that a request's atomic meets (11 R252). -/
def State.sealFor (s : State) (r : Request) : Nat :=
  s.sealState r.world (((s.launches.get? r.launch).map (·.tcid)).getD 0) r.va

/-- May an atomic that its target has answered be performed? -/
def State.farReady (s : State) (r : Request) : Bool :=
  r.answered.isSome && !s.lineBusy r.world (r.dpa / 128) && s.sealFor r != 2

/-- May the lanes of a set's `amo` be performed? They are checked together, before any of them takes effect (11 R240), so that they are
performed in one turn, once each of them could be: an order of their events that 11 R249 allows (DESIGN CHOICE, log 71). -/
def State.amoReady (s : State) (t k : Nat) : Bool :=
  (s.nearAtomics t k).all (fun e => s.nearReady e.1 e.2) && (s.farAtomics t k).all (fun e => s.farReady e.2)

/-- The failing lanes of an `amo`: their granules, buffers and links (10 R495; 11 R252; 07 R145). -/
def State.amoFails (s : State) (t k : Nat) : List LaneBad :=
  (s.nearAtomics t k).filterMap (fun e => match e.2.asker with
    | .lane _ _ j => (s.performBad e.2).map (fun b => { lane := j, cause := b.1, reason := b.2, addr := e.2.va, info := 0 })
    | .cue _ => none) ++
  (s.farAtomics t k).filterMap (fun e =>
    let bad (c r : Nat) : Option LaneBad := some { lane := e.2.lane, cause := c, reason := r, addr := e.2.va, info := 0 }
    match e.2.answered with
    | some 0 | none => if s.sealFor e.2 = 1 then bad 0x2D 1 else none
    | some c => bad c 0)

/-- The lanes of a set's `amo` take effect in ascending order (11 R249), or none does. -/
def State.performAmo (s : State) (t k : Nat) : State :=
  let nears := (s.nearAtomics t k).map (·.2)
  let fars := (s.farAtomics t k).map (·.2)
  let fs := s.amoFails t k
  if !fs.isEmpty then
    ((nears.filter (fun e => (s.performBad e).isSome)).foldl (fun (s : State) e => s.serve e.world e.dpa e.width) s).atomicFails t k fs
  else
    (List.range 32).foldl (fun (s : State) j =>
      match nears.find? (fun e => e.asker == .lane t k j), fars.find? (fun r => r.lane == j) with
      | some e, _ => s.performAtomic e
      | none, some r => (match r.kind with
        | .atomic op w cmp x =>
          let (s, old) := s.performFar r op w cmp x
          s.giveOld (.lane t k j) old
        | _ => s)
      | none, none => s) (s.dropAtomics t k)

/-- HOME_ATOMIC_PERFORM: the head of a slice's memory-port write queue (06 R129, 11 R249). -/
def execHomeAtomicPerform (k : Nat) (s : State) : Out :=
  match (s.slice k).atomics with
  | [] => .next s
  | e :: rest =>
    match e.asker with
    | .lane t i _ => .next (if s.amoReady t i then s.performAmo t i else s)
    | .cue _ =>
      if !s.nearReady k e then .next s
      else
        let gone (s : State) : State := s.onSlice k (fun S => { S with atomics := rest })
        match s.performBad e with
        | some b => .next ((gone (s.serve e.world e.dpa e.width)).giveOld e.asker (badAnswer b.1 b.2))
        | none => .next ((gone s).performAtomic e)

/-! ### Reductions -/

/-- Does a live range accept a red (06 Table 6-4)? -/
def rangeTakes (fmt m : Nat) : Bool :=
  match fmt with
  | 0 => m == 0
  | 1 => m == 1
  | _ => m == 0xD || m == 9

/-- Does an effect stand for a reduction at a home? -/
def Eff.nearRed : Eff → Bool
  | .red r => !r.sys
  | _ => false

/-- RED (11 R250, R251; 06 R132). One with release order waits among the effects at targets for those before it, and so do the reductions
behind it. -/
def execRed (d a : BitVec 7) (g : BitVec 3) (m : BitVec 4) (s : State) : Out :=
  stepOp s (.red d a g m) (fun c =>
    let L := s.launchOf c.T
    let W := s.world L.world
    let (op, w) := redCode m.toNat
    let lanes := s.doers c
    let va (j : Nat) := c.va j a
    let dpa (j : Nat) := s.dpaOf L (va j)
    let range (j : Nat) := W.rangeAt L.tcid (va j)
    let far (j : Nat) : Bool := (range j).isNone && s.atTarget (isSystem c.issue.hints) (dpa j)
    s.orRaise c (badLanes lanes (fun j =>
        match range j with
        | some r =>
          let R := W.rngs.getD r Rng0
          (s.laneBad L .store j (va j) w).orElse (fun _ =>
            if rangeTakes R.fmt m.toNat && va j % R.width == 0 then none
            else some { lane := j, cause := 0x2C, reason := 0, addr := va j, info := 0 })
        | none => s.atomicBad L (far j) op j (va j) w)) (fun _ =>
    if !(s.draining L lanes va).isEmpty then .next (s.hold c c.mask (.until (s.draining L lanes va)))
    else
      let reds := lanes.map (fun j =>
        ({ lane := j, dpa := dpa j, va := va j, op := op, width := w, val := (c.atomArgs op w j d).2, sys := far j
           rel := (isSystem c.issue.hints || far j) && isRelease c.issue.hints, range := range j } : Red))
      let S := c.S.onChunk (fun k =>
        ({ k with
           reds := k.reds ++ reds
           outs := k.outs ++ (reds.filter (fun (r : Red) => r.range.isNone && (r.sys || r.rel || k.outs.any Eff.nearRed))).map Eff.red }).touch
          (lanes.map (fun j => (j, dpa j / 128, true))))
      let vas := (lanes.filter (fun j => !far j)).map va
      ((s.samples c 3 vas true).writeMisses c vas).retire { c with S := S } (.red d a g m) (fun _ => [])))

/-- The value that a contribution adds to its element, and OVF and NAN (06 R132): an FP32 operand is converted at the
range's scale. -/
def contribution (R : Rng) (red : Red) : Nat × Bool × Bool :=
  if red.op = 10 then
    match fp32.value red.val with
    | .nan => (0, false, true)
    | .inf n => (wrap 64 (if n then -(2 ^ 63) else 2 ^ 63 - 1), true, false)
    | .num n m e =>
      let t : Int := (roundUnits 0 n 0 m (e - R.scale) 0 : Nat)
      let i : Int := if n then -t else t
      (wrap 64 (sat i (-(2 ^ 63)) (2 ^ 63 - 1)), decide (i < -(2 ^ 63)) || decide (2 ^ 63 - 1 < i), false)
  else (red.val, false, false)

/-- The combining buffer holds 32 lines: a partial leaves it for its home to make room (06 R134 case 1). -/
def State.roomFor (s : State) (core line : Nat) : State :=
  let ps := (s.coreAt core).partials
  if (ps.get? line).isSome || ps.length < 32 then s
  else
    match ps.head? with
    | some (l, p) => (s.addPartial p).onCore core (fun C => { C with partials := C.partials.del l })
    | none => s

/-- A contribution enters its core's partial at the commit of its chunk (06 R134). -/
def State.contribute (s : State) (core w r : Nat) (red : Red) : State :=
  let R := (s.world w).rngs.getD r Rng0
  let (x, ovf, nan) := contribution R red
  let line := red.dpa / 128
  let s := s.roomFor core line
  let s := s.onCore core (fun C =>
    let p := (C.partials.get? line).getD { world := w, range := r, sums := [] }
    let p' : Partial := { p with sums := p.sums.set red.dpa ((p.sums.getD red.dpa 0 + x) % 2 ^ (8 * R.width)) }
    { C with partials := C.partials.set line p' })
  s.onWorld w (fun W => { W with rngs := W.rngs.adjust r (fun R => { R with ovf := R.ovf || ovf, nan := R.nan || nan }) })

/-- PARTIAL_SEND: a partial goes to its home (06 R134). -/
def execPartialSend (core line : Nat) (s : State) : Out :=
  match (s.coreAt core).partials.get? line with
  | some p => .next ((s.addPartial p).onCore core (fun C => { C with partials := C.partials.del line }))
  | none => .next s

/-- A red is applied at its home (10 R495): one to a failing granule is not, and the trap goes to the set. -/
def State.applyRed (s : State) (e : RedAt) : State :=
  match s.readFault e.world e.red.dpa with
  | some cause =>
    (s.serve e.world e.red.dpa e.red.width).lateTrap e.launch e.troupe e.set
      { cause := cause, set := e.set, pc := e.pc, addr := e.red.dpa / 64 * 64 }
  | none =>
    let s := s.homeRead e.world e.red.dpa e.red.width 0
    let old := s.seenNat e.world e.red.dpa e.red.width
    let new := atomicNew e.red.op e.red.width old 0 e.red.val
    ((s.homeWrite e.world (runTab e.red.dpa (leBytes e.red.width new))).1).expose e.world [e.red.dpa / 128]

/-- Reds of one entry: those of a line that arrived before the next atomic on it (06 R130). -/
def Slice.entryReds (S : Slice) (line : Nat) : List RedAt :=
  S.reds.filter (fun r => r.red.dpa / 128 == line && S.atomics.all (fun a => a.dpa / 128 != line || decide (r.seq < a.seq)))

/-- RED_APPLY: the first entry in arrival order at a home, with the reds that have merged into it (06 R129, R130). -/
def execRedApply (k : Nat) (s : State) : Out :=
  match (s.slice k).reds with
  | [] => .next s
  | e :: _ =>
    let line := e.red.dpa / 128
    if s.lineBusy e.world line || (s.slice k).atomics.any (fun a => decide (a.seq < e.seq)) || s.anyUnverified e.world [line] then .next s
    else
      let mine := (s.slice k).entryReds line
      .next (mine.foldl (fun (s : State) r => s.applyRed r)
        (s.onSlice k (fun S => { S with reds := S.reds.filter (fun r => !mine.contains r) })))

/-! ### Waits -/

/-- Lanes of a wait whose condition does not hold: all of them where the instruction names a port, since one issue serves the set
(09 R202, R203). -/
def notYet (i : Instr) (lanes : List Nat) (yes : Nat → Bool) : List Nat :=
  if i.namesPort && !lanes.all yes then lanes else lanes.filter (fun j => !yes j)

/-- The threads of a wait that is done go on, and the others wait, each in its own way; a set whose threads all wait stays as it is. -/
def State.waitOut (s : State) (c : Ctx) (i : Instr) (no : List Nat) (h : Nat → Hold) : Out :=
  let c' := c.without no h
  if c.lanes.length = no.length && !no.isEmpty then .next (s.onSet c.t c.k (fun _ => c'.S)).endIssue else s.retire c' i (fun _ => [])

/-- WAIT (11 R253, R254): lanes whose word meets the condition go on, the others wait. `sp` selects scratchpad. Data under an
unfinished integrity check is waited for (10 R232). -/
def execWait (d a : BitVec 7) (g : BitVec 3) (sp : BitVec 1) (m : BitVec 3) (s : State) : Out :=
  let i : Instr := .wait d a g sp m
  stepOp s i (fun c =>
    let L := s.launchOf c.T
    let holds (j : Nat) (x : Nat) : Bool := waitCond m.toNat (BitVec.ofNat 32 x) (c.rd j d)
    if sp = 1 then
      s.orRaise c (badLanes c.lanes (fun j => s.spadBad c j (c.sp j a) 4)) (fun _ =>
      let at' (j : Nat) := s.spadOf c (c.sp j a) 4
      let yes (j : Nat) : Bool := s.lineFull (at' j).1 (at' j).2 &&
        holds j (leNat ((List.range 4).map (fun b => s.loadSpad c.S j (at' j).1 ((at' j).2 + b))))
      let no := notYet i c.lanes yes
      let wake (j : Nat) : Wake := .pad (at' j).1 (at' j).2 m.toNat (c.rd j d)
      s.waitOut c i no (fun j => .until (if i.namesPort then (no.filter (fun j => !yes j)).map wake else [wake j])))
    else
      let va (j : Nat) := c.va j a
      let dpa (j : Nat) := s.dpaOf L (va j)
      let far (j : Nat) := s.far L (isSystem c.issue.hints) (va j) (dpa j)
      s.orRaise c (badLanes c.lanes (fun j => s.laneBad L .load j (va j) 4)) (fun _ =>
      let nears := c.lanes.filter (fun j => !far j)
      let bad := answersBad c (c.lanes.filter far) va ++ s.granBad L.world (nears.map (fun j => (j, va j, dpa j)))
      let s1 := s.homeReads L.world (nears.map (fun j => (dpa j, 4))) 0
      s1.orRaise { c with S := c.S.forget c.lanes } bad (fun _ =>
      let asks := c.lanes.filter (fun j => far j && (c.S.answers.get? j).isNone)
      let s1 := s1.askAll c ((asks.filter (fun j => !s.asked c.t c.k j)).map (fun j => (j, dpa j, ReqKind.read 4)))
      let yes (j : Nat) : Bool :=
        if far j then !s.anyUnverified L.world [dpa j / 128] && ((c.S.answers.get? j).map (holds j)).getD false
        else !s.anyUnverified L.world [dpa j / 128] && holds j (s1.seenNat L.world (dpa j) 4)
      let no := notYet i c.lanes yes
      let wakes := (no.filter (fun j => !far j && !yes j)).map (fun j => Wake.word (dpa j) m.toNat (c.rd j d))
      let how (j : Nat) : Hold :=
        if asks.contains j then .until [.answer j] else if far j then .poll else .until [.word (dpa j) m.toNat (c.rd j d)]
      let hold (j : Nat) : Hold :=
        if !i.namesPort then how j
        else if !asks.isEmpty then .until (asks.map Wake.answer)
        else if (no.any (fun j => far j && !yes j)) then .poll else .until wakes
      let c1 : Ctx := { c with S := c.S.forget (c.lanes.filter (fun j => far j && (!no.contains j || !yes j))) }
      s1.waitOut c1 i no hold)))

/-- SYSTEM_WAIT_POLL: lanes of a system-scope wait read their targets again (11 R254). -/
def execSystemWaitPoll (t k : Nat) (s : State) : Out :=
  match s.setAt? t k with
  | some S =>
    let m := maskOf (fun j => (S.lane j).hold == .poll && !s.asked t k j && (S.answers.get? j).isNone)
    .next (s.onSet t k (fun S => S.onLanes m (fun _ th => { th with hold := .ready, since := s.cycle.toNat })))
  | none => .next s

/-- FENCE (11 R256; 05 R110): at system scope on a core, every earlier system-scope effect of the set is acknowledged; on a
near-bank unit a release waits for the unit's stores. -/
def execFence (g : BitVec 3) (s : State) : Out :=
  stepOp s (.fence g) (fun c =>
    let order := (scopeOf c.issue.hints).2
    if c.act = 0 then s.retire c (.fence g) (fun _ => [])
    else if c.T.place.isUnit then
      if (order = 0 || bitAt order 1) && s.nbStores c.t c.k c.T then .next (s.hold c c.mask (.until [.nbStores]))
      else s.retire c (.fence g) (fun _ => [])
    else if isSystem c.issue.hints && !s.acked c.t c.k then .next (s.hold c c.mask (.until [.acked]))
    else s.retire c (.fence g) (fun _ => []))

/-! ### Barriers -/

/-- A lane's barrier object (11 R261): the lease check, then the object, then checks 2 to 6. -/
def State.barCheck (s : State) (L : Launch) (k : Kind) (j va : Nat) : Option LaneBad :=
  let bad (cause reason : Nat) : Option LaneBad := some { lane := j, cause := cause, reason := reason, addr := va, info := 0 }
  match s.leaseOf L k va with
  | .error e => bad e.1 e.2
  | .ok l =>
    let a := (l.page va).dpa + va % 4096
    if va % 32 != 0 || isOutside a || s.computeCapable a then bad 0x60 1
    else
      (s.pageBad k va (l.page va)).bind (fun e => bad e.1 e.2)

/-- Then its granule. -/
def State.barBad (s : State) (L : Launch) (k : Kind) (j va : Nat) : Option LaneBad :=
  (s.barCheck L k j va).orElse (fun _ => (s.readFault L.world (s.dpaOf L va)).map (fun c =>
    { lane := j, cause := c, reason := 0, addr := va, info := 0 }))

/-- May no arrival be made at an object (11 R259)? -/
def State.barInvalid (s : State) (w a : Nat) : Bool :=
  let count := s.seenNat w a 4
  let expected := s.seenNat w (a + 4) 4
  expected == 0 || decide (expected ≤ count) || s.seenNat w (a + 12) 20 != 0

/-- One arrival: the generation it returns, and the state. -/
def State.arrive (s : State) (w a : Nat) : State × Nat :=
  let count := s.seenNat w a 4 + 1
  let expected := s.seenNat w (a + 4) 4
  let gen := s.seenNat w (a + 8) 4
  let done := count = expected
  let bytes := leBytes 4 (if done then 0 else count) ++ leBytes 4 expected ++ leBytes 4 ((if done then gen + 1 else gen) % 2 ^ 32)
  ((((s.homeWrite w (runTab a bytes)).1).expose w [a / 128]).toSync w (a / 128), gen)

/-- BAR_ARRIVE (11 R259; 05 R110). -/
def execBarArrive (d a : BitVec 7) (h : BitVec 4) (g : BitVec 3) (s : State) : Out :=
  let i : Instr := .barArrive d a h g
  stepOp s i (fun c =>
    let L := s.launchOf c.T
    let lanes := s.doers c
    let va (j : Nat) := c.va j a
    let dpa (j : Nat) := s.dpaOf L (va j)
    let fails (j : Nat) : Option LaneBad := s.barBad L .store j (va j)
    let s := s.homeReads L.world ((lanes.filter (fun j => (s.barCheck L .store j (va j)).isNone)).map (fun j => (dpa j, 32))) 0
    s.orRaise c (badLanes lanes (fun j => (fails j).orElse (fun _ => (s.sealBad L j (va j)).orElse (fun _ =>
        if s.barInvalid L.world (dpa j) then some { lane := j, cause := 0x60, reason := 2, addr := va j, info := 0 }
        else none)))) (fun _ =>
    if lanes.isEmpty then s.retire c i (fun _ => [])
    else if c.T.place.isUnit && s.nbStores c.t c.k c.T then .next (s.hold c c.mask (.until [.nbStores]))
    else if !(s.draining L lanes va).isEmpty then .next (s.hold c c.mask (.until (s.draining L lanes va)))
    else if s.drains.any (fun d => d.troupe == c.t && d.set == c.k) then .next (s.hold c c.mask (.until [.drained]))
    else if lanes.any (fun j => s.lineBusy L.world (dpa j / 128)) then .next s.endIssue
    else if isSystem c.issue.hints && isRelease c.issue.hints && !s.acked c.t c.k then .next (s.hold c c.mask (.until [.acked]))
    else
      let (s1, gens) := lanes.foldl (fun (p : State × Tab Nat) (j : Nat) =>
        let (s, gen) := p.1.arrive L.world (dpa j)
        (s, p.2 ++ [(j, gen)])) (s, ([] : Tab Nat))
      s1.retire c i (fun j => if lanes.contains j then [(d.toNat, BitVec.ofNat 32 (gens.getD j 0))] else [])))

/-- BAR_WAIT (11 R260): lanes whose generation has changed go on. -/
def execBarWait (d a : BitVec 7) (g : BitVec 3) (s : State) : Out :=
  let i : Instr := .barWait d a g
  stepOp s i (fun c =>
    let L := s.launchOf c.T
    let va (j : Nat) := c.va j a
    let dpa (j : Nat) := s.dpaOf L (va j)
    let fails (j : Nat) : Option LaneBad := s.barBad L .load j (va j)
    let s := s.homeReads L.world ((c.lanes.filter (fun j => (s.barCheck L .load j (va j)).isNone)).map (fun j => (dpa j + 8, 4))) 0
    s.orRaise c (badLanes c.lanes fails) (fun _ =>
    let s := c.lanes.foldl (fun (s : State) (j : Nat) => s.toSync L.world (dpa j / 128)) s
    let yes (j : Nat) : Bool := BitVec.ofNat 32 (s.seenNat L.world (dpa j + 8) 4) != c.rd j d
    let no := notYet i c.lanes yes
    let wake (j : Nat) : Wake := .word (dpa j + 8) 1 (c.rd j d)
    s.waitOut c i no (fun j => .until (if i.namesPort then (no.filter (fun j => !yes j)).map wake else [wake j]))))

end Sys2Proof.Machine
end

