-- ==== Sys2Proof/Machine/Tx.lean ====
section
/-! DEFINITION. Transactions (10 R233-R236, 11 R262-R265), write-once buffers (11 R266, 06 R137) and the cache operations on
outside lines (11 R268, R269). -/

namespace Sys2Proof.Machine

/-- The target of an SB or CB word, with its hint (02 R32, R39). -/
def sbTarget (u : Issue) (o : BitVec 19) : Int := (u.word : Int) + 4 * immS u.hints 19 o.toNat

/-- TX_BEG (11 R262): the chunk just opened is the transaction. -/
def execTxBeg (o : BitVec 19) (s : State) : Out :=
  stepOp s (.txBeg o) (fun c =>
    let S := c.S.onChunk (fun k => { k with tx := some (wrap 32 (sbTarget c.issue o)) })
    s.retire { c with S := { S with txCode := 0 } } (.txBeg o) (fun _ => []))

/-- The lanes that succeed at the end of a transaction, by the lines that each touched (10 R234). -/
def txWinners (touched : List (Nat × Nat × Bool)) (lanes : List Nat) : List Nat :=
  lanes.foldl (fun win j =>
    let mine := touched.filter (fun e => e.1 == j)
    let clash := touched.any (fun e => win.contains e.1 && mine.any (fun f => f.2.1 == e.2.1 && (f.2.2 || e.2.2)))
    if clash then win else win ++ [j]) []

/-- What is left of an effect at a target when only some lanes of a transaction succeed (10 R234). -/
def Eff.ofLanes (win : List Nat) : Eff → Bool
  | .store x => win.contains x.lane
  | .red x => win.contains x.lane
  | .flush _ => true

/-- TX_END (11 R263, 10 R234): the chunk stays a transaction until it commits (R235). -/
def execTxEnd (p : BitVec 5) (k : BitVec 2) (s : State) : Out :=
  stepOp s (.txEnd p k) (fun c =>
    if !c.S.inTx then .next (s.raise c c.mask 0x62 0 0 0)
    else
      let win := txWinners ((c.S.chunk.map (·.touched)).getD []) c.lanes
      let S := c.S.onChunk (fun q =>
        let sts := q.stores.filter (fun e => win.contains e.lane)
        { q with
          stores := sts, spStores := q.spStores.filter (fun e => win.contains e.lane)
          reds := q.reds.filter (fun r => win.contains r.lane), outs := q.outs.filter (Eff.ofLanes win)
          writes := q.writes.filter (fun l => sts.any (fun e => e.dpa / 128 == l))
          spWrites := q.spWrites.filter (fun e => (q.spStores.filter (fun x => win.contains x.lane)).any
            (fun x => x.troupe == e.1 && x.off / 128 == e.2) || q.fe.any (fun x => x.troupe == e.1 && x.line == e.2)) })
      let S := SetState.retire { c with S := S } (.txEnd p k) (fun _ => [])
        (fun j th => th.combine p.toNat k.toNat (!win.contains j)) (fun _ => c.next)
      .next (s.done c S.close))

/-- TX_ABORT (11 R264). -/
def execTxAbort (i : BitVec 8) (g : BitVec 3) (s : State) : Out :=
  stepOp s (.txAbort i g) (fun c =>
    if c.act = 0 then s.retire c (.txAbort i g) (fun _ => [])
    else if c.S.inTx then .next (s.fallback c.t c.k 0x01 i.toNat).endIssue
    else .next (s.raise c c.act 0x62 0 0 0))

/-! ### Write-once buffers -/

/-- The pages of a range of bytes. -/
def pagesOf (va len : Nat) : List Nat :=
  (List.range ((va % 4096 + len + 4095) / 4096)).map (fun i => if i = 0 then va else va / 4096 * 4096 + i * 4096)

/-- The first failing check of a range accessed as a write, checks 1 to 4 of 07 Table 7-6 in their order: the whole range lies in one
resident lease that the launch declares rw. -/
def State.sealRangeBad (s : State) (L : Launch) (va len : Nat) : Option (Nat × Nat) :=
  let cs := if va < 2 ^ 48 then s.covering L va else []
  match cs.find? (fun e => e.1.rw && !e.2.streamed && e.2.covers (va + len - 1)) with
  | none => some (((pagesOf va len).findSome? (fun x => match s.leaseOf L .store x with
    | .error e => some e
    | .ok _ => none)).getD (0x20, 1))
  | some (_, l) =>
    let any (f : Page → Bool) : Bool := (pagesOf va len).any (fun x => f (l.page x))
    if any (fun p => !p.w) then some (0x22, 0) else if any (·.cow) then some (0x23, 0)
    else if any (·.p) then some (0x21, 0) else none

/-- Does a range overlap a buffer that is not free? -/
def World.wobClash (W : World) (tcid base len : Nat) : Bool :=
  W.wobs.any (fun e => e.2.state != 0 && e.2.tcid == tcid &&
    overlaps base (base + len) (e.2.base * 128) ((e.2.base + e.2.len) * 128))

/-- The lowest free entry of the 64. -/
def World.freeWob (W : World) : Option Nat := (List.range 64).find? (fun i => (W.wobs.getD i Wob0).state == 0)

/-- Sealed copies of a draining buffer leave every L1; with none outstanding the entry is free (06 Table 6-6). -/
def State.drainWob (s : State) (w i : Nat) : State :=
  let b := (s.world w).wobs.getD i Wob0
  let mine (l : L1Line) : Bool :=
    l.sealed && l.world == w && l.tcid == b.tcid && decide (b.base ≤ l.va) && decide (l.va < b.base + b.len)
  let held := s.cores.foldl (fun n (e : Nat × Core) => n + (e.2.l1.filter mine).length) 0
  let s : State := { s with cores := s.cores.map (fun (e : Nat × Core) =>
    (e.1, { e.2 with l1 := e.2.l1.filter (fun l => !mine l) })) }
  s.onWorld w (fun W => { W with wobs := W.wobs.adjust i (fun b =>
    let rc := b.rc - held
    { b with rc := rc, state := if rc = 0 then 0 else 2 }) })

/-- A seal or unseal takes effect (06 R137): reason of cause 0x2D when it fails, and then nothing is registered. -/
def State.sealNow (s : State) (w tcid l base len : Nat) : Except Nat State :=
  let W := s.world w
  if len = 0 then
    match W.wobs.find? (fun e => e.2.state == 1 && e.2.tcid == tcid && e.2.base * 128 == base) with
    | some (i, _) => .ok (s.drainWob w i)
    | none => .ok s
  else if W.wobClash tcid base len then .error 3
  else
    match W.freeWob with
    | none => .error 2
    | some i =>
      let b : Wob := { state := 1, base := base / 128, len := len / 128, rc := 0, tcid := tcid, launch := l }
      .ok (s.onWorld w (fun W => { W with wobs := W.wobs.set i b }))

/-- A seal or unseal that cannot fail any more takes effect. -/
def State.sealOr (s : State) (w tcid l : Nat) (e : Nat × Nat) : State :=
  match s.sealNow w tcid l e.1 e.2 with
  | .ok t => t
  | .error _ => s

/-- The seals of a drain take effect (06 R137). -/
def State.sealDrain (s : State) (d : Drain) : State :=
  d.seals.foldl (fun (s : State) e => s.sealOr d.world (((s.launches.get? d.launch).map (·.tcid)).getD 0) d.launch e) s

/-- The state that committed seals lead to: a later seal is checked against them (06 R137). -/
def State.withSeals (s : State) : State := s.drains.foldl State.sealDrain s

/-- SEAL (11 R266): checked at execution, registered at commit; after a commit that failed, the reason is raised here. -/
def execSeal (d a : BitVec 7) (g : BitVec 3) (s : State) : Out :=
  stepOp s (.seal d a g) (fun c =>
    let L := s.launchOf c.T
    let lanes := s.doers c
    let va (j : Nat) := c.va j a
    let len (j : Nat) := (c.rd j d).toNat
    let prior := (c.S.chunk.map (·.seals)).getD []
    let one (s : State) (e : Nat × Nat) : State := s.sealOr L.world L.tcid c.T.launch e
    let errs : Tab Nat := if c.S.retry = 0 then [] else
      (lanes.foldl (fun (p : State × Tab Nat) j =>
        match p.1.sealNow L.world L.tcid c.T.launch (va j) (len j) with
        | .ok t => (t, p.2)
        | .error r => (p.1, p.2 ++ [(j, r)])) (prior.foldl one s.withSeals, [])).2
    s.orRaise c (badLanes lanes (fun j =>
      let bad (cause reason : Nat) : Option LaneBad :=
        some { lane := j, cause := cause, reason := reason, addr := va j, info := 0 }
      if va j % 128 != 0 || len j % 128 != 0 then bad 0x2D 3
      else
        match s.sealRangeBad L (va j) (max 1 (len j)) with
        | some e => bad e.1 e.2
        | none => (errs.get? j).bind (fun r => bad 0x2D r))) (fun _ =>
    let S := c.S.onChunk (fun k => { k with seals := k.seals ++ lanes.map (fun j => (va j, len j)) })
    s.retire { c with S := S } (.seal d a g) (fun _ => [])))

/-! ### Outside lines -/

/-- The first failing check of the lines that a lane names, each as a read: check 1 of every line comes first (11 R240, R268). -/
def State.linesBad (s : State) (L : Launch) (j va n : Nat) : Option LaneBad :=
  let fs := (List.range n).filterMap (fun i => s.laneBad L .load j (va + 128 * i) 128)
  (fs.find? (fun f => f.cause == 0x20)).orElse (fun _ => fs.head?)

/-- Device lines of the lanes' addresses. -/
def State.namedLines (s : State) (L : Launch) (lanes : List Nat) (va : Nat → Nat) (n : Nat) : List Nat :=
  addAll [] (lanes.flatMap (fun j => (List.range n).map (fun i => s.dpaOf L (va j + 128 * i) / 128)))

/-- CFLUSH (11 R268): at system scope, the lines' dirty bytes go out after the commit point. -/
def execCflush (a : BitVec 7) (g : BitVec 3) (n : BitVec 4) (s : State) : Out :=
  stepOp s (.cflush a g n) (fun c =>
    let L := s.launchOf c.T
    let lanes := s.doers c
    let va (j : Nat) := c.va j a
    s.orRaise c (badLanes lanes (fun j => s.linesBad L j (va j) (n.toNat + 1))) (fun _ =>
    let lines := if isSystem c.issue.hints then
      (s.namedLines L lanes va (n.toNat + 1)).filter (fun l => isOutside (l * 128)) else []
    let S := c.S.onChunk (fun k => { k with outs := k.outs ++ lines.map Eff.flush })
    s.retire { c with S := S } (.cflush a g n) (fun _ => [])))

/-- The dirty bytes of a line go out to their target for a set (11 R268). -/
def State.flushLine (s : State) (t k pc launch w line : Nat) : State :=
  match s.copies.get? (lineKey w line) with
  | some c => if c.dirty = 0 then s else s.send (.flush c.dirty c.bytes) (.set t k 32 pc) w (line * 128) launch
  | none => s

/-- Is a line dirty at its home? -/
def State.copyDirty (s : State) (w line : Nat) : Bool := ((s.copies.get? (lineKey w line)).map (fun c => c.dirty != 0)).getD false

/-- CINV (11 R269): at system scope, at execution. A line with committed stores that still drain is waited for, and so are the write-backs
of dirty bytes; then the lines leave their homes and every L1. -/
def execCinv (a : BitVec 7) (g : BitVec 3) (n : BitVec 4) (s : State) : Out :=
  stepOp s (.cinv a g n) (fun c =>
    let L := s.launchOf c.T
    let lanes := s.doers c
    let va (j : Nat) := c.va j a
    s.orRaise c (badLanes lanes (fun j => s.linesBad L j (va j) (n.toNat + 1))) (fun _ =>
    let lines := if isSystem c.issue.hints then
      (s.namedLines L lanes va (n.toNat + 1)).filter (fun l => isOutside (l * 128)) else []
    let dirty := lines.filter (fun l => s.copyDirty L.world l)
    if lines.any (fun l => s.drains.any (fun d => d.world == L.world && d.lines.contains l)) then .next s.endIssue
    else if !dirty.isEmpty then
      let s := if s.acked c.t c.k then
        dirty.foldl (fun (s : State) (l : Nat) => s.flushLine c.t c.k c.issue.group c.T.launch L.world l) s else s
      .next (s.hold c c.mask (.until [.acked]))
    else (lines.foldl (fun (s : State) (l : Nat) => s.invalidate L.world l) s).retire c (.cinv a g n) (fun _ => [])))

end Sys2Proof.Machine
end

