-- ==== Sys2Proof/Machine/Engine.lean ====
section
/-! DEFINITION. The range scoreboard: the pieces of an engine operation, its position, the order of Table 8-2, full bits and
completion words (08 R170-R190, R194; 15 R345, R353, R357). -/

namespace Sys2Proof.Machine

/-! ### Layouts (08 R180, R185) -/

/-- Bytes of a unit of a row: .e2m1 moves pairs of elements as one byte. -/
def Layout.esize (l : Layout) : Nat := if l.fmt = 4 then 1 else 2 ^ l.fmt

/-- Elements of dimension 0 in units: pairs for .e2m1. -/
def Layout.units (l : Layout) (n : Nat) : Nat := if l.fmt = 4 then n / 2 else n

/-- Bytes of a box row. -/
def Layout.rowBytes (l : Layout) : Nat := l.units (l.box.getD 0 0) * l.esize

/-- Rows of a box. -/
def Layout.rows (l : Layout) : Nat := ((List.range l.rank).drop 1).foldl (fun n j => n * l.box.getD j 1) 1

/-- Bytes of a box. -/
def Layout.boxBytes (l : Layout) : Nat := l.rows * l.rowBytes

/-- The swizzle. -/
def Layout.swizzle (l : Layout) (d : Nat) : Nat :=
  let m := match l.swz with
    | 0 => 0
    | 1 => 1
    | 2 => 3
    | _ => 7
  nput d 4 3 (Nat.xor (nfld d 4 3) (Nat.land (nfld d 7 3) m))

/-- The digits of a row number, dimension 1 fastest. -/
def Layout.digits (l : Layout) : List Nat → Nat → List Nat
  | [], _ => []
  | j :: js, r => let b := l.box.getD j 1; (r % b) :: l.digits js (r / b)

/-- Coordinates of the first element of a row. -/
def Layout.rowCoords (l : Layout) (c : List Int) (r : Nat) : List Int :=
  let b := 0 :: l.digits ((List.range l.rank).drop 1) r
  (List.range l.rank).map (fun j => c.getD j 0 + (b.getD j 0 : Nat))

/-- Do the coordinates above dimension 0 lie in the tensor? -/
def Layout.rowIn (l : Layout) (x : List Int) : Bool :=
  ((List.range l.rank).drop 1).all (fun j => decide (0 ≤ x.getD j 0) && decide (x.getD j 0 < (l.dims.getD j 0 : Nat)))

/-- Virtual address of a row's coordinate 0. -/
def Layout.rowBase (l : Layout) (x : List Int) : Int :=
  ((List.range l.rank).drop 1).foldl (fun a j => a + x.getD j 0 * ((l.strides.getD j 0 * 16 : Nat) : Int)) (l.base : Int)

/-- Byte `i` of row `r`: its scratchpad offset in the box, and its virtual address when it lies in the tensor. -/
def Layout.byteAt (l : Layout) (c : List Int) (r i : Nat) : Nat × Option Nat :=
  let x := l.rowCoords c r
  let e := l.esize
  let first := if l.fmt = 4 then x.getD 0 0 / 2 else x.getD 0 0
  let u := first + ((i / e : Nat) : Int)
  let inb := l.rowIn x && decide (0 ≤ u) && decide (u < (l.units (l.dims.getD 0 0) : Nat))
  (l.swizzle (r * l.rowBytes + i), if inb then some (wrap 64 (l.rowBase x + u * (e : Int) + ((i % e : Nat) : Int))) else none)

/-- Byte `i` of the fill pattern. -/
def Layout.fillByte (l : Layout) (i : Nat) : Byte := BitVec.ofNat 8 (byteOf l.fill.toNat (i % l.esize))

/-! ### Pieces of an operation: the part of a row in one memory line -/

/-- Is the operation a copy? -/
def OpKind.isCopy : OpKind → Bool
  | .mloop | .mcvt => false
  | _ => true

/-- Does the operation write scratchpad? -/
def OpKind.fills : OpKind → Bool
  | .tcpyIn | .cpyIn | .mcvt => true
  | _ => false

/-- The access that a copy makes of memory. -/
def OpKind.access : OpKind → Kind
  | .tcpyIn => .tensorIn
  | .tcpyOut => .tensorOut
  | .cpyIn => .laneIn
  | _ => .laneOut

/-- Rows: of a tensor copy its box rows, of a lane copy its lanes. -/
def Op.rowList (o : Op) : List Nat :=
  match o.kind with
  | .tcpyIn | .tcpyOut => List.range o.layout.rows
  | .cpyIn | .cpyOut => o.lanes.map (·.1)
  | _ => []

/-- The bytes of a row: scratchpad offset, virtual address or none for fill, and the fill byte. -/
def Op.rowBytes (o : Op) (r : Nat) : List (Nat × Option Nat × Byte) :=
  match o.kind with
  | .tcpyIn | .tcpyOut =>
    ((List.range o.layout.rowBytes).map (fun i =>
      let (d, a) := o.layout.byteAt o.coords r i
      (nfld o.sp 0 19 + d, a, o.layout.fillByte i))).filter (fun e => o.kind == .tcpyIn || e.2.1.isSome)
  | .cpyIn | .cpyOut =>
    match o.lanes.find? (fun x => x.1 == r) with
    | some (_, sp, va) =>
      (List.range o.width).map (fun i => (sp + i, some (va + i), (0 : Byte)))
    | none => []
  | _ => []

/-- The memory lines of a row, ascending as the row meets them. -/
def rowLines (bs : List (Nat × Option Nat × Byte)) : List Nat :=
  bs.foldl (fun l e => match e.2.1 with
    | some a => addNew l (a / 128)
    | none => l) []

/-- The pieces of an operation: row * 32 + the index of one of the row's memory lines; a row of fill alone is one piece. -/
def Op.pieces (o : Op) : List Nat :=
  o.rowList.flatMap (fun r => (List.range (max 1 (rowLines (o.rowBytes r)).length)).map (fun i => r * 32 + i))

/-- The bytes of a piece; fill goes with the first one. -/
def Op.pieceBytes (o : Op) (u : Nat) : List (Nat × Option Nat × Byte) :=
  let bs := o.rowBytes (u / 32)
  let line := (rowLines bs)[u % 32]?
  bs.filter (fun e => match e.2.1 with
    | some a => line == some (a / 128)
    | none => u % 32 == 0)

/-- Pieces that still have to be transferred: all, or those of rows below the reported row of a fault (08 R194). -/
def Op.remaining (o : Op) : List Nat :=
  let us := o.pieces.filter (fun u => !o.done.contains u)
  match o.phase with
  | .placed => us
  | .held row _ _ => us.filter (fun u => decide (u / 32 < row))
  | _ => []

/-- The pieces that one transfer moves: a piece of a tensor copy alone, and the lanes of a lane copy that the coalescer merges into one
line request (08 R178). -/
def Op.merged (o : Op) (u : Nat) : List Nat :=
  match o.kind with
  | .cpyIn | .cpyOut =>
    let line (r : Nat) : Nat := ((o.lanes.find? (fun x => x.1 == r)).map (fun x => x.2.2 / 128)).getD 0
    o.remaining.filter (fun v => line (v / 32) == line (u / 32))
  | _ => [u]

/-- The first virtual address of the request of a piece, and its length: of a lane copy, the bytes that any of its lanes names in the
line. -/
def Op.span (o : Op) (u : Nat) : Nat × Nat :=
  let vas : List Nat := match o.kind with
    | .cpyIn | .cpyOut =>
      let line (va : Nat) : Bool := (o.lanes.find? (fun x => x.1 == u / 32)).any (fun x => x.2.2 / 128 == va / 128)
      (o.lanes.filter (fun x => line x.2.2)).flatMap (fun x => (List.range o.width).map (x.2.2 + ·))
    | _ => (o.pieceBytes u).filterMap (·.2.1)
  let lo := (minNat vas).getD 0
  (lo, maxNat vas + 1 - lo)

/-- The scratchpad lines of a byte range. -/
def linesIn (lo hi : Nat) : List Nat := (List.range ((hi + 127) / 128 - lo / 128)).map (fun i => lo / 128 + i)

/-- Row bytes of an mcvt destination format (15 Table 15-4). -/
def mcvtRow (f : Nat) : Nat :=
  match f with
  | 0 | 1 => 64
  | 2 | 3 | 5 => 32
  | 4 => 16
  | _ => 128

/-- Scratchpad lines that the operation writes. -/
def Op.lines (o : Op) : List Nat :=
  match o.kind with
  | .mcvt =>
    (List.range 32).foldl (fun l r =>
      let lo := o.sp + r * o.args.getD 1 0
      addAll l (linesIn lo (lo + mcvtRow o.fmt))) []
  | .tcpyIn => o.ivals.flatMap (fun v => linesIn v.lo v.hi)
  | .cpyIn => o.lanes.foldl (fun l x => addAll l (linesIn x.2.1 (x.2.1 + o.width))) []
  | _ => []

/-- Does the operation still owe bytes of a scratchpad line? -/
def Op.owes (o : Op) (line : Nat) : Bool :=
  o.kind.fills &&
    match o.phase with
    | .pending | .moved => false
    | _ =>
      match o.kind with
      | .mcvt => o.lines.contains line
      | _ => o.pieces.any (fun u => !o.done.contains u && (o.pieceBytes u).any (fun e => e.1 / 128 == line))

/-! ### Order (08 R171, R173, R188) -/

/-- Is an operation on the scoreboard with a position? -/
def Op.standing (o : Op) : Bool := o.phase != .pending

/-- Does a later operation wait for an earlier one (Table 8-2)? Its completion word stands as a store at its position. -/
def Op.blocks (x y : Op) : Bool :=
  x.standing && decide (x.pos < y.pos) && x.troupe == y.troupe &&
    (x.ivals.any (fun v => y.ivals.any (fun w => (v.write || w.write) && overlaps v.lo v.hi w.lo w.hi)) ||
      match x.cword with
      | some (i, _) => y.ivals.any (fun w => overlaps (16 * i) (16 * i + 4) w.lo w.hi)
      | none => false)

/-- May an entry start its transfer? -/
def Core.admits (C : Core) (o : Op) : Bool := !C.ops.any (fun e => e.2.blocks o)

/-- Has an operation bytes of a range still to read? -/
def Op.unread (o : Op) (lo hi : Nat) : Bool :=
  match o.kind with
  | .tcpyOut | .cpyOut => o.pieces.any (fun u => !o.done.contains u && (o.pieceBytes u).any (fun e => decide (lo ≤ e.1) && decide (e.1 < hi)))
  | _ => true

/-- Must a thread store of bytes `[lo, hi)` at a position wait for an earlier operation whose interval it overlaps (Table 8-2): until its
bytes have been read, or the operation has written its bytes of the overlapping lines? -/
def Op.holdsStore (x : Op) (t pos lo hi : Nat) : Bool :=
  x.standing && x.phase != .moved && decide (x.pos < pos) && x.troupe == t &&
    x.ivals.any (fun v => overlaps v.lo v.hi lo hi &&
      (if v.write then (linesIn (max lo v.lo) (min hi v.hi)).any x.owes else x.unread (max lo v.lo) (min hi v.hi)))

/-- May bytes of a troupe's allotment drain at a position? -/
def Core.storeFree (C : Core) (t pos lo hi : Nat) : Bool := !C.ops.any (fun e => e.2.holdsStore t pos lo hi)

/-- May a range of a troupe's scratchpad be stored to now? -/
def State.spadFree (s : State) (u lo hi : Nat) : Bool :=
  match s.troupes.get? u with
  | some T => let C := s.coreAt T.place.coreNo; C.storeFree u (C.pos + 1) lo hi
  | none => true

/-- The lowest of the 64 entries that is free (08 R170, R175). -/
def Core.freeOp (C : Core) : Option Nat := (List.range 64).find? (fun i => (C.ops.get? i).isNone)

/-- An issue finds all 64 entries taken: one stall (08 Table 8-5). -/
def Core.fullIssue (C : Core) : Core := { C with fullStall := satN 16 (C.fullStall + 1) }

/-- At its position an operation that writes empties its lines (08 R174). -/
def State.placeOp (s : State) (core entry : Nat) : State :=
  let C := s.coreAt core
  match C.ops.get? entry with
  | some o =>
    if o.phase == .pending then
      let o' : Op := { o with phase := .placed, pos := C.pos + 1 }
      let s := s.onCore core (fun C => { C with pos := C.pos + 1, ops := C.ops.set entry o' })
      s.onTroupe o.troupe (fun T => o.lines.foldl (fun (T : Troupe) l => T.setLine l (false, false)) T)
    else s
  | none => s

/-- Has an operation moved bytes whose integrity check has not ended (10 R232)? -/
def State.opUnverified (s : State) (o : Op) : Bool := o.unverified.any (fun g => (s.unverified.get? g).isSome)

/-- Lines that have received every byte of every operation become full (08 R174), once the integrity checks of those bytes have ended (10
R232). -/
def State.fillLines (s : State) (core t : Nat) (lines : List Nat) : State :=
  let C := s.coreAt core
  s.onTroupe t (fun T => lines.foldl (fun (T : Troupe) l =>
    if C.ops.any (fun e => e.2.troupe == t && (e.2.owes l || (s.opUnverified e.2 && e.2.lines.contains l))) then T else T.setLine l (true, (T.lineBits l).2)) T)

/-- Lines of a troupe that hold bytes that a faulted operation has discarded are not full (08 R194). -/
def State.emptyOwed (s : State) (core entry : Nat) : State :=
  match (s.coreAt core).ops.get? entry with
  | some o => s.onTroupe o.troupe (fun T => o.lines.foldl (fun (T : Troupe) l =>
      if o.owes l then T.setLine l (false, false) else T) T)
  | none => s

/-- Change an entry. -/
def State.onOp (s : State) (core entry : Nat) (f : Op → Op) : State :=
  s.onCore core (fun C => { C with ops := C.ops.adjust entry f })

/-- Give back the counts of sealed buffers that a tensor copy held (06 Table 6-6). -/
def State.unseal (s : State) (w : Nat) (is : List Nat) : State :=
  is.foldl (fun (s : State) i => s.onWorld w (fun W => { W with wobs := W.wobs.adjust i (fun b =>
    { b with rc := b.rc - 1, state := if b.state = 2 && b.rc ≤ 1 then 0 else b.state }) })) s

/-- An operation completes and its entry is free (08 R175). -/
def State.completeOp (s : State) (core entry : Nat) : State :=
  match (s.coreAt core).ops.get? entry with
  | some o =>
    let w := ((s.troupes.get? o.troupe).map s.worldOf).getD 0
    (s.unseal w o.sealed).onCore core (fun C => { C with ops := C.ops.del entry, opsDone := (C.opsDone + 1) % 2 ^ 32 })
  | none => s

/-- Withdraw operations with no effect, giving back what they counted (08 R176, R196). -/
def State.dropOps (s : State) (core : Nat) (p : Op → Bool) : State :=
  let gone := (s.coreAt core).ops.filter (fun e => p e.2)
  let s := gone.foldl (fun (s : State) (e : Nat × Op) =>
    s.unseal (((s.troupes.get? e.2.troupe).map s.worldOf).getD 0) e.2.sealed) s
  s.onCore core (fun C => { C with ops := C.ops.filter (fun e => !p e.2) })

/-- Earlier operations of a troupe that have not completed (08 R193). -/
def Core.busyOps (C : Core) (t : Nat) : Bool := C.ops.any (fun e => e.2.troupe == t && e.2.standing)

/-- An empty operation of a troupe. -/
def Op0 : Op :=
  { kind := .cpyIn, troupe := 0, set := 0, pos := 0, ivals := [], phase := .pending, layout := default, handle := 0
    coords := [], sp := 0, lanes := [], width := 0, cword := none, done := [], sealed := [], tile := 0, fmt := 0
    args := [], retired := false, unverified := [], pc := 0, fault := 0 }

/-- Merge byte ranges that overlap or touch; above four, one range over all (08 R172). -/
def mergeRanges (rs : List (Nat × Nat)) : List (Nat × Nat) :=
  let ins (l : List (Nat × Nat)) (r : Nat × Nat) : List (Nat × Nat) :=
    let near := l.filter (fun x => decide (x.1 ≤ r.2) && decide (r.1 ≤ x.2))
    let far := l.filter (fun x => !(decide (x.1 ≤ r.2) && decide (r.1 ≤ x.2)))
    far ++ [near.foldl (fun a x => (min a.1 x.1, max a.2 x.2)) r]
  let out := rs.foldl ins []
  if out.length ≤ 4 then out
  else match out with
    | r :: rest => [rest.foldl (fun a x => (min a.1 x.1, max a.2 x.2)) r]
    | [] => []

end Sys2Proof.Machine
end

