-- ==== Sys2Proof/Machine/Commit.lean ====
section
/-! DEFINITION. How a closed chunk commits (10 R217-R221, Table 10-3; 08 R171-R176; 06 R134, R137, R138) and how its stores and
reductions drain (10 R229, R495). -/

namespace Sys2Proof.Machine

/-! ### Grants -/

/-- Change the committing chunk of a set. -/
def State.onClosing (s : State) (t k : Nat) (f : Chunk → Chunk) : State :=
  s.onSet t k (fun S => { S with closing := S.closing.map f })

/-- The home slices of written lines, ascending. -/
def State.homesOf (s : State) (w : Nat) (lines : List Nat) : List Nat :=
  (List.range 64).filter (fun h => lines.any (fun l => s.home w l == h))

/-- Ticket order (10 R217): a lower ticket goes first. -/
def ticketLt (a b : Nat × Nat × Nat) : Bool :=
  decide (a.1 < b.1) || (a.1 == b.1 && (decide (a.2.1 < b.2.1) || (a.2.1 == b.2.1 && decide (a.2.2 < b.2.2))))

/-- Does the store queue hold a store to a line of a buffer in this state (06 R138)? -/
def State.sealedStores (s : State) (L : Launch) (c : Chunk) (st : Nat) : Bool :=
  c.stores.any (fun x => s.sealState L.world L.tcid x.va == st) ||
    c.reds.any (fun r => r.range.isNone && s.sealState L.world L.tcid r.va == st)

/-- Cores that a line's sharer filter names (06 R125). -/
def HomeLine.cores (h : HomeLine) : List Nat :=
  h.clusters.flatMap (fun c => (List.range 4).map (fun i => 4 * c + i)) ++
    h.slices.flatMap (fun k => (List.range 16).map (fun i => 16 * k + i))

/-- Cores that a home forwards a write signature to: those its sharer filters name, and those of the world whose chunks read a listed
line at its home (01 R13). -/
def State.namedCores (s : State) (w t k : Nat) (lines : List Nat) : List Nat :=
  let filters := lines.foldl (fun l x => match s.lines.get? (lineKey w x) with
    | some h => addAll l h.cores
    | none => l) []
  s.troupes.foldl (fun l (e : Nat × Troupe) =>
    if !e.2.place.isUnit && s.worldOf e.2 == w && e.2.setTab.any (fun (f : Nat × SetState) => !(e.1 == t && f.1 == k) &&
        f.2.chunks.any (fun c => lines.any (fun x => c.reads.contains x)))
    then addNew l e.2.place.coreNo else l) filters

/-- Other sets of a world that hold one of these lines as starving sets (10 R219): with the ticket of a chunk in steps 1 to 3. -/
def State.holders (s : State) (w t k : Nat) (lines : List Nat) : List (Nat × Nat × Option (Nat × Nat × Nat)) :=
  s.troupes.flatMap (fun (e : Nat × Troupe) => (e.2.setTab.filter (fun (f : Nat × SetState) =>
    s.worldOf e.2 == w && !(e.1 == t && f.1 == k) && f.2.held.any (fun l => lines.contains l))).map (fun f =>
      (e.1, f.1, match f.2.closing with
        | some c => if c.phase == .closed || c.phase == .running then none else some c.ticket
        | none => none)))

/-- Grants of a set given back. -/
def State.dropGrants (s : State) (t k : Nat) : State :=
  { s with grants := s.grants.filter (fun g => !(g.troupe == t && g.set == k)) }

/-- A squashed set gives its grants back. -/
def State.squashAll (s : State) (t k : Nat) : State := (s.dropGrants t k).squash t k true

/-- A set's chunk is squashed, and a cause is raised precisely at its first instruction (10 R232, 24 R479); a transaction
takes its fallback with the kind given. -/
def State.chunkFault (s : State) (t k cause kind : Nat) (all : Bool) : State :=
  match s.setAt? t k with
  | none => s
  | some S =>
    match (if all then S.chunks.head? else S.chunk) with
    | none => s
    | some c =>
      if c.tx.isSome then (s.dropGrants t k).fallback t k kind 0 all
      else
        let s := (s.dropGrants t k).squash t k all
        s.onSet t k (fun S =>
          let m := maskOf (fun j => (S.lane j).live && (S.lane j).pc == c.first)
          let after := match s.codeOf (.step { troupe := t, set := k, mask := m, pc := c.first, more := false }) with
            | some o => s.afterGroup o (o.desc.codeSize / 4) c.first
            | none => c.first + 4
          S.trap m c.first (s.record t
            { cause := cause, set := k, low := (lowLane m).getD 0, mask := m, fail := m, pc := c.first, after := after }))

/-- Is there room at their homes for the entries that a chunk's reductions need; those above 128 of one home wait in the drain (06 R129;
log 60)? -/
def State.redRoom (s : State) (w : Nat) (reds : List Red) : Bool :=
  let lines := redLines reds
  (addAll [] (lines.map (s.home w))).all (fun h =>
    let new := lines.filter (fun l => s.home w l == h && !(s.slice h).reds.any (fun r => r.red.dpa / 128 == l))
    decide (s.queued h + min 128 new.length ≤ 128))

/-- One step of a chunk's grants: its ticket, the next home's grant, or the forwarding of its signature. -/
def State.grantStep (s : State) (t k : Nat) (T : Troupe) (S : SetState) (c : Chunk) : State :=
  let w := s.worldOf T
  match c.phase with
  | .closed =>
    if !s.redRoom w c.reds then s
    else s.onClosing t k (fun c => { c with phase := .granting [], ticket := (s.cycle.toNat, T.place.coreNo, k) })
  | .granting got =>
    match (s.homesOf w c.writes).find? (fun h => !got.contains h) with
    | none => s.onClosing t k (fun c => { c with phase := .acking (s.namedCores w t k c.writes) false })
    | some h =>
      if s.grants.any (fun g => g.home == h && !(g.troupe == t && g.set == k) && writeSig g.lines c.writes) ||
          s.drains.any (fun d => d.world == w && d.homes.contains h && writeSig d.lines c.writes) then s
      else
        match s.holders w t k c.writes with
        | [] =>
          let g : Grant := { home := h, troupe := t, set := k, lines := c.writes }
          { s with grants := s.grants ++ [g] }.onClosing t k (fun c => { c with phase := .granting (got ++ [h]) })
        | (u, j, tk) :: _ =>
          if !S.starving then s
          else
            match tk with
            | some x => if ticketLt x c.ticket then s.squash t k true else s.squash u j true
            | none => s.squash u j true
  | _ => s

/-- CHUNK_GRANT_REQUEST (10 Table 10-3 steps 1 and 2; an arbiter of a contained slice, 24 R479). -/
def execChunkGrantRequest (t k : Nat) (s : State) : Out :=
  let s := s.onSet t k SetState.shift
  match s.troupes.get? t, s.setAt? t k with
  | some T, some S =>
    match S.closing with
    | some c =>
      if c.writes.isEmpty then .next s
      else if (s.homesOf (s.worldOf T) c.writes).any (fun h => (s.slice h).state == 3) then
        .next (s.chunkFault t k 0x50 0x07 true)
      else if s.sealedStores (s.launchOf T) c 1 then .next (s.squashAll t k)
      else if s.sealedStores (s.launchOf T) c 2 then .next s
      else .next (s.grantStep t k T S c)
    | none => .next s
  | _, _ => .next s

/-! ### Signatures -/

/-- What a core does to one of its sets when a signature arrives (step 3): squash everything, or squash the open chunk; `refuse` says
whether its committing chunk stays and refuses. -/
inductive Reply where
  | keep (refuse : Bool)
  | open' (refuse : Bool)
  | all
  deriving DecidableEq, Repr, Inhabited

/-- Does a reply refuse? -/
def Reply.refuses : Reply → Bool
  | .keep r | .open' r => r
  | .all => false

/-- The reply of a set to written lines under a ticket. -/
def SetState.reply (S : SetState) (lines : List Nat) (ticket : Nat × Nat × Nat) : Reply :=
  let hits (c : Chunk) : Bool := lines.any (fun l => readSig c.reads l)
  let later (refuse : Bool) : Reply := if S.chunk.any hits then .open' refuse else .keep refuse
  match S.closing with
  | some c =>
    if hits c then
      match c.phase with
      | .granting _ | .acking .. => if ticketLt c.ticket ticket then later true else .all
      | _ => .all
    else later false
  | none => later false

/-- SIGNATURE_RECEIVED: a core invalidates, squashes or refuses, and acknowledges (10 Table 10-3 steps 2 and 3). -/
def execSignatureReceived (core t k : Nat) (s : State) : Out :=
  match (s.setAt? t k).bind (·.closing) with
  | some c =>
    match c.phase with
    | .acking cores refused =>
      if !cores.contains core then .next s
      else
        let w := ((s.troupes.get? t).map s.worldOf).getD 0
        let replies := s.troupes.flatMap (fun (e : Nat × Troupe) =>
          if e.2.place == .core core && s.worldOf e.2 == w then e.2.setTab.filterMap (fun (f : Nat × SetState) =>
            if e.1 == t && f.1 == k then none else some (e.1, f.1, f.2.reply c.writes c.ticket)) else [])
        let s := s.dropL1 (fun n l => n == core && l.world == w && c.writes.contains l.dpa)
        let s := replies.foldl (fun (s : State) (r : Nat × Nat × Reply) =>
          match r.2.2 with
          | .open' _ => s.squash r.1 r.2.1 false
          | .all => s.squashAll r.1 r.2.1
          | .keep _ => s) s
        let refused := refused || replies.any (fun r => r.2.2.refuses)
        .next (s.onClosing t k (fun c => { c with phase := .acking (cores.filter (· != core)) refused }))
    | _ => .next s
  | none => .next s

/-! ### The commit point -/

/-- May the scratchpad effects of a chunk be performed now (08 Table 8-2)? -/
def State.spadReady (s : State) (c : Chunk) : Bool :=
  let coreOf (u : Nat) : Core := match s.troupes.get? u with
    | some T => s.coreAt T.place.coreNo
    | none => Core0
  c.spStores.all (fun x => (coreOf x.troupe).storeFree x.troupe ((coreOf x.troupe).pos + 1) x.off (x.off + x.bytes.length)) &&
    c.fe.all (fun f => !(coreOf f.troupe).ops.any (fun e => e.2.troupe == f.troupe && e.2.standing && e.2.owes f.line))

/-- May a chunk commit now: written lines granted and acknowledged, reads verified (10 R217, R232), scratchpad ready, and entries for its
reductions to be had (06 R129)? -/
def State.commitReady (s : State) (w : Nat) (c : Chunk) : Bool :=
  (match c.phase with
    | .closed => c.writes.isEmpty && s.redRoom w c.reds
    | .acking [] false => true
    | _ => false) && c.unverified.all (fun g => (s.unverified.get? g).isNone) && s.spadReady c

/-- Scratchpad effects of a chunk (08 R171, R191). -/
def State.spadEffects (s : State) (c : Chunk) : State :=
  let s := c.spStores.foldl (fun (s : State) x => s.onTroupe x.troupe (fun T => T.putBytes x.off x.bytes)) s
  c.fe.foldl (fun (s : State) f => s.onTroupe f.troupe (fun T =>
    T.setLine f.line (if f.full then (true, (T.lineBits f.line).2) else (false, false)))) s

/-- Every other chunk that marks a scratchpad line that this one writes is squashed (10 R220). -/
def State.spadSquash (s : State) (t k : Nat) (marks : List (Nat × Nat)) : State :=
  if marks.isEmpty then s
  else
    let hits (c : Chunk) : Bool := c.spReads.any (fun m => marks.contains m) || c.spWrites.any (fun m => marks.contains m)
    s.troupes.foldl (fun (s : State) (e : Nat × Troupe) => e.2.setTab.foldl (fun (s : State) (f : Nat × SetState) =>
      if e.1 == t && f.1 == k then s
      else if (f.2.closing.map hits).getD false then s.squashAll e.1 f.1
      else if (f.2.chunk.map hits).getD false then s.squash e.1 f.1 false
      else s) s) s

/-- Seals of a chunk in instruction order, or `none` when one fails (06 R137). -/
def State.sealAll (s : State) (L : Launch) (l : Nat) : List (Nat × Nat) → Option State
  | [] => some s
  | e :: es =>
    match s.sealNow L.world L.tcid l e.1 e.2 with
    | .ok t => t.sealAll L l es
    | .error _ => none

/-- Near reductions leave in order for the write queues of their homes; those that meet a full one stay, and so do those behind reductions of
the drains before that stay themselves (06 R129, R130; 10 R224). -/
def State.sendReds (s : State) (before : List Drain) (d : Drain) : List Red → State × List Red
  | [] => (s, [])
  | r :: rs =>
    let h := s.home d.world (r.dpa / 128)
    if s.redsHeld before h then (s, r :: rs)
    else if s.queued h < 128 || (s.slice h).reds.any (fun x => x.red.dpa / 128 == r.dpa / 128) then
      let e : RedAt :=
        { seq := s.nextId, red := r, world := d.world, launch := d.launch, troupe := d.troupe, set := d.set, pc := d.pc }
      { s.onSlice h (fun S => { S with reds := S.reds ++ [e] }) with nextId := s.nextId + 1 }.sendReds before d rs
    else (s, r :: rs)

/-- Has the set a link request that is not acknowledged? -/
def State.unacked (s : State) (t k : Nat) : Bool :=
  s.requests.any (fun e => match e.2.owner with
    | .set u j _ _ => u == t && j == k
    | _ => false)

/-- Bytes of stores, the latest last. -/
def storeTab (sts : List Store) : Tab Byte :=
  sts.foldl (fun m st => (runTab st.dpa st.bytes).foldl (fun (m : Tab Byte) e => Tab.set m e.1 e.2) m) []

/-- The MSC policy of the latest of some stores to a line (06 R126). -/
def storePol (sts : List Store) (line : Nat) : Nat :=
  sts.foldl (fun p x => if x.dpa / 128 = line then x.msc else p) 0

/-- The stores of a committed chunk reach their homes: those at system scope too while the homes may hold outside lines (06 Table 6-2
POOLC; 10 R229, R495). -/
def State.drainStores (s : State) (d : Drain) : State :=
  let mine := d.stores.filter (fun x => !x.sys || s.ctl.poolc)
  let (s, bad) := (s.dropPassed d.world d.troupe d.stores).homeStore d.world (storeTab mine) (storePol mine)
  bad.foldl (fun (s : State) (b : Nat × Nat) =>
    s.lateTrap d.launch d.troupe d.set { cause := b.2, set := d.set, pc := d.pc, addr := b.1 }) s

/-- Effects at link targets leave in program order; a release waits for what went before (10 R229; 11 R251, R268). A reduction that
found no entry at its home goes there as the queue has room. -/
def State.sendOuts (s : State) (before : List Drain) (d : Drain) : List Eff → State × List Eff
  | [] => (s, [])
  | e :: es =>
    match e with
    | .store x =>
      if x.rel && s.unacked d.troupe d.set then (s, e :: es)
      else (s.send (.write x.bytes) (.set d.troupe d.set 32 d.pc) d.world x.dpa d.launch).sendOuts before d es
    | .red r =>
      if r.rel && s.unacked d.troupe d.set then (s, e :: es)
      else if r.sys then
        (s.send (.atomic r.op r.width 0 r.val) (.set d.troupe d.set 32 d.pc) d.world r.dpa d.launch).sendOuts before d es
      else match s.sendReds before d [r] with
        | (s, []) => s.sendOuts before d es
        | (s, _) => (s, e :: es)
    | .flush line => (s.flushLine d.troupe d.set d.pc d.launch d.world line).sendOuts before d es

/-- Lines that effects at targets still hold. -/
def Eff.line? : Eff → Option Nat
  | .store x => some (x.dpa / 128)
  | _ => none

/-- A drain after its stores have reached their homes: what is left of it, if anything. Its seals are registered once all its stores have
reached their homes or, at targets, are acknowledged (06 R137). -/
def State.drained (s : State) (before : List Drain) (d : Drain) : State × Option Drain :=
  let (s, outs) := (if d.stores.isEmpty then s else s.drainStores d).sendOuts before d d.outs
  if outs.isEmpty && (d.seals.isEmpty || !s.unacked d.troupe d.set) then (s.sealDrain d, none)
  else (s, some { d with stores := [], outs := outs, lines := addAll [] (outs.filterMap Eff.line?) })

/-- The chunk takes effect, all at once (10 R212): scratchpad, positions of its engine operations, contributions, reductions (10 R224),
ports and its trap; its stores stand in the drain, which keeps the homes' lines, and the buffers that it seals are registered once it has
drained (06 R137). -/
def State.commit (s : State) (t k : Nat) (T : Troupe) (c : Chunk) : State :=
  let core := T.place.coreNo
  let w := s.worldOf T
  let s := s.spadEffects c
  let s := c.copies.foldl (fun (s : State) e => s.placeOp core e) s
  let s := match c.amask with
    | some v => s.onTroupe t (fun T => { T with amask := v })
    | none => s
  let s := c.reds.foldl (fun (s : State) r => match r.range with
    | some i => s.contribute core w i r
    | none => s) s
  let s := (s.dropGrants t k).onSet t k (fun S =>
    ({ S.portsCommit with
      closing := none, squashes := if c.tx.isSome then S.squashes else 0, txSquashes := if c.tx.isSome then 0 else S.txSquashes
      starving := false, retry := 0
      trapReady := match c.trap with
        | some tr => some tr
        | none => S.trapReady }).shift)
  let d : Drain :=
    { troupe := t, set := k, launch := T.launch, world := w, pc := c.pc, stores := c.stores, outs := c.outs
      homes := s.homesOf w c.writes, lines := c.writes, seals := c.seals }
  let reds := c.reds.filter (fun r => r.range.isNone && !r.sys)
  let (s, late) := s.sendReds s.drains d (reds.take (reds.length - (c.outs.filter Eff.nearRed).length))
  let d := { d with outs := late.map Eff.red ++ d.outs }
  let s := (s.spadSquash t k c.spWrites).exposeCommit w core c (t, k)
  let s : State :=
    if d.stores.isEmpty && d.outs.isEmpty && (d.seals.isEmpty || !s.drains.any (fun e => e.troupe == t && e.set == k)) then s.sealDrain d
    else { s with drains := s.drains ++ [d] }
  s.tally w 3 1

/-- COMMIT_POINT (10 Table 10-3 step 4, R218, R220). -/
def execCommitPoint (t k : Nat) (s : State) : Out :=
  let s := s.onSet t k SetState.shift
  match s.troupes.get? t, s.setAt? t k with
  | some T, some S =>
    match S.closing with
    | none => .next s
    | some c =>
      let L := s.launchOf T
      if c.phase == .acking [] true then
        .next ((s.dropGrants t k).onClosing t k (fun c => { c with phase := .closed }))
      else if !s.commitReady (s.worldOf T) c then .next s
      else if s.sealedStores L c 1 then .next (s.squashAll t k)
      else if s.sealedStores L c 2 then .next s
      else
        match s.withSeals.sealAll L T.launch c.seals with
        | none => .next ((s.squashAll t k).onSet t k (fun S => { S with retry := 1 }))
        | some _ => .next (s.commit t k T c)
  | _, _ => .next s

/-! ### Draining -/

/-- STORE_DRAIN (10 Table 10-3 step 5, R229, R495): the stores of a set's first drain reach their homes, and what can leave leaves; the
homes take other grants for its lines once they have drained. -/
def execStoreDrain (t k : Nat) (s : State) : Out :=
  match s.drains.findIdx? (fun d => d.troupe == t && d.set == k) with
  | none => .next s
  | some i =>
    match s.drains[i]? with
    | none => .next s
    | some d =>
      let (s, rest) := s.drained (s.drains.take i) d
      .next { s with drains := match rest with
        | some d' => setAt s.drains i d'
        | none => s.drains.eraseIdx i }

end Sys2Proof.Machine
end

