-- ==== Sys2Proof/Machine/Stream.lean ====
section
/-! DEFINITION. What the cue instructions share: their issue, their memory accesses (10 R225; 11 R270-R272) and scratchpad
reads. -/

namespace Sys2Proof.Machine

/-- Issue a cue instruction and do what it does, if the stream may issue (20 R417). -/
def cueDo (s : State) (f : Nat → Troupe → Issue → Out) : Out :=
  match s.cueIssue? with
  | some (t, T, u) => if cueCan s T then f t T u else .next s.endIssue
  | none => .fault .noIssuer

/-- The cue stream takes an instruction's result and goes on at an address. -/
def State.cueTo (s : State) (t pc : Nat) (f : Troupe → Troupe) : State :=
  (s.onTroupe t (fun T => { f T with cue := { (f T).cue with pc := pc } })).endIssue

/-- The cue stream goes on with the next word, writing no register. -/
def State.cueNext (s : State) (t : Nat) (u : Issue) : Out := .next (s.cueTo t (u.word + 4) Troupe.tick)

/-- The cue stream goes on with the next word and a result. -/
def State.cueWrite (s : State) (t : Nat) (u : Issue) (ahead d : Nat) (x : DWord) : Out :=
  .next (s.cueTo t (u.word + 4) (fun T => T.write ahead d x))

/-- A precise trap of the cue stream. -/
def State.cueTrap (s : State) (t : Nat) (u : Issue) (cause reason addr info : Nat) : Out :=
  .next (s.raiseCue t u.group cause reason 0 addr info)

/-- Has the cue stream a link request or an atomic that is not answered? -/
def State.cueAsked (s : State) (t : Nat) : Bool :=
  s.requests.any (fun e => e.2.owner == .cue t) || s.slices.any (fun (e : Nat × Slice) => e.2.atomics.any (fun a => a.asker == .cue t))

/-- Forget the cue stream's answer. -/
def State.cueForget (s : State) (t : Nat) : State := s.onCue t (fun C => { C with answers := [] })

/-- A cue access: the checks of a lane's access, with one address. -/
def State.cueAddr (s : State) (L : Launch) (k : Kind) (va w : Nat) : Except (Nat × Nat) Nat := s.laneAddr L k va w

/-- What a cue read of memory meets: its value, a wait for some events (none: it asks again), or a fault. -/
inductive CueRead where
  | value (s : State) (x : Nat)
  | wait (s : State) (ws : List Wake)
  | fault (s : State) (cause reason : Nat)

/-- A read at the home of a line (10 R225). -/
def State.cueHome (s : State) (w a n msc : Nat) : CueRead :=
  match s.readFault w a with
  | some c => .fault (s.serve w a n) c 0
  | none => .value (s.homeRead w a n msc) (s.seenNat w a n)

/-- A cue read of `n` bytes under the CACHE policies: at the target at system scope, in the L1, or at the home once the line is there
(10 R225; 11 R246, R270, Table 11-2). Data under an unfinished integrity check are waited for (10 R232). -/
def State.cueRead (s : State) (t : Nat) (T : Troupe) (va a n : Nat) (system : Bool) (l1 msc : Nat) : CueRead :=
  let L := s.launchOf T
  let w := L.world
  let core := T.place.coreNo
  let live := s.live w L.tcid va a
  if s.far L system va a then
    match T.cue.answers.get? 0 with
    | some x => match answerBad x with
      | some b => .fault s b.1 b.2
      | none => .value s x
    | none =>
      let s := if s.cueAsked t || !s.mayRead w a then s else s.send (.read n) (.cue t) w a T.launch
      .wait s (if s.cueAsked t then [.answer 0] else [])
  else if s.anyUnverified w [a / 128] then .wait s []
  else if l1 != 3 && !live && !s.groupDown a && (s.coreAt core).hits w L.tcid va false then .value s (s.seenNat w a n)
  else if live || (2 ≤ l1 && (!isOutside a || (s.copies.get? (lineKey w (a / 128))).isSome)) then s.cueHome w a n msc
  else
    match (s.coreAt core).missErr w L.tcid va with
    | some c =>
      let s := s.onCore core (fun C => C.clearErrs w L.tcid [va / 128])
      if isOutside a then .fault s c 0 else s.cueHome w a n msc
    | none =>
      let (s, taken) := s.miss core w L.tcid va a s.cycle.toNat msc (decide (l1 < 2))
      .wait (s.onCue t (fun C => { C with answers := C.answers.set 1 1 })) (if taken then [.filled (va / 128 * 128)] else [])

/-- A counted access of a cue stream, with whether its line missed the L1: now, or when it first asked for it (07 Table 7-9). A write
of a line that the L1 does not hold for writing goes to the TLB (07 R146). -/
def State.cueSample (s : State) (T : Troupe) (va kind : Nat) : State :=
  let L := s.launchOf T
  let miss := (T.cue.answers.get? 1).isSome || !(s.coreAt T.place.coreNo).hits L.world L.tcid va (kind != 0)
  let s := s.sample (T.place.coreNo / 4) L.world va T.place.tag kind L.tcid miss
  if kind != 0 && miss then s.toTlb (T.place.coreNo / 4) L.world L.tcid va else s

/-- The address of a cue memory instruction: s[sa] + 8 × off4 with its hint (11 R270, 02 R39). -/
def cueVa (T : Troupe) (u : Issue) (a : BitVec 8) (o : BitVec 4) : Nat :=
  wrap 64 ((T.gets a.toNat).toNat + off4 u.hints o.toNat)

end Sys2Proof.Machine
end

