-- ==== Sys2Proof/Machine/Copies.lean ====
section
/-! DEFINITION. Lane copies, tensor copies, layouts, full/empty bits and copies that fault (08 R177-R196; 10 R226, R230). -/

namespace Sys2Proof.Machine

/-! ### Lane copies -/

/-- Is a completion word rejected (08 R189): outside the allotment, or in the operation's own write interval? -/
def cwordBad (size : Nat) (writes : List (Nat × Nat)) (index : Nat) : Bool :=
  decide (size < 16 * index + 4) || writes.any (fun r => overlaps (16 * index) (16 * index + 4) r.1 r.2)

/-- The checks of a lane of a lane copy (08 R179). -/
def State.laneCopyBad (s : State) (L : Launch) (T : Troupe) (k : Kind) (j sp va w : Nat) (cword : Bool) : Option LaneBad :=
  let bad (cause reason addr : Nat) : Option LaneBad :=
    some { lane := j, cause := cause, reason := reason, addr := addr, info := 0 }
  match s.leaseOf L k va with
  | .error e => bad e.1 e.2 va
  | .ok l =>
    if sp / 2 ^ 19 != 0 then bad 0x42 5 sp
    else if T.spadSize < sp + w then bad 0x42 2 sp
    else if sp % w != 0 then bad 0x42 3 sp
    else if va % w != 0 then bad 0x42 4 va
    else if cword then bad 0x42 7 0
    else if l.streamed then none
    else match s.pageBad k va (l.page va) with
      | some e => bad e.1 e.2 va
      | none => none

/-- A lane copy claims its entry and waits for its chunk (08 R172, R175-R178). -/
def laneCopy (kind : OpKind) (i : Instr) (d a : BitVec 7) (m : BitVec 4) (s : State) : Out :=
  stepOp s i (fun c =>
    let L := s.launchOf c.T
    let w := 4 * 2 ^ m.toNat
    let lanes := s.doers c
    let va (j : Nat) := c.va j a
    let sp (j : Nat) := (c.rd j d).toNat
    let ranges := mergeRanges (lanes.map (fun j => (sp j, sp j + w)))
    let cw := cwordOf c.issue.hints
    let bad := match cw with
      | some (_, x) => cwordBad c.T.spadSize (if kind == .cpyIn then ranges else []) x
      | none => false
    s.orRaise c (badLanes lanes (fun j => (s.laneCopyBad L c.T kind.access j (sp j) (va j) w bad).orElse (fun _ =>
      if kind == .cpyOut then s.sealBad L j (va j) else none))) (fun _ =>
    if lanes.isEmpty then s.retire c i (fun _ => [])
    else
      match (s.coreAt c.T.place.coreNo).freeOp with
      | none => .next (s.stallOnce c i 96 Core.fullIssue [.board])
      | some e =>
        let o : Op :=
          { Op0 with
            kind := kind, pc := c.issue.group, troupe := c.t, set := c.k, lanes := lanes.map (fun j => (j, sp j, va j)), width := w
            ivals := ranges.map (fun r => { lo := r.1, hi := r.2, write := kind == .cpyIn })
            cword := cw.map (fun x => (x.2, c.S.read (lanes.headD 0) x.1)), args := [(cacheOf c.issue.hints).2] }
        let S := (c.S.onChunk (fun k => { k with copies := k.copies ++ [e] })).endStall 96 c.mask
        (s.onCore c.T.place.coreNo (fun C => { C with ops := C.ops.set e o })).retire { c with S := S } i (fun _ => [])))

/-- CPY_IN. -/
def execCpyIn (d a : BitVec 7) (g : BitVec 3) (m : BitVec 4) (s : State) : Out :=
  laneCopy .cpyIn (.cpyIn d a g m) d a m s

/-- CPY_OUT. -/
def execCpyOut (d a : BitVec 7) (g : BitVec 3) (m : BitVec 4) (s : State) : Out :=
  laneCopy .cpyOut (.cpyOut d a g m) d a m s

/-! ### Full and empty bits -/

/-- Change the full bits of lines when the chunk commits (08 R191). -/
def fullBits (full : Bool) (i : Instr) (a : BitVec 7) (n : BitVec 4) (s : State) : Out :=
  stepOp s i (fun c =>
    let lanes := s.doers c
    let sp (j : Nat) := c.sp j a - c.sp j a % 128
    let len := (n.toNat + 1) * 128
    s.orRaise c (badLanes lanes (fun j => match s.spadAt c.t c.T (sp j) len with
      | .error r => some { lane := j, cause := 0x28, reason := r, addr := c.sp j a, info := 0 }
      | .ok _ => none)) (fun _ =>
    let at' (j : Nat) := s.spadOf c (sp j) len
    let marks := addAll [] (lanes.flatMap (fun j =>
      (List.range (n.toNat + 1)).map (fun x => ((at' j).1, (at' j).2 / 128 + x))))
    let uses := marks.map (fun (m : Nat × Nat) => (m.1, m.2 * 128, m.2 * 128 + 128, false))
    if s.pending c (meetsAny uses) then .next (s.closeFirst c (meetsAny uses))
    else
      let S := c.S.onChunk (fun k =>
        ({ k with
            fe := k.fe ++ marks.map (fun (m : Nat × Nat) => ({ troupe := m.1, line := m.2, full := full } : FeOp))
            spWrites := addAll k.spWrites marks }).touch
          (lanes.flatMap (fun j => (List.range (n.toNat + 1)).map (fun x => (j, padKey (at' j).1 ((at' j).2 / 128 + x), true)))))
      s.retire { c with S := S } i (fun _ => [])))

/-- FE_CLR. -/
def execFeClr (a : BitVec 7) (g : BitVec 3) (n : BitVec 4) (s : State) : Out := fullBits false (.feClr a g n) a n s

/-- FE_SET. -/
def execFeSet (a : BitVec 7) (g : BitVec 3) (n : BitVec 4) (s : State) : Out := fullBits true (.feSet a g n) a n s

/-- FE_TEST (08 R192). -/
def execFeTest (p : BitVec 5) (a : BitVec 7) (cond : BitVec 4) (k : BitVec 2) (s : State) : Out :=
  stepOp s (.feTest p a cond k) (fun c =>
    let x (j : Nat) := (c.rd j a).toNat
    s.orRaise c (badLanes c.lanes (fun j => match s.spadAt c.t c.T (x j) 1 with
      | .error r => some { lane := j, cause := 0x28, reason := r, addr := x j, info := 0 }
      | .ok _ => none)) (fun _ =>
    let at' (j : Nat) := s.spadOf c (x j) 1
    let bit (j : Nat) : Bool :=
      let b := s.lineSeen c.S (at' j).1 ((at' j).2 / 128)
      match cond.toNat with
      | 0 => b.1
      | 1 => !b.1
      | 2 => b.2
      | _ => !b.2
    let marks := c.lanes.map (fun j => ((at' j).1, (at' j).2 / 128))
    let S := c.S.onChunk (fun q => ({ q with spReads := addAll q.spReads marks }).touch
      (c.lanes.map (fun j => (j, padKey (at' j).1 ((at' j).2 / 128), false))))
    .next (s.done c (SetState.retire { c with S := S } (.feTest p a cond k) (fun _ => [])
      (fun j th => th.combine p.toNat k.toNat (bit j)) (fun _ => c.next)))))

/-- RSB_DRAIN (08 R193): after the set's pending copies have taken their positions, each lane takes its own when it first executes;
until the operations up to it have completed it waits. -/
def execRsbDrain (g : BitVec 3) (s : State) : Out :=
  stepOp s (.rsbDrain g) (fun c =>
    let C := s.coreAt c.T.place.coreNo
    let pos (j : Nat) := (c.S.answers.get? (64 + j)).getD C.pos
    let owes (j : Nat) : Bool := C.ops.any (fun e => e.2.troupe == c.t && e.2.standing && decide (e.2.pos ≤ pos j))
    let mine (o : Op) : Bool := o.troupe == c.t
    if c.act != 0 && s.pending c mine then .next (s.closeFirst c mine)
    else
      let no := c.lanes.filter owes
      let noted (S : SetState) : SetState :=
        { S.forget (c.lanes.map (64 + ·)) with
          answers := no.foldl (fun (m : Tab Nat) j => Tab.set m (64 + j) (pos j)) (S.forget (c.lanes.map (64 + ·))).answers }
      let wait (j : Nat) : Hold := .until [.ops (pos j)]
      if !no.isEmpty && no.length = c.lanes.length then
        .next (s.onSet c.t c.k (fun S => (noted S).onLanes c.act (fun j th => { th with hold := wait j }))).endIssue
      else s.retire ({ c with S := noted c.S }.without no wait) (.rsbDrain g) (fun _ => []))

/-! ### Tensor copies -/

/-- Virtual addresses of the memory bytes of an operation. -/
def Op.touched (o : Op) : List Nat := o.rowList.flatMap (fun r => (o.rowBytes r).filterMap (·.2.1))

/-- The lines of memory that an operation touches, by one address in each. -/
def Op.memory (o : Op) : List Nat :=
  (addAll [] (o.touched.map (· / 128))).map (· * 128)

/-- A tensor copy is checked and takes its entry and its position (08 R171, R184-R186). -/
def tensorCopy (kind : OpKind) (a b : BitVec 8) (s : State) : Out :=
  let pull : Bool := kind == .tcpyIn
  cueDo s (fun t T u =>
    let L := s.launchOf T
    let x := (T.gets a.toNat).toNat
    let A := wordAddr (BitVec.ofNat 32 x) (immOff u.hints)
    let handle := nfld x 32 12
    let word (k : Nat) : Nat := (T.gets (b.toNat + k)).toNat
    let coords := [sextNat 32 (word 0), sextNat 32 (word 0 / 2 ^ 32), sextNat 32 (word 1), sextNat 32 (word 1 / 2 ^ 32), sextNat 32 (word 2)]
    let cw : Option (Nat × Nat) := cwordOf u.hints
    match (s.world L.world).layouts.get? handle with
    | none => s.cueTrap t u 0x42 1 0 0
    | some lay =>
      let o := nfld A 0 19
      let box := lay.boxBytes
      if A / 2 ^ 19 != 0 || x / 2 ^ 44 != 0 then s.cueTrap t u 0x42 5 0 0
      else if o % 128 != 0 then s.cueTrap t u 0x42 3 0 0
      else if T.spadSize < o + box then s.cueTrap t u 0x42 2 0 0
      else if lay.fmt = 4 && (coords.getD 0 0) % 2 != 0 then s.cueTrap t u 0x42 6 0 0
      else if (match cw with
          | some (_, i) => cwordBad T.spadSize (if pull then [(o, o + box)] else []) i
          | none => false) then s.cueTrap t u 0x42 7 0 0
      else
        let core := T.place.coreNo
        let op : Op :=
          { Op0 with
            kind := kind, pc := u.group, troupe := t, set := 0xFF, layout := lay, handle := handle, coords := coords, sp := A
            ivals := [{ lo := o, hi := o + box, write := pull }]
            cword := cw.map (fun c => (c.2, BitVec.ofNat 32 (T.gets c.1).toNat)), args := [(cacheOf u.hints).2] }
        let sealedAt := op.memory.filter (fun va => s.sealState L.world L.tcid va == 1)
        match pull, sealedAt with
        | false, va :: _ => s.cueTrap t u 0x2D 1 va 0
        | _, _ =>
          match (s.coreAt core).freeOp with
          | none =>
            let s := if (T.cue.answers.get? 3).isSome then s
              else (s.onCore core Core.fullIssue).onCue t (fun C => { C with answers := C.answers.set 3 1 })
            .next (s.cueStall t [.board])
          | some e =>
            let s := s.cueForget t
            let bufs := if pull then
              addAll [] (sealedAt.filterMap (fun va => ((s.world L.world).wobAt L.tcid va).map (·.1))) else []
            let s := bufs.foldl (fun (s : State) i => s.onWorld L.world (fun W => { W with
              wobs := W.wobs.adjust i (fun b => { b with rc := b.rc + 1 }) })) s
            let s := s.onCore core (fun C => { C with ops := C.ops.set e { op with sealed := bufs } })
            (s.placeOp core e).cueNext t u)

/-- TCPY_IN. -/
def execTcpyIn (a b : BitVec 8) (s : State) : Out := tensorCopy .tcpyIn a b s

/-- TCPY_OUT. -/
def execTcpyOut (a b : BitVec 8) (s : State) : Out := tensorCopy .tcpyOut a b s

/-! ### Layout records -/

/-- The record that 64 bytes hold (08 Table 8-4). -/
def layoutOf (x : Nat) : Layout :=
  let f (o n : Nat) : Nat := nfld x (8 * o) (8 * n)
  { base := f 0 8
    dims := (List.range 5).map (fun j => f (0x08 + 4 * j) 4)
    strides := 0 :: (List.range 4).map (fun j => f (0x1C + 4 * j) 4)
    box := (List.range 5).map (fun j => f (0x2C + 2 * j) 2)
    fmt := f 0x36 1, rank := f 0x37 1 % 8, swz := nfld (f 0x37 1) 3 2, fill := BitVec.ofNat 32 (f 0x38 4) }

/-- The 64 bytes of a registered record, as CP_LAYOUT reads them. -/
def Layout.bytes (l : Layout) : List Byte :=
  leBytes 8 l.base ++ l.dims.flatMap (leBytes 4) ++ (l.strides.drop 1).flatMap (leBytes 4) ++ l.box.flatMap (leBytes 2) ++
    leBytes 1 l.fmt ++ leBytes 1 (l.rank + 8 * l.swz) ++ leBytes 4 l.fill.toNat ++ leBytes 4 0

/-- The lowest reason of cause 0x43 that a record's contents give (08 R182). -/
def layoutBad (x : Nat) : Option Nat :=
  let l := layoutOf x
  let inRank (j : Nat) : Bool := decide (j < l.rank)
  let rowBits := if l.fmt = 4 then l.box.getD 0 0 * 4 else l.box.getD 0 0 * l.esize * 8
  if nfld x (8 * 0x37 + 5) 3 != 0 || nfld x (8 * 0x3C) 32 != 0 then some 1
  else if l.rank = 0 || decide (5 < l.rank) then some 2
  else if 4 < l.fmt then some 3
  else if (List.range 5).any (fun j => let b := l.box.getD j 0
      if inRank j then b == 0 || decide (256 < b) else b != 0) || rowBits % 128 != 0 ||
      (l.swz != 0 && l.boxBytes % 128 != 0) then some 4
  else if l.base % 16 != 0 then some 5
  else if (List.range 5).any (fun j => let d := l.dims.getD j 0
      if inRank j then d == 0 else d != 0 || l.strides.getD j 0 != 0) ||
      (l.fmt = 4 && (l.box.getD 0 0 % 2 != 0 || l.dims.getD 0 0 % 2 != 0)) then some 6
  else none

/-- TLAY (08 R181, R182). -/
def execTlay (a b : BitVec 8) (s : State) : Out :=
  cueDo s (fun t T u =>
    let L := s.launchOf T
    let h := (T.gets b.toNat).toNat
    let va := wrap 64 ((T.gets a.toNat).toNat + immOff u.hints)
    if 4095 < h then s.cueTrap t u 0x43 7 va 0
    else if va = 0 then
      (s.onWorld L.world (fun W => { W with layouts := W.layouts.del h })).cueNext t u
    else if va % 64 != 0 then s.cueTrap t u 0x43 8 va 0
    else
      match s.translate L .load va with
      | .error (cause, reason) => s.cueTrap t u cause reason va 0
      | .ok dpa =>
        match s.cueRead t T va dpa 64 false 2 0 with
        | .wait s ws => .next (s.cueStall t ws)
        | .fault s cause reason => (s.cueForget t).cueTrap t u cause reason va 0
        | .value s x =>
          let s := (if s.far L false va dpa then s else s.cueSample T va 0).cueForget t
          match layoutBad x with
          | some r => s.cueTrap t u 0x43 r va 0
          | none => (s.onWorld L.world (fun W => { W with layouts := W.layouts.set h (layoutOf x) })).cueNext t u)

/-! ### Transfers -/

/-- Has a piece link requests out? -/
def State.pieceOut (s : State) (core e u : Nat) : Bool :=
  s.requests.any (fun r => r.2.owner == .op core e u)

/-- The held copy of a troupe that faulted first among those whose traps have not been sent (08 R196). -/
def State.firstFault (s : State) (core t : Nat) : Option (Nat × Op) :=
  let es := (s.coreAt core).ops.filter (fun e => e.2.troupe == t && !e.2.retired && match e.2.phase with
    | .held .. => true
    | _ => false)
  (minNat (es.map (fun e => e.2.fault * 64 + e.1))).bind (fun n => es.find? (fun e => e.2.fault * 64 + e.1 == n))

/-- The trap of a held operation goes to its cue stream (08 R194). -/
def State.sendFault (s : State) (core e : Nat) (o : Op) : State :=
  match o.phase with
  | .held _ cause va =>
    let tr := s.record o.troupe
      { cause := cause, reason := if cause = 0x42 then 8 else 0, flags := 1 + 8, set := 0xFF
        pc := o.pc, addr := va, copy := some e }
    (s.onCue o.troupe (fun C => { C with traps := C.traps ++ [tr] })).onOp core e (fun o => { o with retired := true })
  | _ => s

/-- Traps of a troupe's held operations are sent in the order in which they faulted, each once every row below the reported one has
finished (08 R194, R196). -/
def State.sendFaults (core t : Nat) : Nat → State → State
  | 0, s => s
  | n + 1, s =>
    match s.firstFault core t with
    | some (e, o) =>
      if !o.remaining.isEmpty || s.requests.any (fun r => match r.2.owner with
          | .op c x _ => c == core && x == e
          | _ => false) then s
      else State.sendFaults core t n (s.sendFault core e o)
    | none => s

/-- What a change of an entry lets out: traps of its troupe's held operations. -/
def State.settle (s : State) (core e : Nat) : State :=
  match (s.coreAt core).ops.get? e with
  | some o => State.sendFaults core o.troupe 64 s
  | none => s

/-- An operation is held at a row; the rows from it on are discarded (08 R194). An address outside every lease ends the
launch (08 R186). -/
def State.holdOp (s : State) (core e row cause reason va : Nat) : State :=
  match (s.coreAt core).ops.get? e with
  | some o =>
    let drop (s : State) : State := { s with requests := s.requests.filter (fun r => match r.2.owner with
      | .op c x u => !(c == core && x == e && decide (row * 32 ≤ u))
      | _ => true) }
    let s := (drop s).onOp core e (fun o => { o with
      phase := .held row cause va, done := o.done.filter (fun u => decide (u / 32 < row))
      fault := if o.fault = 0 then s.tick + 1 else o.fault })
    let s := s.emptyOwed core e
    if cause = 0x20 then
      let tr := s.record o.troupe { cause := 0x20, reason := reason, flags := 1 + 8, set := 0xFF, pc := o.pc, addr := va }
      let l := ((s.troupes.get? o.troupe).map (·.launch)).getD 0
      (s.onOp core e (fun o => { o with retired := true })).lateGone l o.troupe tr
    else s.settle core e
  | none => s

/-- A piece has been transferred: its lines become full once nothing owes them, or once its data are verified (08 R174,
10 R232). -/
def State.pieceDone (s : State) (core e u : Nat) : State :=
  let s := s.onOp core e (fun o => { o with done := addNew o.done u })
  match (s.coreAt core).ops.get? e with
  | some o =>
    let lines := if o.kind.fills && !s.opUnverified o then
      addAll [] ((o.pieceBytes u).map (fun x => x.1 / 128)) else []
    (s.fillLines core o.troupe lines).settle core e
  | none => s

/-- Pieces have been transferred. -/
def State.piecesDone (s : State) (core e : Nat) (us : List Nat) : State := us.foldl (fun (s : State) u => s.pieceDone core e u) s

/-- Does a lane above the row of a piece write a byte of scratchpad too? Its value stands (08 R178). -/
def Op.overridden (o : Op) (u off : Nat) : Bool :=
  o.kind == .cpyIn && o.lanes.any (fun x => decide (u / 32 < x.1) && decide (x.2.1 ≤ off) && decide (off < x.2.1 + o.width))

/-- Bytes of pieces arrive in scratchpad: those of memory from a virtual address on. -/
def State.landPieces (s : State) (core e : Nat) (us : List Nat) (lo : Nat) (bs : List Byte) : State :=
  match (s.coreAt core).ops.get? e with
  | some o =>
    let put (u : Nat) (T : Troupe) : Troupe := (o.pieceBytes u).foldl (fun (T : Troupe) x =>
      if o.overridden u x.1 then T else T.putBytes x.1 [match x.2.1 with
        | some va => bs.getD (va - lo) 0
        | none => x.2.2]) T
    (s.onTroupe o.troupe (fun T => us.foldl (fun (T : Troupe) u => put u T) T)).piecesDone core e us
  | none => s

/-- The answer to a read request of a copy arrives (08 R178). -/
def State.landRequest (s : State) (core e u : Nat) (bs : List Byte) : State :=
  match (s.coreAt core).ops.get? e with
  | some o => s.landPieces core e (o.merged u) (o.span u).1 bs
  | none => s

/-- The writes of a request of a copy are acknowledged. -/
def State.ackRequest (s : State) (core e u : Nat) : State :=
  match (s.coreAt core).ops.get? e with
  | some o => s.piecesDone core e (o.merged u)
  | none => s

/-- Where a piece's address leads: a device address and whether its page is protected, a wait, or a fault. -/
inductive Reached where
  | dpa (a : Nat) (prot : Bool)
  | wait (s : State)
  | fault (cause reason : Nat)
  deriving DecidableEq, Repr

/-- A copy reports a stage-two fault to the management world and waits for the answer (07 R161). -/
def State.askTwo (s : State) (w tcid gpa : Nat) (tbl : Bool) (core e : Nat) : Reached :=
  if s.s2f.waiter == 3 && s.s2f.core == core && s.s2f.entry == e && s.s2f.resp == 2 then .fault 0x26 0
  else .wait (s.reportTwo w 31 tcid gpa tbl 3 e core)

/-- Is the live stage-one entry of an address insufficient for a write (07 R155; log 39)? -/
def State.weakOne (s : State) (L : Launch) (k : Kind) (va : Nat) : Bool :=
  k.writes && match s.stageOne L.world L.tcid va with
    | .ok l => !l.w || l.cow
    | .error _ => false

/-- The page that an entry of a cluster's TLB gives for an address, if it holds one (07 R147). -/
def State.tlbPage (s : State) (cl w tcid va : Nat) : Option Page :=
  ((s.cluster cl).tlb.find? (fun e => e.world == w && e.tcid == tcid && decide (e.va ≤ va / 4096) &&
    decide (va / 4096 < e.va + tlbPages e.size))).map (fun e =>
      { dpa := (e.dpa + (va / 4096 - e.va)) * 4096, w := e.w, cow := e.cow, p := e.p, size := e.size })

/-- A walk of both stages, or what a cluster's TLB still holds of an earlier one (23 R466). -/
def State.streamWalk (s : State) (cl w tcid va : Nat) : Except WalkErr Page :=
  match s.tlbPage cl w tcid va with
  | some p => .ok p
  | none => s.walk w tcid va

/-- What a copy's translation does: a walk of a streamed address reads its tables at their homes, and one that finds its page enters it in
the cluster's TLB (23 R466; 07 R147). -/
def State.streamed (s : State) (L : Launch) (k : Kind) (va core : Nat) : State :=
  match s.leaseOf L k va with
  | .ok l =>
    if !l.streamed || (s.tlbPage (core / 4) L.world L.tcid va).isSome then s
    else
      let s1 := s.readTables L.world L.tcid va
      match s.walk L.world L.tcid va with
      | .ok p => s1.tlbEnter (core / 4)
          { world := L.world, tcid := L.tcid, size := 12, va := va / 4096, dpa := p.dpa / 4096, w := p.w, cow := p.cow, p := p.p
            cc := s.computeCapable p.dpa }
      | .error _ => s1
  | .error _ => s

/-- Translate an address of a copy at its transfer: a resident lease by its snapshot, a streamed one by the cluster's TLB or the live tables
(07 R155, R157, R161; 23 R466). -/
def State.reach (s : State) (L : Launch) (k : Kind) (va core e : Nat) : Reached :=
  match s.leaseOf L k va with
  | .error (c, r) => .fault c r
  | .ok l =>
    let check (p : Page) : Reached := match s.pageBad k va p with
      | some (c, r) => .fault c r
      | none => .dpa (p.dpa + va % 4096) p.p
    if !l.streamed then check (l.page va)
    else if s.weakOne L k va then .fault 0x24 0
    else
      match s.streamWalk (core / 4) L.world L.tcid va with
      | .ok p => check p
      | .error .one => .fault 0x24 0
      | .error (.target ..) => .fault 0x25 0
      | .error (.two g tbl) => s.askTwo L.world L.tcid g tbl core e

/-- Kind of a hotness record of a copy (07 Table 7-9). -/
def OpKind.sample (k : OpKind) : Nat :=
  match k with
  | .cpyIn => 4
  | .cpyOut => 5
  | .tcpyIn => 6
  | _ => 7

/-- A home holds a line as ciphertext, or not (06 R124). -/
def State.markProt (s : State) (w line : Nat) (prot : Bool) : State :=
  { s with lines := s.lines.adjust (lineKey w line) (fun h => { h with prot := prot }) }

/-- A request of a copy: the pieces that it merges, their first virtual and device address, the bytes it spans, and whether it goes to its
target over a link; lines of a live range are served at their homes (06 R135, 10 R230). -/
structure Xfer where
  core : Nat
  entry : Nat
  op : Op
  us : List Nat
  lo : Nat
  dpa : Nat
  n : Nat
  world : Nat
  tcid : Nat
  launch : Nat
  far : Bool
  prot : Bool

/-- The MSC policy of its CACHE hint. -/
def Xfer.pol (x : Xfer) : Nat := x.op.args.headD 0

/-- A counted line request (07 R162); that of a lane copy misses an L1 that does not hold its line (Table 7-9). -/
def State.countXfer (s : State) (x : Xfer) : State :=
  let lane : Bool := x.op.kind == .cpyIn || x.op.kind == .cpyOut
  s.sample (x.core / 4) x.world x.lo x.core x.op.kind.sample x.tcid
    (lane && !(s.coreAt x.core).hits x.world x.tcid x.lo x.op.kind.access.writes)

/-- The first failing byte of a request, by its row: row, virtual address, cause. -/
def Xfer.failing (x : Xfer) (f : Nat → Option Nat) : Option (Nat × Nat × Nat) :=
  x.us.findSome? (fun v => (x.op.pieceBytes v).findSome? (fun b =>
    b.2.1.bind (fun va => (f (x.dpa + (va - x.lo))).map (fun c => (v / 32, va, c)))))

/-- A request reads memory into scratchpad: at its target, under the issue window and MAXOUT (06 R141), or at its home. A lane copy of a
sealed buffer fills its core's L1 with a sealed line (06 Table 6-6; log 24). -/
def State.pull (s : State) (x : Xfer) : State :=
  let w := x.world
  if x.far then
    let p := s.portOf x.dpa
    if !s.mayRead w x.dpa || (2 ≤ p && decide ((s.world w).wins.getD (p - 2) 256 ≤ s.engineReads x.core w p)) then s
    else (s.countXfer x).send (.read x.n) (.op x.core x.entry (x.us.headD 0)) w x.dpa x.launch
  else
    match x.failing (s.readFault w) with
    | some (row, va, c) => ((s.countXfer x).serve w (x.dpa + (va - x.lo)) 1).holdOp x.core x.entry row c 0 va
    | none =>
      let s := s.countXfer x
      let s := s.onOp x.core x.entry (fun o => { o with unverified := addAll o.unverified (s.unvOf w [x.dpa / 128]) })
      let m : Miss :=
        { world := w, tcid := x.tcid, va := x.lo / 128, dpa := x.dpa / 128, write := false, merged := 1, msc := x.pol, alloc := true
          req := none, err := 0 }
      let fills := x.op.kind == .cpyIn && s.sealState w x.tcid x.lo == 1 && (s.fillError w (x.dpa / 128)).isNone &&
        !(s.coreAt x.core).hits w x.tcid x.lo false
      let s := if fills then s.fillL1 x.core m else s.homeRead w x.dpa x.n x.pol
      (s.markProt w (x.dpa / 128) x.prot).landPieces x.core x.entry x.us x.lo (s.seenBytes w x.dpa x.n)

/-- The bytes that a request writes: of a lane copy, the highest lane's stand (08 R178). -/
def State.xferBytes (s : State) (x : Xfer) : Tab Byte :=
  x.us.foldl (fun (m : Tab Byte) v => (x.op.pieceBytes v).foldl (fun (m : Tab Byte) b => match b.2.1 with
    | some va => Tab.set m (x.dpa + (va - x.lo)) ((s.spadBytes x.op.troupe b.1 1).headD 0)
    | none => m) m) []

/-- The mask and the bytes of a line that a table of its bytes gives. -/
def maskedLine (t : Tab Byte) : BitVec 128 × List Byte :=
  (t.foldl (fun m e => m ||| BitVec.ofNat 128 (2 ^ (e.1 % 128))) 0
  , (List.range 128).map (fun i => ((t.find? (fun e => e.1 % 128 == i)).map (·.2)).getD 0))

/-- A request writes scratchpad bytes to memory, as one event of its line (10 R226, R230): one write of the bytes named goes to a target. -/
def State.push (s : State) (x : Xfer) : State :=
  let bytes := s.xferBytes x
  if x.far then
    if s.lineBusy x.world (x.dpa / 128) then s
    else
      let (mask, bs) := maskedLine bytes
      (s.countXfer x).send (.flush mask bs) (.op x.core x.entry (x.us.headD 0)) x.world (x.dpa / 128 * 128) x.launch
  else if s.contained x.world x.dpa then s.holdOp x.core x.entry (x.us.headD 0 / 32) 0x50 0 x.lo
  else
    match s.writeLine x.world bytes x.pol with
    | none => s
    | some (s, bad) =>
      let s := (s.countXfer x).markProt x.world (x.dpa / 128) x.prot
      match x.failing (fun a => (bad.find? (fun b => b.1 == a / 64 * 64)).map (·.2)) with
      | none => s.piecesDone x.core x.entry x.us
      | some (row, va, c) => s.holdOp x.core x.entry row c 0 va

/-- Why a row of a copy may not move: the first of its pieces that waits for an answer or fails its checks, or whose write
would merge into a granule that reads badly; with the piece's address and that granule. A row of which one piece fails moves no byte. -/
def State.rowStop (s : State) (L : Launch) (o : Op) (core e row : Nat) : Option (Nat × Option Nat × Reached) :=
  (o.pieces.filter (fun u => u / 32 == row)).findSome? (fun u =>
    let vas := (o.pieceBytes u).filterMap (·.2.1)
    match vas.head? with
    | none => none
    | some va =>
      match s.reach L o.kind.access va core e with
      | .dpa a _ =>
        let g (x : Nat) : Nat := (a + (x - va)) / 64
        let merges (k : Nat) : Option Nat :=
          if isOutside (k * 64) || s.atHome L.world (k / 2) || (vas.filter (fun x => g x == k)).length == 64 then none
          else s.granFault L.world (k * 64)
        if !o.kind.access.writes then none
        else
          match s.sealState L.world L.tcid va with
          | 1 => some (va, none, .fault 0x2D 1)
          | 2 => some (va, none, .wait s)
          | _ => ((addAll [] (vas.map g)).findSome? (fun k => (merges k).map (fun c => (va, some (k * 64), .fault c 0))))
      | r => some (va, none, r))

/-- A row of a copy faults. -/
def State.rowFault (s : State) (o : Op) (w core e row va : Nat) (bad : Option Nat) (c r : Nat) : State :=
  let s := if c = 0x26 then { s with s2f := Flt0 } else s
  let s := if c = 0x25 then s.log 0 (s.record o.troupe { cause := 0x25, flags := 9, set := 0xFF, pc := o.pc, addr := va }) else s
  let s := match bad with
    | some g => s.serve w g 1
    | none => s
  s.holdOp core e row c r va

/-- One request of a copy is transferred, if the scoreboard admits it (08 R173, R178, R185): the piece, with those that the coalescer
merges with it. -/
def State.movePiece (s : State) (core e u : Nat) : State :=
  let C := s.coreAt core
  match C.ops.get? e with
  | none => s
  | some o =>
    match s.troupes.get? o.troupe with
    | none => s
    | some T =>
      let us := o.merged u
      if !o.kind.isCopy || !o.remaining.contains u || !C.admits o || s.pieceOut core e (us.headD u) then s
      else if !(o.pieceBytes u).any (fun x => x.2.1.isSome) then s.landPieces core e [u] 0 []
      else
        let L := s.launchOf T
        match us.findSome? (fun v => (s.rowStop L o core e (v / 32)).map (fun r => (v / 32, r))) with
        | some (_, va, _, .wait s') => s'.streamed L o.kind.access va core
        | some (row, va, bad, .fault c r) => (s.streamed L o.kind.access va core).rowFault o L.world core e row va bad c r
        | _ =>
          let (lo, n) := o.span u
          let way := s.reach L o.kind.access lo core e
          let s := s.streamed L o.kind.access lo core
          match way with
          | .dpa dpa prot =>
            let x : Xfer :=
              { core := core, entry := e, op := o, us := us, lo := lo, dpa := dpa, n := n, world := L.world, tcid := L.tcid
                launch := T.launch, far := isOutside dpa && !s.live L.world L.tcid lo dpa, prot := prot }
            if o.kind.access.writes then s.push x else s.pull x
          | _ => s

/-- TCPY_TRANSFER: a piece of a tensor copy; piece `32 r + i` is the part of row r in its memory line i. -/
def execTcpyTransfer (core e row : Nat) (s : State) : Out :=
  match (s.coreAt core).ops.get? e with
  | some o => if o.kind == .tcpyIn || o.kind == .tcpyOut then .next (s.movePiece core e row) else .next s
  | none => .next s

/-- LANE_COPY_TRANSFER: a lane of a lane copy, with the lanes of its line request. -/
def execLaneCopyTransfer (core e lane : Nat) (s : State) : Out :=
  match (s.coreAt core).ops.get? e with
  | some o => if o.kind == .cpyIn || o.kind == .cpyOut then .next (s.movePiece core e (lane * 32)) else .next s
  | none => .next s

/-- Does an operation placed before one still owe a line that this one writes, or hold data of it under an unfinished check? The line is not
full then (08 R174, R188). -/
def State.linesOwed (s : State) (core : Nat) (o : Op) : Bool :=
  (s.coreAt core).ops.any (fun e => e.2.troupe == o.troupe && e.2.standing && decide (e.2.pos < o.pos) &&
    o.lines.any (fun l => e.2.owes l || (s.opUnverified e.2 && e.2.lines.contains l)))

/-- COPY_COMPLETE: every piece is done and verified; once every line that the operation writes is full the completion word is written in its
place in the order, and the entry is freed (08 R175, R188; 10 R230, R232). -/
def execCopyComplete (core e : Nat) (s : State) : Out :=
  let C := s.coreAt core
  match C.ops.get? e with
  | none => .next s
  | some o =>
    let over' := match o.phase with
      | .placed => o.kind.isCopy && o.pieces.all (fun u => o.done.contains u)
      | .moved => o.kind.isCopy || (o.kind == .mcvt && o.retired)
      | _ => false
    if !over' || s.opUnverified o then .next s
    else
      let s := s.onOp core e (fun o => { o with phase := .moved })
      let s := if o.kind.fills then s.fillLines core o.troupe o.lines else s
      match o.cword with
      | some (i, v) =>
        if C.storeFree o.troupe o.pos (16 * i) (16 * i + 4) && !(o.kind.fills && s.linesOwed core o) then
          .next ((s.onTroupe o.troupe (fun T => T.putBytes (16 * i) (leBytes 4 v.toNat))).completeOp core e)
        else .next s
      | none => .next (s.completeOp core e)

/-! ### After a fault (08 R194-R196) -/

/-- The copy record (08 Table 8-7) as a number. -/
def copyRecord (o : Op) (cause va : Nat) (row : Nat) : Nat :=
  let kind := match o.kind with
    | .tcpyIn => 0
    | .tcpyOut => 1
    | .cpyIn => 2
    | _ => 3
  let tensor := kind < 2
  let coords : List Int := if tensor then (List.range 5).map (fun j => (o.layout.rowCoords o.coords row).getD j 0) else []
  let lanes := o.lanes.filter (fun x => decide (row ≤ x.1))
  cause + kind * 2 ^ 8 + b2n o.cword.isSome * 2 ^ 24 + (if tensor then o.handle else 0) * 2 ^ 32 +
    (coords.mapIdx (fun j c => wrap 32 c * 2 ^ (64 + 32 * j))).foldl (· + ·) 0 +
    (if tensor then 0 else (maskOf (fun j => lanes.any (fun x => x.1 == j))).toNat * 2 ^ 224) + va % 2 ^ 64 * 2 ^ 256 +
    (if tensor then o.sp else ((o.lanes.find? (fun x => x.1 == row)).map (·.2.1)).getD 0) * 2 ^ 320 +
    (if tensor then 0 else o.set) * 2 ^ 352

/-- The skip disposition: discarded rows are filled, their lines are full with the skip bit (08 R195). -/
def State.skipOp (s : State) (core e : Nat) : State :=
  match (s.coreAt core).ops.get? e with
  | some o =>
    match o.phase with
    | .held row _ _ =>
      let rows := if o.kind.fills then o.rowList.filter (fun r => decide (row ≤ r)) else []
      let bytes := rows.flatMap (fun r => match o.kind with
        | .tcpyIn => (List.range o.layout.rowBytes).map (fun i =>
            (nfld o.sp 0 19 + (o.layout.byteAt o.coords r i).1, o.layout.fillByte i))
        | _ => (o.rowBytes r).map (fun x => (x.1, (0 : Byte))))
      let s := s.onTroupe o.troupe (fun T => bytes.foldl (fun (T : Troupe) x => T.putBytes x.1 [x.2]) T)
      let s := s.onOp core e (fun o => { o with phase := .moved, fault := 0 })
      let lines := if o.kind.fills then o.lines else []
      let s := s.fillLines core o.troupe lines
      let skipped := addAll [] (bytes.map (fun x => x.1 / 128))
      s.onTroupe o.troupe (fun T => skipped.foldl (fun (T : Troupe) l => T.setLine l ((T.lineBits l).1, true)) T)
    | _ => s
  | none => s

/-- The handler's disposition of a held operation (08 R195): 0 resume, 1 retry, 2 skip; other values act as 0. -/
def State.dispose (s : State) (core e disp handle : Nat) : State :=
  match (s.coreAt core).ops.get? e with
  | some o =>
    match o.phase with
    | .held row _ va =>
      let resume (l : Layout) : State := s.onOp core e (fun o =>
        { o with
          phase := .placed, retired := false, layout := l, fault := 0
          done := { o with layout := l }.pieces.filter (fun u => decide (u / 32 < row)) })
      let again : State := (s.onOp core e (fun o => { o with retired := false, fault := 0 })).holdOp core e row 0x42 8 va
      if disp = 2 then s.skipOp core e
      else if disp = 1 && (o.kind == .tcpyIn || o.kind == .tcpyOut) then
        let w := ((s.troupes.get? o.troupe).map s.worldOf).getD 0
        match (s.world w).layouts.get? handle with
        | some l =>
          if l.fmt = o.layout.fmt && l.rank = o.layout.rank && l.box == o.layout.box then
            (resume l).onOp core e (fun o => { o with handle := handle })
          else again
        | none => again
      else resume o.layout
    | _ => s
  | none => s

end Sys2Proof.Machine
end

