-- ==== Sys2Proof/Machine/Matrix.lean ====
section
/-! DEFINITION. The matrix unit: tiles, steps, loops and conversions (15 R339-R358; 12 R292). -/

namespace Sys2Proof.Machine

/-! ### Tiles -/

/-- A tile as a troupe starts (15 R339). -/
def Tile0 : Tile := { int := false, el := [] }

/-- Tile `n` of a troupe. -/
def Troupe.tile (T : Troupe) (n : Nat) : Tile := T.tiles.getD n Tile0

/-- Element of a tile at row `r`, column `c`. -/
def Tile.at (t : Tile) (r c : Nat) : Word := t.el.getD (32 * r + c) 0

/-- A tile of these elements, listing those that are not zero. -/
def Tile.of (int : Bool) (f : Nat → Nat → Word) : Tile :=
  { int := int
    el := (List.range 1024).filterMap (fun i => let x := f (i / 32) (i % 32); if x = 0 then none else some (i, x)) }

/-- Tiles of each set of a troupe (15 R340). -/
def Troupe.tilesPerSet (T : Troupe) : Nat := min 16 (T.tileCount / T.sets)

/-- Troupe tile of a tile field. -/
def Ctx.tileNo (c : Ctx) (t : BitVec 4) : Nat := c.k * c.T.tilesPerSet + t.toNat

/-- Reason of cause 0x0F, if the tile field or its tag is wrong (15 R340, R341). -/
def Ctx.tileBad (c : Ctx) (t : BitVec 4) (tag : Option Bool) : Option Nat :=
  if c.T.tilesPerSet ≤ t.toNat then some 1
  else match tag with
    | some b => if (c.T.tile (c.tileNo t)).int == b then none else some 2
    | none => none

/-- Is an operation on a tile of a troupe? -/
def Op.onTile (o : Op) (t n : Nat) : Bool := !o.kind.isCopy && o.troupe == t && o.tile == n

/-- An issue stalls at the tile interlock (15 Table 15-7). -/
def Core.tileIssue (C : Core) : Core := { C with tileStall := satN 16 (C.tileStall + 1) }

/-- A tile instruction: the checks of cause 0x0F, then a pending operation of the set on the tile must commit, and one of the open chunk
closes it (15 R348), then, for a synchronous one, every earlier operation on the tile must have retired (15 R349). -/
def tileOp (s : State) (i : Instr) (t : BitVec 4) (tag : Option Bool) (sync : Bool) (f : Ctx → Out) : Out :=
  stepOp s i (fun c =>
    match c.tileBad t tag with
    | some r => .next (s.raise c c.mask 0x0F r 0 t.toNat)
    | none =>
      let n := c.tileNo t
      let mine (o : Op) : Bool := o.onTile c.t n
      if s.pending c mine then .next (s.closeFirst c mine)
      else if sync && (s.coreAt c.T.place.coreNo).ops.any (fun e => e.2.onTile c.t n && !e.2.retired) then
        .next (s.stallOnce c i 97 Core.tileIssue [.tile n])
      else f { c with S := c.S.endStall 97 c.mask })

/-- Change a tile. -/
def State.setTile (s : State) (t n : Nat) (x : Tile) : State := s.onTroupe t (fun T => { T with tiles := T.tiles.set n x })

/-! ### One step (15 R342-R346) -/

/-- Element width of a matrix format. -/
def matWidth (f : Nat) : Nat :=
  match f with
  | 0 | 1 => 16
  | 4 => 4
  | _ => 8

/-- Value of a floating matrix element. -/
def matValue (f code : Nat) : Fp :=
  match f with
  | 0 => bf16.value code
  | 1 => fp16.value code
  | 2 => e4m3.value code
  | 3 => e5m2.value code
  | _ => e2m1.value code

/-- An E8M0 scale (12 R278). -/
def scaleOf (x : Nat) : Fp := if x = 255 then .nan else .num false 1 ((x : Int) - 127)

/-- An operand of a step: element codes, and for E2M1 the scale of each half. -/
structure MatOperand where
  word : Nat → Nat → Word
  scale : Nat → Nat → Nat

/-- Element `k` of row (or column) `r` of an operand. -/
def MatOperand.code (m : MatOperand) (f r k : Nat) : Nat :=
  let w := matWidth f
  nfld (m.word r (k * w / 32)).toNat (k * w % 32) w

/-- The exact value of an element with its scale. -/
def MatOperand.value (m : MatOperand) (f r k : Nat) : Fp :=
  let v := matValue f (m.code f r k)
  if f = 4 then Fp.mul v (scaleOf (m.scale r (k / 32))) else v

/-- One step: exact sums, rounded once, or wrapped for INT8. -/
def matStep (f : Nat) (t : Tile) (A B : MatOperand) : Tile :=
  let ks := List.range (256 / matWidth f)
  Tile.of t.int (fun r c =>
    if f = 5 then
      BitVec.ofInt 32 (ks.foldl (fun (x : Int) k => x + sextNat 8 (A.code f r k) * sextNat 8 (B.code f c k)) (t.at r c).toInt)
    else
      BitVec.ofNat 32 (fp32.near (Fp.sum false (f32 (t.at r c) :: ks.map (fun k => Fp.mul (A.value f r k) (B.value f c k))))))

/-- The operand that a set's registers hold: a lane that is not live supplies +0 and scales 127 (15 R344). `high` selects
the scales of B. -/
def SetState.operand (S : SetState) (base scales : Nat) (high : Bool) : MatOperand :=
  { word := fun r n => if (S.lane r).live then S.read r (base + n) else 0
    scale := fun r h =>
      if (S.lane r).live then nfld (S.read r scales).toNat (8 * h + (if high then 16 else 0)) 8 else 127 }

/-- The operand that a block of scratchpad holds (15 R345). -/
def State.block (s : State) (t off : Nat) : MatOperand :=
  { word := fun r n => BitVec.ofNat 32 (leNat (s.spadBytes t (off + 32 * r + 4 * n) 4))
    scale := fun r h => leNat (s.spadBytes t (off + 1024 + 2 * r + h) 1) }

/-! ### Synchronous tile instructions -/

/-- MMA (15 R351). -/
def execMma (t : BitVec 4) (a b : BitVec 7) (f : BitVec 3) (s : State) : Out :=
  tileOp s (.mma t a b f) t (some (f == 5)) true (fun c =>
    let n := c.tileNo t
    let A := c.S.operand a.toNat (b.toNat + 8) false
    let B := c.S.operand b.toNat (b.toNat + 8) true
    ((s.setTile c.t n (matStep f.toNat (c.T.tile n) A B)).onCore c.T.place.coreNo (fun C =>
      { C with steps := (C.steps + 1) % 2 ^ 32 })).retire c (.mma t a b f) (fun _ => []))

/-- MLD (15 R355). -/
def execMld (t : BitVec 4) (a : BitVec 7) (q : BitVec 2) (s : State) : Out :=
  tileOp s (.mld t a q) t none true (fun c =>
    let n := c.tileNo t
    let x := Tile.of (tileOf c.issue.hints) (fun r k =>
      if (c.S.lane r).live && k / 8 == q.toNat then c.S.read r (a.toNat + k % 8) else (c.T.tile n).at r k)
    (s.setTile c.t n x).retire c (.mld t a q) (fun _ => []))

/-- MRD (15 R355). -/
def execMrd (t : BitVec 4) (a : BitVec 7) (h : BitVec 4) (q : BitVec 2) (s : State) : Out :=
  tileOp s (.mrd t a h q) t (some (tileOf ((s.cur.map (·.hints)).getD []))) true (fun c =>
    s.retire c (.mrd t a h q) (fun r =>
      (List.range 8).map (fun j => (a.toNat + j, (c.T.tile (c.tileNo t)).at r (8 * q.toNat + j)))))

/-- MCLR (15 R356). -/
def execMclr (t : BitVec 4) (s : State) : Out :=
  tileOp s (.mclr t) t none true (fun c =>
    (s.setTile c.t (c.tileNo t) { int := tileOf c.issue.hints, el := [] }).retire c (.mclr t) (fun _ => []))

/-! ### Loops and conversions -/

/-- An engine operation of the chunk claims its entry (15 R348). -/
def claim (s : State) (c : Ctx) (i : Instr) (o : Op) : Out :=
  let core := c.T.place.coreNo
  match (s.coreAt core).freeOp with
  | none => .next (s.stallOnce c i 96 Core.fullIssue [.board])
  | some e =>
    let S := (c.S.onChunk (fun k => { k with copies := k.copies ++ [e] })).endStall 96 c.mask
    (s.onCore core (fun C => { C with ops := C.ops.set e o })).retire { c with S := S } i (fun _ => [])

/-- Registers of the set's lowest live lane. -/
def Ctx.leader (c : Ctx) (r : Nat) : Nat := (c.S.read ((lowLane c.S.live).getD 0) r).toNat

/-- The least and the greatest start of the blocks of a loop (15 R353). -/
def blockSpan (base : Nat) (inc : Int) (n : Nat) : Int × Int :=
  let last := (base : Int) + 128 * ((n : Int) - 1) * inc
  (min (base : Int) last, max (base : Int) last)

/-- Bytes of a block. -/
def blockSize (f : Nat) : Nat := if f = 4 then 1152 else 1024

/-- MLOOP (15 R352, R353): cause 0x44 with the lowest reason of Table 15-3. -/
def execMloop (t : BitVec 4) (a : BitVec 7) (f : BitVec 3) (s : State) : Out :=
  tileOp s (.mloop t a f) t (some (f == 5)) false (fun c =>
    let w (k : Nat) := c.leader (a.toNat + k)
    let n := nfld (w 3) 0 13
    let ai := sextNat 16 (w 2)
    let bi := sextNat 16 (w 2 / 2 ^ 16)
    let (a0, a1) := blockSpan (w 0) ai n
    let (b0, b1) := blockSpan (w 1) bi n
    let S : Int := (blockSize f.toNat : Nat)
    let size : Int := (c.T.spadSize : Nat)
    let bad (r : Nat) : Out := .next (s.raise c c.mask 0x44 r 0 0)
    if nfld (w 3) 13 3 != 0 || w 3 / 2 ^ 17 != 0 || w 0 / 2 ^ 19 != 0 || w 1 / 2 ^ 19 != 0 then bad 1
    else if n = 0 || decide (4096 < n) then bad 2
    else if w 0 % 128 != 0 || w 1 % 128 != 0 then bad 3
    else if a0 < 0 || b0 < 0 || decide (size < a1 + S) || decide (size < b1 + S) then bad 5
    else
      claim s c (.mloop t a f)
        { Op0 with
          kind := .mloop, pc := c.issue.group, troupe := c.t, set := c.k, tile := c.tileNo t, fmt := f.toNat
          ivals := [{ lo := a0.toNat, hi := (a1 + S).toNat, write := false }, { lo := b0.toNat, hi := (b1 + S).toNat, write := false }]
          args := [w 0, w 1, w 2, n, nfld (w 3) 16 1] })

/-- MCVT (15 R357). -/
def execMcvt (t : BitVec 4) (a b : BitVec 7) (f : BitVec 3) (s : State) : Out :=
  tileOp s (.mcvt t a b f) t none false (fun c =>
    let o := c.leader a.toNat
    let p := c.leader b.toNat
    let row := mcvtRow f.toNat
    let (mode, sat) := roundOf c.issue.hints
    let bad (r : Nat) : Out := .next (s.raise c c.mask 0x44 r 0 0)
    if o / 2 ^ 19 != 0 then bad 1
    else if o % 16 != 0 then bad 3
    else if p % 16 != 0 || decide (p < row) then bad 4
    else if c.T.spadSize < o + 31 * p + row then bad 5
    else
      claim s c (.mcvt t a b f)
        { Op0 with
          kind := .mcvt, pc := c.issue.group, troupe := c.t, set := c.k, tile := c.tileNo t, fmt := f.toNat, sp := o
          ivals := [{ lo := o, hi := o + 31 * p + row, write := true }]
          args := [c.leader (a.toNat + 1), p, mode, b2n sat] })

/-- May a tile operation run: at its position, after every earlier one on its tile has retired (15 R349) and every earlier one of the core
has been served (15 R350), admitted by the scoreboard? -/
def Core.tileReady (C : Core) (o : Op) : Bool :=
  o.phase == .placed && C.admits o &&
    !C.ops.any (fun e => !e.2.kind.isCopy && e.2.standing && decide (e.2.pos < o.pos) &&
      (e.2.phase == .placed || (e.2.onTile o.troupe o.tile && !e.2.retired)))

/-- MLOOP_RUN (15 R354). -/
def execMloopRun (core e : Nat) (s : State) : Out :=
  let C := s.coreAt core
  match C.ops.get? e with
  | some o =>
    match s.troupes.get? o.troupe with
    | some T =>
      if o.kind != .mloop || !C.tileReady o then .next s
      else
        let x (k : Nat) := o.args.getD k 0
        let start : Tile := if x 4 = 1 then { T.tile o.tile with el := [] } else T.tile o.tile
        let block (base : Nat) (inc : Int) (i : Nat) : MatOperand := s.block o.troupe (((base : Int) + 128 * (i : Int) * inc).toNat)
        let t := (List.range (x 3)).foldl (fun t i =>
          matStep o.fmt t (block (x 0) (sextNat 16 (x 2)) i) (block (x 1) (sextNat 16 (x 2 / 2 ^ 16)) i)) start
        .next (((s.setTile o.troupe o.tile t).onCore core (fun C => { C with steps := (C.steps + x 3) % 2 ^ 32 })).onOp core e
          (fun o => { o with phase := .moved }))
    | none => .next s
  | none => .next s

/-- One element of an mcvt (15 R358): its code in the destination format. -/
def mcvtCode (f mode : Nat) (satur : Bool) (t : Tile) (x : Word) (r c : Nat) : Nat :=
  let e := if t.int then ofInteger (t.at r c).toInt else f32 (t.at r c)
  let v := Fp.mul e (f32 x)
  match f with
  | 0 => bf16.narrow mode satur 0 v
  | 1 => fp16.narrow mode satur 0 v
  | 2 => e4m3.narrow mode satur 0 v
  | 3 => e5m2.narrow mode satur 0 v
  | 4 => e2m1.narrow mode satur 0 v
  | 5 => wrap 8 (toInteger mode 0 (-128) 127 v)
  | 6 => fp32.narrow mode satur 0 v
  | _ => wrap 32 (toInteger mode 0 (-(2 ^ 31)) (2 ^ 31 - 1) v)

/-- A row of an mcvt. -/
def mcvtRowBytes (f mode : Nat) (satur : Bool) (t : Tile) (x : Word) (r : Nat) : List Byte :=
  let bits := mcvtRow f * 8 / 32
  leBytes (mcvtRow f) ((List.range 32).foldl (fun n c => n + mcvtCode f mode satur t x r c * 2 ^ (bits * c)) 0)

/-- MCVT_RUN (15 R358). -/
def execMcvtRun (core e : Nat) (s : State) : Out :=
  let C := s.coreAt core
  match C.ops.get? e with
  | some o =>
    match s.troupes.get? o.troupe with
    | some T =>
      if o.kind != .mcvt || !C.tileReady o then .next s
      else
        let x (k : Nat) := o.args.getD k 0
        let t := T.tile o.tile
        let s := s.onTroupe o.troupe (fun T => (List.range 32).foldl (fun (T : Troupe) r =>
          T.putBytes (o.sp + r * x 1) (mcvtRowBytes o.fmt (x 2) (x 3 == 1) t (BitVec.ofNat 32 (x 0)) r)) T)
        let s := s.onOp core e (fun o => { o with phase := .moved })
        .next (s.fillLines core o.troupe o.lines)
    | none => .next s
  | none => .next s

/-- TILE_OP_RETIRE: a loop completes; a conversion gives its tile back (15 R349, R354). -/
def execTileOpRetire (core e : Nat) (s : State) : Out :=
  match (s.coreAt core).ops.get? e with
  | some o =>
    if o.phase != .moved then .next s
    else match o.kind with
      | .mloop => .next (s.completeOp core e)
      | .mcvt => .next (s.onOp core e (fun o => { o with retired := true }))
      | _ => .next s
  | none => .next s

end Sys2Proof.Machine
end

