-- ==== Sys2Proof/Machine/Cue.lean ====
section
/-! DEFINITION. Cue arithmetic, immediates, moves and special values, and the control flow of both streams
(16 R363-R379). -/

namespace Sys2Proof.Machine

/-- The hints of the issue in progress. -/
def State.hints (s : State) : List (Nat × BitVec 22) := (s.cur.map (·.hints)).getD []

/-! ### Cue arithmetic (16 R365-R369) -/

/-- One uniform register from two. -/
def cue2 (s : State) (d : BitVec 9) (a b : BitVec 8) (f : DWord → DWord → DWord) : Out :=
  cueOp s d.toNat (fun g => f (g a.toNat) (g b.toNat))

/-- SADD. -/
def execSadd (d : BitVec 9) (a b : BitVec 8) (s : State) : Out := cue2 s d a b (· + ·)

/-- SSUB. -/
def execSsub (d : BitVec 9) (a b : BitVec 8) (s : State) : Out := cue2 s d a b (· - ·)

/-- SMUL. -/
def execSmul (d : BitVec 9) (a b : BitVec 8) (s : State) : Out := cue2 s d a b (· * ·)

/-- SMULHI: the high word of the signed product. -/
def execSmulhi (d : BitVec 9) (a b : BitVec 8) (s : State) : Out :=
  cue2 s d a b (fun x y => BitVec.ofInt 64 (x.toInt * y.toInt / 2 ^ 64))

/-- sdiv and srem (16 R368): the troupe's trap mask acts in a cue stream, and a prologue never traps. -/
def cueDiv (s : State) (d : BitVec 9) (a b : BitVec 8) (f : DWord × DWord × Bool × Bool → DWord) : Out :=
  let go := cue2 s d a b (fun x y => f (divide true x y))
  match s.cueIssue? with
  | some (t, T, u) =>
    let r := divide true (T.gets a.toNat) (T.gets b.toNat)
    if cueCan s T && T.amask.getLsbD 0 && r.2.2.1 then s.cueTrap t u 0x08 0 0 0
    else if cueCan s T && T.amask.getLsbD 1 && r.2.2.2 then s.cueTrap t u 0x09 0 0 0
    else go
  | none => go

/-- SDIV. -/
def execSdiv (d : BitVec 9) (a b : BitVec 8) (s : State) : Out := cueDiv s d a b (fun r => r.1)

/-- SREM. -/
def execSrem (d : BitVec 9) (a b : BitVec 8) (s : State) : Out := cueDiv s d a b (fun r => r.2.1)

/-- SMIN. -/
def execSmin (d : BitVec 9) (a b : BitVec 8) (s : State) : Out := cue2 s d a b (fun x y => if y.slt x then y else x)

/-- SMAX. -/
def execSmax (d : BitVec 9) (a b : BitVec 8) (s : State) : Out := cue2 s d a b (fun x y => if x.slt y then y else x)

/-- SAND. -/
def execSand (d : BitVec 9) (a b : BitVec 8) (s : State) : Out := cue2 s d a b (· &&& ·)

/-- SOR. -/
def execSor (d : BitVec 9) (a b : BitVec 8) (s : State) : Out := cue2 s d a b (· ||| ·)

/-- SXOR. -/
def execSxor (d : BitVec 9) (a b : BitVec 8) (s : State) : Out := cue2 s d a b (· ^^^ ·)

/-- SANDN. -/
def execSandn (d : BitVec 9) (a b : BitVec 8) (s : State) : Out := cue2 s d a b (fun x y => x &&& ~~~ y)

/-- SSHL: the count is taken in full. -/
def execSshl (d : BitVec 9) (a b : BitVec 8) (s : State) : Out :=
  cue2 s d a b (fun x y => if y.toNat < 64 then x <<< y.toNat else 0)

/-- SSHR. -/
def execSshr (d : BitVec 9) (a b : BitVec 8) (s : State) : Out :=
  cue2 s d a b (fun x y => if y.toNat < 64 then x >>> y.toNat else 0)

/-- SSRA. -/
def execSsra (d : BitVec 9) (a b : BitVec 8) (s : State) : Out :=
  cue2 s d a b (fun x y => if y.toNat < 64 then x.sshiftRight y.toNat else if x.toInt < 0 then BitVec.allOnes 64 else 0)

/-- Position and length of the field rule (16 R367). -/
def fieldOf (b : DWord) : Nat × Nat := (min (nfld b.toNat 0 8) 64, min (nfld b.toNat 8 8) 64)

/-- SBFX. -/
def execSbfx (d : BitVec 9) (a b : BitVec 8) (s : State) : Out :=
  cue2 s d a b (fun x y => extract (y.getLsbD 16) x (fieldOf y).1 (fieldOf y).2)

/-- SBFI. -/
def execSbfi (d : BitVec 9) (a b : BitVec 8) (s : State) : Out :=
  cueOp s d.toNat (fun g => insertField (g d.toNat) (g a.toNat) (fieldOf (g b.toNat)).1 (fieldOf (g b.toNat)).2)

/-- SCMP: bit c is condition c of the cmp column of 02 Table 2-2 (16 R369). -/
def execScmp (d : BitVec 9) (a b : BitVec 8) (s : State) : Out :=
  cue2 s d a b (fun x y => BitVec.ofNat 64 (((List.range 12).filter (fun c => intCond c x y)).foldl (fun n c => n + 2 ^ c) 0))

/-- SSEL: the old value of the destination selects. -/
def execSsel (d : BitVec 9) (a b : BitVec 8) (s : State) : Out :=
  cueOp s d.toNat (fun g => if g d.toNat != 0 then g a.toNat else g b.toNat)

/-- SCLZ. -/
def execSclz (d : BitVec 9) (a : BitVec 8) (s : State) : Out :=
  cueOp s d.toNat (fun g => BitVec.ofNat 64 (clzN (g a.toNat)))

/-! ### Immediates, moves, literals, special values (16 R370, R371) -/

/-- SADDI. -/
def execSaddi (d : BitVec 9) (a i : BitVec 8) (s : State) : Out :=
  cueOp s d.toNat (fun g => g a.toNat + BitVec.ofInt 64 (immS s.hints 8 i.toNat))

/-- SLI. -/
def execSli (d : BitVec 9) (i : BitVec 16) (s : State) : Out :=
  cueOp s d.toNat (fun _ => BitVec.ofInt 64 (immS s.hints 16 i.toNat))

/-- SLUI: the high half, keeping the low one. -/
def execSlui (d : BitVec 9) (i : BitVec 16) (s : State) : Out :=
  cueOp s d.toNat (fun g => pair ((g d.toNat).extractLsb' 0 32) (BitVec.ofInt 32 (immS s.hints 16 i.toNat)))

/-- SMOV. -/
def execSmov (d a : BitVec 9) (s : State) : Out := cueOp s d.toNat (fun g => g a.toNat)

/-- SLDC (02 R44): outside the code and literal sections, illegal instruction with reason 0x0B. -/
def execSldc (d : BitVec 9) (i : BitVec 16) (s : State) : Out :=
  match s.cur with
  | none => .fault .noIssuer
  | some u =>
    let off : Int := ((u.word : Int) + 8 * immS u.hints 16 i.toNat) / 8 * 8
    match s.codeOf u.agent with
    | some code =>
      if decide (0 ≤ off) && code.desc.inObject off.toNat 8 then
        match s.fetchBad code off.toNat with
        | some cause => .next ((s.unread u off.toNat cause).getD s.endIssue)
        | none =>
          let x := BitVec.ofNat 64 (leNat (s.codeBytes code off.toNat 8))
          afterFetch code off.toNat 8 (cueOp s d.toNat (fun _ => x))
      else match s.raiseAny 0x01 0x0B 0 with
        | some t => .next t
        | none => .fault .noIssuer
    | none => .next s.endIssue

/-- Coordinates of a company in its grid (12 R286). -/
def Launch.coord (L : Launch) (c axis : Nat) : Nat :=
  let (gx, gy, _) := L.grid
  match axis with
  | 0 => c % gx
  | 1 => c / gx % gy
  | _ => c / gx / gy

/-- Grid extent along an axis. -/
def Launch.extent (L : Launch) (axis : Nat) : Nat :=
  let (gx, gy, gz) := L.grid
  match axis with
  | 0 => gx
  | 1 => gy
  | _ => gz

/-- A cue special value (16 Table 16-3). -/
def State.cueSpecial (s : State) (T : Troupe) (n : Nat) : Nat :=
  let L := s.launchOf T
  match n with
  | 0x04 => T.index
  | 0x05 => T.company
  | 0x06 => L.coord T.company 0
  | 0x07 => L.coord T.company 1
  | 0x08 => L.coord T.company 2
  | 0x10 => T.sets
  | 0x11 => L.desc.troupes
  | 0x12 => L.extent 0
  | 0x13 => L.extent 1
  | 0x14 => L.extent 2
  | 0x40 => s.cycle.toNat
  | 0x42 => T.place.tag
  | 0x43 => T.place.slice
  | 0x44 => L.world
  | _ => T.setTab.foldl (fun m (e : Nat × SetState) => m + (if e.2.alive then 2 ^ e.1 else 0)) 0

/-- SYSR of the cue stream. -/
def execCueSysr (d : BitVec 9) (i : BitVec 16) (s : State) : Out :=
  match s.cueIssue? with
  | some (_, T, _) => cueOp s d.toNat (fun _ => BitVec.ofNat 64 (s.cueSpecial T i.toNat))
  | none => .fault .noIssuer

/-! ### Cue control flow (16 R364, R372-R375) -/

/-- Is an address in the code section of what an agent runs (16 R364)? -/
def State.codeHas (s : State) (a : Agent) (x : Int) : Bool :=
  match s.codeOf a with
  | some c => decide (0 ≤ x) && c.desc.inCode x.toNat
  | none => false

/-- A branch of the cue stream or of a prologue run; `link` writes s12. -/
def cueJump (s : State) (o : BitVec 19) (taken : (Nat → DWord) → Bool) (link : Bool) : Out :=
  match s.cueIssue?, s.prologue? with
  | some (t, T, u), _ =>
    if !cueCan s T then .next s.endIssue
    else if !taken T.gets then s.cueNext t u
    else
      let x := sbTarget u o
      if s.codeHas u.agent x then
        .next (s.cueTo t x.toNat (fun T => if link then T.write 0 12 (BitVec.ofNat 64 (u.word + 4)) else T.tick))
      else s.cueTrap t u 0x0A 1 (wrap 64 x) 0
  | none, some (l, L, u) =>
    if !taken (fun r => L.s.getD r 0) then .next (s.prologueNext l (u.word + 4) id)
    else
      let x := sbTarget u o
      if s.codeHas u.agent x then .next (s.prologueNext l x.toNat id) else .next (s.prologueFault l 5 0x0A 0 (wrap 64 x))
  | none, none => .fault .noIssuer

/-- SBRA (02 R34). -/
def execSbra (c : BitVec 5) (q : BitVec 1) (o : BitVec 19) (s : State) : Out :=
  cueJump s o (fun g => (g c.toNat != 0) == (q == 1)) false

/-- SJMP. -/
def execSjmp (o : BitVec 19) (s : State) : Out := cueJump s o (fun _ => true) false

/-- SCALL: s12 holds the return address. -/
def execScall (o : BitVec 19) (s : State) : Out := cueJump s o (fun _ => true) true

/-- A computed cue target's failure, in the order of 16 R364: cause and reason. -/
def State.cueTargetBad (s : State) (a : Agent) (x : Nat) : Option (Nat × Nat) :=
  if x % 4 != 0 then some (0x01, 0x0C)
  else if x / 2 ^ 32 != 0 then some (0x0A, 2)
  else if !s.codeHas a x then some (0x0A, 1)
  else none

/-- SRET (16 R373). -/
def execSret (a : BitVec 8) (s : State) : Out :=
  cueDo s (fun t T u =>
    let x := (T.gets a.toNat).toNat
    match s.cueTargetBad u.agent x with
    | some (cause, reason) => s.cueTrap t u cause reason x 0
    | none => .next (s.cueTo t x Troupe.tick))

/-- SEXIT (16 R374): waits for the stream's tensor copies, then ends it; misuse in a handler (22 R450). -/
def execSexit (s : State) : Out :=
  cueDo s (fun t T u =>
    if T.cue.handler.isSome then s.cueTrap t u 0x0B 2 0 0
    else if (s.coreAt T.place.coreNo).ops.any (fun e => e.2.troupe == t && e.2.set == 0xFF) then .next s.endIssue
    else .next (s.onCue t (fun C => { C with ended := true, win := [], pc := u.word + 4 })).endIssue)

/-- SYIELD (16 R375): the front end skips the troupe until its period has passed. -/
def execSyield (s : State) : Out :=
  cueDo s (fun t _ u => .next ((s.cueTo t (u.word + 4) Troupe.tick).onCue t (fun C => { C with idle := true })))

/-! ### Step control flow (16 R376-R379) -/

/-- Threads of a mask branch to one address, which is checked for them alone. -/
def State.branch (s : State) (c : Ctx) (i : Instr) (o : BitVec 19) (taken : Word) (regs : Nat → List (Nat × Word)) : Out :=
  let x := sbTarget c.issue o
  if taken != 0 && !s.codeHas c.issue.agent x then .next (s.raise c taken 0x0A 1 (wrap 64 x) 0)
  else
    .next (s.done c (SetState.retire c i regs (fun _ th => th)
      (fun j => if inMask taken j then x.toNat else c.next)))

/-- BRA (02 R32). -/
def execBra (p : BitVec 5) (q : BitVec 1) (o : BitVec 19) (s : State) : Out :=
  stepOp s (.bra p q o) (fun c =>
    s.branch c (.bra p q o) o (maskOf (fun j => inMask c.mask j && (c.S.lane j).pred p.toNat == (q == 1))) (fun _ => []))

/-- CALL: v7 holds the return address. -/
def execCall (o : BitVec 19) (s : State) : Out :=
  stepOp s (.call o) (fun c => s.branch c (.call o) o c.mask (fun _ => [(7, BitVec.ofNat 32 c.next)]))

/-- brx and ret: each active thread goes to its own address (16 R377). -/
def computed (i : Instr) (a : BitVec 7) (s : State) : Out :=
  stepOp s i (fun c =>
    let x (j : Nat) := (c.rd j a).toNat
    s.orRaise c (badLanes c.lanes (fun j =>
      let bad (cause reason : Nat) : Option LaneBad :=
        some { lane := j, cause := cause, reason := reason, addr := x j, info := 0 }
      if x j % 4 != 0 then bad 0x01 0x0C else if !s.codeHas c.issue.agent (x j) then bad 0x0A 1 else none)) (fun _ =>
    .next (s.done c (SetState.retire c i (fun _ => []) (fun _ th => th)
      (fun j => if inMask c.act j then x j else c.next)))))

/-- BRX. -/
def execBrx (a : BitVec 7) (g : BitVec 3) (s : State) : Out := computed (.brx a g) a s

/-- RET. -/
def execRet (a : BitVec 7) (g : BitVec 3) (s : State) : Out := computed (.ret a g) a s

/-- EXIT (16 R378): the active threads end and the chunk closes; those of a near-bank unit after their stores (18 R396); in a handler the
interrupted threads of those lanes end too (22 R449). -/
def execExit (g : BitVec 3) (s : State) : Out :=
  stepOp s (.exit g) (fun c =>
    let S := SetState.retire c (.exit g) (fun _ => []) (fun _ th => { th with live := false, win := [] }) (fun _ => c.next)
    if c.act = 0 then .next (s.done c S)
    else if s.nbStores c.t c.k c.T then .next (s.hold c c.mask (.until [.nbStores]))
    else
      let ended (h : Saved) : Saved :=
        { h with threads := h.threads.mapIdx (fun j th => if inMask c.act j then { th with live := false, win := [] } else th) }
      let S : SetState := { S with handler := if S.live = 0 then none else S.handler.map ended }
      .next (s.done c S.close))

/-- JOIN (16 R379): active threads wait until every live thread of the set stands here, or until their time has passed;
on a near-bank unit it is nop. -/
def execJoin (g : BitVec 3) (s : State) : Out :=
  stepOp s (.join g) (fun c =>
    let live := c.S.live
    let all := (lanesOf live).all (fun j => (c.S.lane j).pc == c.issue.group)
    if c.T.place.isUnit || c.act = 0 then s.retire c (.join g) (fun _ => [])
    else if all then
      let others := live &&& ~~~ c.mask
      let S : SetState := { c.S.holding others .ready with joined := (BitVec.ofNat 32 c.S.joined &&& ~~~ c.mask ||| others).toNat }
      s.retire { c with S := S } (.join g) (fun _ => [])
    else
      let free := BitVec.ofNat 32 c.S.joined
      let no := c.lanes.filter (fun j => !inMask free j)
      let m := maskOf (fun j => no.contains j)
      if m == c.mask then .next (s.hold c m .join)
      else
        let S : SetState := { c.S.holding m .join with joined := (free &&& ~~~ c.mask).toNat }
        s.retire { c with S := S, mask := c.mask &&& ~~~ m, act := c.act &&& ~~~ m } (.join g) (fun _ => []))

/-- YIELD: the active threads are not ready until their period has passed. -/
def execYield (g : BitVec 3) (s : State) : Out :=
  stepOp s (.yield g) (fun c =>
    .next (s.done c ((SetState.retire c (.yield g) (fun _ => []) (fun _ th => th) (fun _ => c.next)).holding c.act .yield)))

/-- NOP. -/
def execNop (g : BitVec 3) (s : State) : Out := vecOp s (.nop g) (fun _ _ => [])

/-- JOIN_TIMEOUT: threads that have waited 64 cycles at a join proceed (16 R379). -/
def execJoinTimeout (t k : Nat) (s : State) : Out :=
  .next (s.onSet t k (fun S =>
    let m := maskOf (fun j => (S.lane j).hold == .join)
    { S.holding m .ready with joined := (BitVec.ofNat 32 S.joined ||| m).toNat }))

/-- YIELD_EXPIRY: yielding threads are ready again; set 255 names the cue stream of a syield (16 R375, R379). -/
def execYieldExpiry (t k : Nat) (s : State) : Out :=
  if k = 255 then .next (s.onCue t (fun C => { C with idle := false }))
  else .next (s.onSet t k (fun S => S.holding (maskOf (fun j => (S.lane j).hold == .yield)) .ready))

/-- HINT (02 R37): the hint joins its group, and the group's next word is fetched. -/
def execHint (k : BitVec 3) (p : BitVec 22) (s : State) : Out :=
  match s.cur with
  | some u => .next { s with cur := some { u with word := u.word + 4, hints := u.hints ++ [(k.toNat, p)] } }
  | none => .fault .noIssuer

/-- ILLEGAL_INSTRUCTION (02 R53): a word that does not decode, with its reason. -/
def execIllegalInstruction (reason : Nat) (s : State) : Out :=
  match s.raiseAny 0x01 reason 0 with
  | some t => .next t
  | none => .fault .noIssuer

end Sys2Proof.Machine
end

