-- ==== Sys2Proof/Machine/CueMem.lean ====
section
/-! DEFINITION. The memory, synchronisation and queue instructions of the cue stream (11 R253-R257, R267, R270-R272; 10 R225;
09 R207-R210). -/

namespace Sys2Proof.Machine

/-- A cue access of the launch is checked and goes on with its device address. -/
def State.cueAccess (s : State) (t : Nat) (u : Issue) (L : Launch) (k : Kind) (va n : Nat) (go : Nat → Out) : Out :=
  match s.cueAddr L k va n with
  | .error (cause, reason) => s.cueTrap t u cause reason va 0
  | .ok dpa => go dpa

/-- A cue read of memory that goes on with its value. -/
def State.cueReads (s : State) (t : Nat) (u : Issue) (T : Troupe) (va dpa n l1 msc : Nat) (go : State → Nat → Out) : Out :=
  match s.cueRead t T va dpa n (isSystem u.hints) l1 msc with
  | .wait s ws => .next (s.cueStall t ws)
  | .fault s cause reason => (s.cueForget t).cueTrap t u cause reason va 0
  | .value s x => go (s.cueForget t) x

/-- The read of a prologue sld (16 R387): its value, a wait, or a cause. A stage-two fault of its live walk waits for the answer (07
R161). -/
def State.prologueRead (s : State) (l : Nat) (L : Launch) (va : Nat) : CueRead :=
  let es := (s.world L.world).leases.filter (fun (e : Nat × Lease) => e.2.tcid == L.tcid && e.2.covers va)
  let page : Except WalkErr (Option Page) :=
    match es.find? (fun e => !e.2.streamed), es.head? with
    | some e, _ => .ok (some (e.2.page va))
    | none, some _ => (s.walk L.world L.tcid va).map some
    | none, none => .ok none
  let s := if !es.isEmpty && es.all (fun e => e.2.streamed) then s.readTables L.world L.tcid va else s
  match page with
  | .error .one => .fault s 0x24 0
  | .error e => .wait (s.awaitTwo l va e) []
  | .ok none => .fault s 0x20 0
  | .ok (some p) =>
    if va % 8 != 0 then .fault s 0x29 0
    else
      match s.pageBad .load va p with
      | some (c, _) => .fault s c 0
      | none =>
        let a := p.dpa + va % 4096
        if isOutside a && !s.live L.world L.tcid va a && (isHost a || !s.ctl.poolc || (s.copies.get? (lineKey L.world (a / 128))).isNone) then
          match L.answers.get? 0 with
          | some x => match answerBad x with
            | some b => .fault s b.1 b.2
            | none => .value s x
          | none =>
            if s.requests.any (fun e => e.2.owner == .launch l) || !s.mayRead L.world a then .wait s []
            else .wait (s.send (.read 8) (.launch l) L.world a l) []
        else if s.anyUnverified L.world [a / 128] then .wait s []
        else s.cueHome L.world a 8 0

/-- SLD (11 R270), in a cue stream or a prologue (16 R387). -/
def execSld (d : BitVec 9) (a : BitVec 8) (o h : BitVec 4) (s : State) : Out :=
  match s.prologue? with
  | some (l, L, u) =>
    let va := wrap 64 ((L.s.getD a.toNat 0).toNat + off4 u.hints o.toNat)
    match s.prologueRead l L va with
    | .wait s _ => .next s.endIssue
    | .fault s c _ => .next (s.prologueFault l 3 c 0 va)
    | .value s x => .next (s.prologueWrite l (u.word + 4) h.toNat d.toNat (BitVec.ofNat 64 x) (fun L => { L with answers := [] }))
  | none =>
    cueDo s (fun t T u =>
      let va := cueVa T u a o
      let (l1, msc) := cacheOf u.hints
      s.cueAccess t u (s.launchOf T) .load va 8 (fun dpa =>
        s.cueReads t u T va dpa 8 l1 msc (fun s x =>
          (s.cueSample T va 0).cueWrite t u h.toNat d.toNat (BitVec.ofNat 64 x))))

/-- A cue write to a buffer: sealed, it traps; draining, it waits (06 Table 6-6). -/
def State.cueUnsealed (s : State) (t : Nat) (u : Issue) (L : Launch) (va : Nat) (go : Unit → Out) : Out :=
  match s.sealState L.world L.tcid va with
  | 0 => go ()
  | 1 => s.cueTrap t u 0x2D 1 va 0
  | _ => .next (s.cueStall t [.unsealed L.world L.tcid va])

/-- The cue stream's request is out, answered, or still to be sent. -/
def State.cueAnswer (s : State) (t : Nat) (u : Issue) (va : Nat) (ask : Unit → State) (go : State → Nat → Out) : Out :=
  match (s.troupes.get? t).bind (fun T => T.cue.answers.get? 0) with
  | some x => match answerBad x with
    | some b => (s.cueForget t).cueTrap t u b.1 b.2 va 0
    | none => go (s.cueForget t) x
  | none =>
    let s := if s.cueAsked t then s else ask ()
    .next (s.cueStall t (if s.cueAsked t then [.answer 0] else []))

/-- A write that has not been performed yet meets its buffer's state; one that has an answer does not (11 R272). -/
def State.cueStill (s : State) (t : Nat) (u : Issue) (L : Launch) (T : Troupe) (va : Nat) (go : Unit → Out) : Out :=
  if (T.cue.answers.get? 0).isSome || s.cueAsked t then go () else s.cueUnsealed t u L va go

/-- The commit of an `sst` at system scope (10 R225, R229; 19 R405): its line is written at a home that may hold it, and its readers see it,
before it leaves for its target; a cause, or `none` while the line is held back. -/
def State.sstCommit (s : State) (w core : Nat) (bytes : Tab Byte) (l1 msc : Nat) : Option (Except Nat State) :=
  match bytes with
  | [] => some (.ok s)
  | (a, _) :: _ =>
    if s.lineBusy w (a / 128) then none
    else if s.linkDown w a then some (.error 0x50)
    else if !s.ctl.poolc then some (.ok (s.expose w [a / 128]))
    else (s.writeLine w bytes msc (if l1 < 2 then some core else none)).map (fun r => match r with
      | (s', []) => .ok s'
      | (_, (_, c) :: _) => .error c)

/-- SST (11 R270): a chunk of one line; at system scope it goes on to its target, whose answer it waits for (10 R225, R229; log 72). -/
def execSst (d : BitVec 9) (a : BitVec 8) (o : BitVec 4) (s : State) : Out :=
  cueDo s (fun t T u =>
    let L := s.launchOf T
    let va := cueVa T u a o
    s.cueAccess t u L .store va 8 (fun dpa =>
    s.cueStill t u L T va (fun _ =>
      let bytes := leBytes 8 (T.gets d.toNat).toNat
      let (l1, msc) := cacheOf u.hints
      let busy := s.cueStall t [.clear L.world (dpa / 128)]
      if s.atTarget (isSystem u.hints) dpa then
        if (T.cue.answers.get? 0).isSome || s.cueAsked t then
          s.cueAnswer t u va (fun _ => s) (fun s _ => (s.cueSample T va 1).cueNext t u)
        else
          match s.sstCommit L.world T.place.coreNo (runTab dpa bytes) l1 msc with
          | none => .next busy
          | some (.error c) => s.cueTrap t u c 0 va 0
          | some (.ok s') => .next ((s'.send (.write bytes) (.cue t) L.world dpa T.launch).cueStall t [.answer 0])
      else if s.contained L.world dpa then s.cueTrap t u 0x50 0 va 0
      else
        match (s.cueSample T va 1).writeLine L.world (runTab dpa bytes) msc (if l1 < 2 then some T.place.coreNo else none) with
        | none => .next busy
        | some (s', []) => s'.cueNext t u
        | some (s', (_, c) :: _) => s'.cueTrap t u c 0 va 0)))

/-- SAMO (11 R271): an atomic at its home or, at system scope, at its target. -/
def execSamo (d : BitVec 9) (a : BitVec 8) (o h : BitVec 4) (s : State) : Out :=
  cueDo s (fun t T u =>
    let L := s.launchOf T
    let va := cueVa T u a o
    let x (k : Nat) := (T.gets (d.toNat + k)).toNat
    let op := nfld (x 1) 0 4
    let w := if bitAt (x 1) 4 then 4 else 8
    let cut (v : Nat) := v % 2 ^ (8 * w)
    let (cmp, val) := if op = 9 then (cut (x 0), cut (x 2)) else (0, cut (x 0))
    if decide (10 < op) || x 1 / 32 != 0 || (op = 10 && w = 8) || (op = 9 && decide (T.uregs ≤ d.toNat + 2)) then
      s.cueTrap t u 0x2A 3 va 0
    else
      s.cueAccess t u L .store va w (fun dpa =>
      s.cueStill t u L T va (fun _ =>
        let far := s.far L (isSystem u.hints) va dpa
        let take (s : State) (old : Nat) : Out :=
          (s.cueSample T va 2).cueWrite t u h.toNat d.toNat (BitVec.ofNat 64 old)
        match (if far then farAtomicBad op dpa else none) with
        | some r => s.cueTrap t u 0x2A r va 0
        | none =>
          s.cueAnswer t u va (fun _ =>
            if far then s.send (.atomic op w cmp val) (.cue t) L.world dpa T.launch va
            else if 128 ≤ s.queued (s.home L.world (dpa / 128)) || s.redsHeld s.drains (s.home L.world (dpa / 128)) then s
            else
              let e : Atomic :=
                { seq := 0, asker := .cue t, world := L.world, tcid := L.tcid, va := va, dpa := dpa, op := op, width := w, cmp := cmp
                  val := val }
              s.enqueue e) take)))

/-- SFENCE (11 R257): at system scope, every earlier system-scope access of the cue stream is acknowledged. -/
def execSfence (s : State) : Out :=
  cueDo s (fun t _ u => if isSystem u.hints && s.cueAsked t then .next (s.cueStall t [.acked]) else s.cueNext t u)

/-- SWAIT (11 R255). -/
def execSwait (d : BitVec 9) (a : BitVec 8) (o : BitVec 4) (s : State) : Out :=
  cueDo s (fun t T u =>
    let ctl := (T.gets d.toNat).toNat
    let va := cueVa T u a o
    let holds (x : Nat) : Bool := waitCond (nfld ctl 32 3) (BitVec.ofNat 32 x) (BitVec.ofNat 32 ctl)
    if ctl / 2 ^ 36 != 0 || nfld ctl 32 3 == 7 then s.cueTrap t u 0x61 0 va 0
    else if bitAt ctl 35 then
      if va / 2 ^ 32 != 0 then s.cueTrap t u 0x28 2 va 0
      else if va % 4 != 0 then s.cueTrap t u 0x29 0 va 1
      else
        match s.spadAt t T va 4 with
        | .error r => s.cueTrap t u 0x28 r va 0
        | .ok (x, off) =>
          if s.lineFull x off && holds (leNat (s.spadBytes x off 4)) then s.cueNext t u
          else .next (s.cueStall t [.pad x off (nfld ctl 32 3) (BitVec.ofNat 32 ctl)])
    else
      s.cueAccess t u (s.launchOf T) .load va 4 (fun dpa =>
        s.cueReads t u T va dpa 4 2 0 (fun s' x =>
          let far := s.far (s.launchOf T) (isSystem u.hints) va dpa
          let s' := if far then s' else s'.cueSample T va 0
          if holds x then s'.cueNext t u
          else .next (s'.cueStall t (if far then [] else
            [.word dpa (nfld ctl 32 3) (BitVec.ofNat 32 ctl)])))))

/-- SSEAL (11 R267). -/
def execSseal (a b : BitVec 8) (s : State) : Out :=
  cueDo s (fun t T u =>
    let L := s.launchOf T
    let va := (T.gets a.toNat).toNat
    let len := (T.gets b.toNat).toNat
    if va % 128 != 0 || len % 128 != 0 || len / 2 ^ 32 != 0 then s.cueTrap t u 0x2D 3 va 0
    else
      match s.sealRangeBad L va (max 1 len) with
      | some (cause, reason) => s.cueTrap t u cause reason va 0
      | none =>
        match s.withSeals.sealNow L.world L.tcid T.launch va len with
        | .error r => s.cueTrap t u 0x2D r va 0
        | .ok _ => (s.sealOr L.world L.tcid T.launch (va, len)).cueNext t u)

/-! ### Queues (09 R207-R210) -/

/-- The checks of a queue instruction: set number, and in scratchpad mode the address. -/
def State.queueBad (s : State) (t : Nat) (T : Troupe) (set x : Nat) (spad : Bool) : Option (Nat × Nat) :=
  if T.sets ≤ set then some (0x0E, 1)
  else if spad && x % 128 != 0 then some (0x0E, 2)
  else if spad then match s.spadAt t T x 128 with
    | .error r => some (0x28, r)
    | .ok _ => none
  else none

/-- QFILL (09 R208). -/
def execQfill (m : BitVec 1) (p : BitVec 3) (a b : BitVec 8) (s : State) : Out :=
  cueDo s (fun t T u =>
    let set := (T.gets b.toNat).toNat
    let v := (T.gets a.toNat).toNat
    let x := v % 2 ^ 32
    if T.cue.handler.isSome then s.cueTrap t u 0x0B 2 0 0
    else
      match s.queueBad t T set x (m == 1) with
      | some (cause, reason) => s.cueTrap t u cause reason (if cause = 0x28 || reason = 2 then x else 0) 0
      | none =>
        match T.setTab.get? set with
        | none => s.cueNext t u
        | some S =>
          let at' := match s.spadAt t T x 128 with
            | .ok p => p
            | .error _ => (t, 0)
          if !S.alive && (T.cue.answers.get? 2).isNone then s.cueNext t u
          else if !S.room p.toNat then
            .next ((s.onCue t (fun C => { C with answers := C.answers.set 2 1 })).cueStall t [.port set p.toNat true])
          else if m == 1 && !s.lineFull at'.1 at'.2 then
            .next ((s.onCue t (fun C => { C with answers := C.answers.set 2 1 })).cueStall t [.line at'.1 (at'.2 / 128)])
          else
            let words := (List.range 32).map (fun i =>
              if m == 1 then BitVec.ofNat 32 (leNat (s.spadBytes at'.1 (at'.2 + 4 * i) 4)) else BitVec.ofNat 32 v)
            ((s.cueForget t).onSet t set (fun S => S.push p.toNat { words := words, taken := 0, pushed := 0 })).cueNext t u)

/-- The head entry of a push port that has committed (09 R205). -/
def SetState.drainable (S : SetState) (j : Nat) : Option Entry :=
  match S.port j with
  | e :: _ => if e.pushed = 0 then some e else none
  | [] => none

/-- QDRAIN (09 R209). -/
def execQdrain (m : BitVec 1) (p : BitVec 3) (a b : BitVec 8) (s : State) : Out :=
  cueDo s (fun t T u =>
    let set := (T.gets b.toNat).toNat
    let x := (T.gets a.toNat).toNat % 2 ^ 32
    if T.cue.handler.isSome then s.cueTrap t u 0x0B 2 0 0
    else
      match s.queueBad t T set x (m == 1) with
      | some (cause, reason) => s.cueTrap t u cause reason (if cause = 0x28 || reason = 2 then x else 0) 0
      | none =>
        match T.setTab.get? set with
        | none => s.cueTrap t u 0x0E 3 0 0
        | some S =>
          match S.drainable p.toNat with
          | none => if S.alive then .next (s.cueStall t [.port set p.toNat false]) else s.cueTrap t u 0x0E 3 0 0
          | some e =>
            let pop (s : State) : State := s.onSet t set (fun S => { S with ports := modAt S.ports p.toNat (·.drop 1) })
            if m = 0 then (pop s).cueWrite t u 0 a.toNat (BitVec.ofNat 64 (e.words.headD 0).toNat)
            else
              let (v, off) := match s.spadAt t T x 128 with
                | .ok p => p
                | .error _ => (t, 0)
              if !s.spadFree v off (off + 128) then .next (s.cueStall t [.unread v off (off + 128)])
              else
                let bytes := e.words.flatMap (fun w => leBytes 4 w.toNat)
                (((pop s).onTroupe v (fun V => V.putBytes off bytes)).spadSquash t 0xFF [(v, off / 128)]).cueNext t u)

/-- QSTAT (09 R210). -/
def execQstat (d : BitVec 9) (b : BitVec 8) (s : State) : Out :=
  cueDo s (fun t T u =>
    let set := (T.gets b.toNat).toNat
    let x := match (if set < T.sets then T.setTab.get? set else none) with
      | some S =>
        (List.range 8).foldl (fun n j => n + ((S.port j).filter (fun e => e.pushed == 0)).length * 2 ^ (4 * j)) 0 +
          b2n S.alive * 2 ^ 32 + 2 ^ 33
      | none => 0
    s.cueWrite t u 0 d.toNat (BitVec.ofNat 64 x))

/-! ### The prologue (16 R383-R386) -/

/-- Issue a prologue instruction that ends the run or writes the working copy. -/
def prologueDo (s : State) (f : Nat → Launch → Issue → State) : Out :=
  match s.prologue? with
  | some (l, L, u) => .next (f l L u)
  | none => .fault .noIssuer

/-- May lset write this word of the working copy (21 R431)? -/
def settable (f : Nat) : Bool := decide (f < 6) || f == 8 || f == 9

/-- LSET (16 R384). -/
def execLset (f : BitVec 9) (a : BitVec 8) (s : State) : Out :=
  prologueDo s (fun l _ u =>
    if settable f.toNat then
      s.prologueNext l (u.word + 4) (fun L => { L with words := setAt L.words f.toNat (L.s.getD a.toNat 0) })
    else s.prologueFault l 4 0 0 0)

/-- The run ends with a grid run to launch, or with none when an extent is 0 (16 R385, 21 R435). The instruction counts in the windows that
the run has open (02 R35). -/
def State.prologueGrid (s : State) (l : Nat) (again : Bool) : State :=
  (s.onLaunch l (fun L =>
    if L.companies = 0 then { L.tick with again := false, ending := true, status := 0, stage := .running }
    else { L.tick with again := again, stage := .admission })).endIssue

/-- LGO. -/
def execLgo (s : State) : Out := prologueDo s (fun l _ _ => s.prologueGrid l false)

/-- LREPEAT. -/
def execLrepeat (s : State) : Out := prologueDo s (fun l _ _ => s.prologueGrid l true)

/-- LCANCEL: the launch completes with the register's status (16 R385). -/
def execLcancel (a : BitVec 8) (s : State) : Out :=
  prologueDo s (fun l _ _ =>
    (s.onLaunch l (fun L =>
      { L with again := false, ending := true, user := true, status := (L.s.getD a.toNat 0).toNat % 2 ^ 16, stage := .running })).endIssue)

/-- PROLOGUE_COUNT_LIMIT (16 R386). -/
def execPrologueCountLimit (l : Nat) (s : State) : Out :=
  match s.launches.get? l with
  | some L => if L.stage == .prologue && !L.ending && decide (256 ≤ L.count) then .next (s.prologueFault l 2 0 0 0) else .next s
  | none => .next s

end Sys2Proof.Machine
end

