-- ==== Sys2Proof/Machine/Traps.lean ====
section
/-! DEFINITION. Special values, software traps, taking a trap and returning from a handler (13 R308, R309; 22 R442-R456,
R494). -/

namespace Sys2Proof.Machine

/-! ### Special values -/

/-- The final value of a register of an interrupted thread: a pending result stands before the register (22 R456). -/
def Thread.final (th : Thread) (r : Nat) : Word := (th.win.findSome? (fun w => w.dst.get? r)).getD (th.get r)

/-- Replace that final value; window instructions still read the old one. -/
def Thread.setFinal (th : Thread) (r : Nat) (x : Word) : Thread :=
  if th.win.any (fun w => (w.dst.get? r).isSome) then
    { th with win := th.win.map (fun w => if (w.dst.get? r).isSome then { w with dst := w.dst.set r x } else w) }
  else { th with v := th.v.set r x }

/-- The 64 bytes of a trap record (22 Table 22-2). -/
def Trap.bytes (tr : Trap) : List Byte :=
  leBytes 1 tr.cause ++ leBytes 1 tr.reason ++ leBytes 2 tr.flags ++ leBytes 1 tr.set ++ leBytes 1 tr.low ++
    leBytes 2 tr.code ++ leBytes 4 tr.mask.toNat ++ leBytes 4 tr.fail.toNat ++ leBytes 8 tr.pc ++ leBytes 8 tr.addr ++
    leBytes 8 tr.info ++ leBytes 8 tr.time ++ leBytes 4 tr.qid ++ leBytes 4 tr.seq ++ leBytes 2 tr.core ++
    leBytes 1 tr.world ++ leBytes 1 tr.troupe ++ leBytes 4 tr.company

/-- Bytes `n * k` to `n * k + n - 1` of a record as a number. -/
def Trap.word (tr : Trap) (n k : Nat) : Nat := leNat ((tr.bytes.drop (n * k)).take n)

/-- Is a number reached in handler mode only (22 Table 22-6)? -/
def handlerOnly (n : Nat) : Bool := (decide (0x100 ≤ n) && decide (n ≤ 0x121)) || decide (0x1000 ≤ n)

/-- Why a special register cannot be reached: reason of cause 0x0C. -/
def Ctx.specialBad (c : Ctx) (n : Nat) : Option Nat :=
  if handlerOnly n && c.S.handler.isNone then some 1
  else if decide (0x1000 ≤ n) && decide (c.T.vregs ≤ n - 0x1000) then some 2
  else none

/-- A step special value of lane `j` (13 Table 13-4, 22 Table 22-6). -/
def State.special (s : State) (c : Ctx) (n j : Nat) : Nat :=
  let L := s.launchOf c.T
  let th := c.S.lane j
  let ctx : Thread := (c.S.handler.bind (fun h => h.threads[j]?)).getD th
  match n with
  | 0x00 => j
  | 0x01 => j / 4
  | 0x02 => j % 4
  | 0x03 => c.k
  | 0x04 => c.T.index
  | 0x05 => c.T.company
  | 0x06 => L.coord c.T.company 0
  | 0x07 => L.coord c.T.company 1
  | 0x08 => L.coord c.T.company 2
  | 0x09 => globalIndex c.T L.desc.troupes c.k j
  | 0x0A => b2n (isHelper L c.T c.k j)
  | 0x10 => c.T.sets
  | 0x11 => L.desc.troupes
  | 0x12 => L.extent 0
  | 0x13 => L.extent 1
  | 0x14 => L.extent 2
  | 0x18 => 2 ^ j
  | 0x19 => 2 ^ j - 1
  | 0x1A => 2 ^ (j + 1) - 1
  | 0x1B => 2 ^ 32 - 2 ^ (j + 1)
  | 0x1C => 2 ^ 32 - 2 ^ j
  | 0x1D => c.S.live.toNat
  | 0x20 => if c.T.place.isUnit then 0 else c.S.txCode
  | 0x40 => s.cycle.toNat
  | 0x41 => th.clk.toNat / 2 ^ 32
  | 0x42 => c.T.place.tag
  | 0x43 => c.T.place.slice
  | 0x44 => L.world
  | 0x120 => ctx.pc
  | 0x121 => Nat.lor ctx.p.toNat 1
  | 0x202 => c.amask.toNat
  | _ =>
    if decide (0x1000 ≤ n) then (ctx.final (n - 0x1000)).toNat
    else ((c.S.handler.map (fun h => h.trap.word 4 (n - 0x100))).getD 0)

/-- SYSR (13 R308, R309; 22 R456). -/
def execSysr (d : BitVec 7) (i : BitVec 18) (s : State) : Out :=
  stepOp s (.sysr d i) (fun c =>
    match c.specialBad i.toNat with
    | some r => .next (s.raise c c.mask 0x0C r 0 0)
    | none =>
      .next (s.done c (SetState.retire c (.sysr d i) (fun j => [(d.toNat, BitVec.ofNat 32 (s.special c i.toNat j))])
        (fun _ th => if i = 0x40 then { th with clk := s.cycle } else th) (fun _ => c.next))))

/-- The interrupted context's register takes a physical register as a handler writes it (09 R199). -/
def SetState.bindSaved (S : SetState) (r : Nat) (p : Option Nat) : SetState :=
  { S with handler := S.handler.map (fun h =>
      if (h.names.bound.get? r).isSome then h
      else { h with names := match p with
        | some p => h.names.bind r p false
        | none => h.names.spill r }) }

/-- SYSW (22 R456). -/
def execSysw (d : BitVec 7) (i : BitVec 18) (s : State) : Out :=
  stepOp s (.sysw d i) (fun c =>
    match c.specialBad i.toNat with
    | some r => .next (s.raise c c.mask 0x0C r 0 0)
    | none =>
      let n := i.toNat
      let put (j : Nat) (th : Thread) : Thread :=
        let x := c.rd j d
        if n = 0x120 then { th with pc := x.toNat }
        else if n = 0x121 then { th with p := x ||| 1#32 }
        else th.setFinal (n - 0x1000) x
      let S : SetState :=
        if n = 0x202 then c.S
        else { c.S with handler := c.S.handler.map (fun (h : Saved) =>
          { h with threads := h.threads.mapIdx (fun j th => if inMask c.mask j then put j th else th) }) }
      let S := if decide (n < 0x1000) || c.T.place.isUnit then S else S.bindSaved (n - 0x1000) (s.freeReg c.T.place.coreNo)
      let x := c.rd ((lowLane c.mask).getD 0) d
      let held := n = 0x202 && S.chunk.isSome
      let S := if held then S.onChunk (fun k => { k with amask := some (x.extractLsb' 0 2) }) else S
      let s : State := if n = 0x202 && !held then s.onTroupe c.t (fun T => { T with amask := x.extractLsb' 0 2 }) else s
      s.retire { c with S := S } (.sysw d i) (fun _ => []))

/-- The cue form writes trap.amask. -/
def execCueSysw (d : BitVec 9) (_i : BitVec 16) (s : State) : Out :=
  cueDo s (fun t T u =>
    let x := T.gets d.toNat
    (s.onTroupe t (fun T => { T with amask := x.extractLsb' 0 2 })).cueNext t u)

/-! ### Software traps and returns -/

/-- trap and brk complete, and then their trap is taken (22 R442, R452). -/
def softTrap (i : Instr) (cause code : Nat) (info : Ctx → Nat → Nat) (s : State) : Out :=
  stepOp s i (fun c =>
    if c.act = 0 then s.retire c i (fun _ => [])
    else
      let S := SetState.retire c i (fun _ => []) (fun _ th => th) (fun _ => c.next)
      let low := (lowLane c.act).getD 0
      let tr := s.record c.t
        { cause := cause, set := c.k, low := low, code := code, mask := c.mask, fail := c.act, pc := c.issue.group
          info := info c low, after := c.next }
      .next (s.done c (S.trap c.mask c.next tr)))

/-- TRAP (22 R452). -/
def execTrap (a : BitVec 7) (i : BitVec 8) (g : BitVec 3) (s : State) : Out :=
  softTrap (.trap a i g) 0x02 i.toNat (fun c j => (c.rd j a).toNat) s

/-- BRK. -/
def execBrk (i : BitVec 8) (g : BitVec 3) (s : State) : Out := softTrap (.brk i g) 0x7C i.toNat (fun _ _ => 0) s

/-- STRAP (22 R453): the stream resumes behind it. -/
def execStrap (d : BitVec 9) (i : BitVec 16) (s : State) : Out :=
  cueDo s (fun t T u =>
    let info := (T.gets d.toNat).toNat
    let s := s.onTroupe t (fun T => { T.tick with cue := { T.tick.cue with pc := u.word + 4 } })
    .next (s.raiseCue t u.group 0x02 0 i.toNat 0 info))

/-- A resume address of an interrupted thread is a computed target (16 R364). -/
def Launch.resumeBad (L : Launch) (x : Nat) : Option (Nat × Nat) :=
  if x % 4 != 0 then some (0x01, 0x0C) else if !L.desc.inCode x then some (0x0A, 1) else none

/-- RETT (22 R454). -/
def execRett (s : State) : Out :=
  stepOp s .rett (fun c =>
    match c.S.handler with
    | none => .next (s.raise c c.mask 0x0B 1 0 0)
    | some h =>
      let L := s.launchOf c.T
      let at' (j : Nat) : Thread := h.threads.getD j (Thread.fresh 0 false)
      s.orRaise c (badLanes ((List.range 32).filter (fun j => (at' j).live)) (fun j =>
        (L.resumeBad (at' j).pc).map (fun e =>
          { lane := j, cause := e.1, reason := e.2, addr := (at' j).pc, info := 0 }))) (fun _ =>
      .next (s.done c { c.S with
        handler := none, names := h.names, accepted := h.accepted, answers := h.answers
        threads := h.threads.map (fun th => { th with hold := .ready }) })))

/-- Is a cue trap asynchronous: a copy's, or a reduction data error? -/
def Trap.late (tr : Trap) : Bool := bitAt tr.flags 2 || bitAt tr.flags 3 || tr.cause == 0x41

/-- SRETT (22 R455; 08 R195): a precise trap that waited behind the one handled is the next to be taken (22 R451). -/
def execSrett (s : State) : Out :=
  cueDo s (fun t T u =>
    match T.cue.handler with
    | none => s.cueTrap t u 0x0B 1 0 0
    | some h =>
      let x := (h.bank.getD 14 0).toNat
      let bad : Option (Nat × Nat) :=
        if x % 4 != 0 then some (0x01, 0x0C)
        else if x / 2 ^ 32 != 0 then some (0x0A, 2)
        else if !(s.launchOf T).desc.inCode x then some (0x0A, 1)
        else none
      match bad with
      | some (cause, reason) => s.cueTrap t u cause reason x 0
      | none =>
        let s := ((s.onTroupe t Troupe.tick).onCue t (fun C =>
          { C.leaveHandler with pc := x, waiting := C.traps.any (fun tr => !tr.late) })).endIssue
        let r := (h.bank.getD 8 0).toNat
        .next (match h.trap.copy with
          | some e => s.dispose T.place.coreNo e (nfld r 16 8) (nfld r 48 16)
          | none => s))

/-! ### Taking a trap (22 R446-R451) -/

/-- A delivered step trap: the set's live threads enter the handler, and the interrupted context is kept (22 R449). -/
def SetState.deliver (S : SetState) (entry : Nat) (tr : Trap) : SetState :=
  { S with
    trapReady := none
    handler := some { threads := S.threads, trap := tr, names := S.names, accepted := S.accepted, answers := S.answers }
    names := Names0, accepted := 0, answers := []
    threads := S.threads.map (fun th => Thread.fresh entry th.live) }

/-- A logged step trap: the figure's threads go on behind the instruction, but not after a transaction's or a deferred
trap (22 R446, R494). -/
def SetState.logged (S : SetState) (tr : Trap) : SetState :=
  let S := { S with trapReady := none }
  if bitAt tr.flags 1 || bitAt tr.flags 2 then S else S.onLanes tr.mask (fun _ th => { th with pc := tr.after })

/-- A trap of a set is taken once its chunk has committed. -/
def State.takeStep (s : State) (t k : Nat) (T : Troupe) (S : SetState) : State :=
  match S.trapReady with
  | none => s
  | some tr =>
    if !S.chunks.isEmpty then s
    else
      let L := s.launchOf T
      let act := s.action L.world tr L.handler.isSome T.place.isUnit false
      let s := s.log L.world (if act = 1 then tr.logged else tr)
      match act, L.handler with
      | 0, some h => s.onSet t k (fun S => S.deliver h.stepEntry tr)
      | 0, none | 1, _ => s.onSet t k (fun S => S.logged tr)
      | _, _ => (s.onSet t k (fun S => { S with trapReady := none })).punish L.world T.launch tr act

/-- The copy record of a trap (08 Table 8-7), or 0. -/
def State.copyOfTrap (s : State) (T : Troupe) (tr : Trap) : Nat :=
  match tr.copy.bind (fun e => (s.coreAt T.place.coreNo).ops.get? e) with
  | some o => match o.phase with
    | .held row cause va => copyRecord o cause va row
    | _ => 0
  | none => 0

/-- Registers of a cue handler at entry (22 Table 22-5). -/
def handlerBank (tr : Trap) (copy resume : Nat) : Tab DWord :=
  (List.range 8).map (fun k => (k, BitVec.ofNat 64 (tr.word 8 k))) ++
    (List.range 6).map (fun k => (8 + k, BitVec.ofNat 64 (nfld copy (64 * k) 64))) ++
    [(14, BitVec.ofNat 64 resume), (15, 0)]

/-- The first trap that waits for a cue stream is taken (22 R450, R451): an asynchronous one not while the stream's instruction has an
access under way (10 R225). -/
def State.takeCue (s : State) (t : Nat) (T : Troupe) : State :=
  match T.cue.traps with
  | [] => s
  | tr :: rest =>
    if (T.cue.handler.isSome && !bitAt tr.flags 4) || (tr.late && (s.cueAsked t || (T.cue.answers.get? 0).isSome)) then s
    else
      let L := s.launchOf T
      let act := s.action L.world tr L.handler.isSome false T.cue.ended
      let copy := s.copyOfTrap T tr
      let s := s.log L.world (if act = 1 then tr.logged else tr)
      match act, L.handler with
      | 0, some h =>
        s.onCue t (fun C => { C with
          handler := some { bank := handlerBank tr copy C.pc, win := [], trap := tr }
          pc := h.cueEntry, traps := rest, waiting := false, stall := [], answers := [] })
      | 0, none | 1, _ =>
        let s := s.onCue t (fun C => { C with
          traps := rest, pc := if tr.late then C.pc else tr.after, waiting := if tr.late then C.waiting else false })
        match tr.copy with
        | some e => s.skipOp T.place.coreNo e
        | none => s
      | _, _ => (s.onCue t (fun C => { C with traps := rest })).punish L.world T.launch tr act

/-- TRAP_TAKEN: set 255 names the cue stream. -/
def execTrapTaken (t k : Nat) (s : State) : Out :=
  match s.troupes.get? t with
  | none => .next s
  | some T =>
    if (s.launchOf T).ending || T.halted then .next s
    else if k = 255 then .next (s.takeCue t T)
    else
      match T.setTab.get? k with
      | some S => .next (s.takeStep t k T S)
      | none => .next s

/-- ASYNC_TRAP_ARRIVAL (22 R494): the set's chunk closes at the boundary and commits, and the first waiting trap becomes the set's trap; it
has no effect on any thread, so that an open transaction, which is never split, goes on to its end first (DEDUCED, log 73); a set that
has ended leaves it to the launch. -/
def execAsyncTrapArrival (t k : Nat) (s : State) : Out :=
  match s.troupes.get? t, s.setAt? t k with
  | some T, some S =>
    match S.traps.find? S.due with
    | none => .next s
    | some tr =>
      let rest := S.traps.erase tr
      if S.trapReady.isSome || S.handler.isSome || S.waiting.isSome || (s.launchOf T).ending || T.halted then .next s
      else if S.inTx then .next s
      else if !S.chunks.isEmpty then .next (s.onSet t k SetState.close)
      else if S.live = 0 then .next ((s.onSet t k (fun S => { S with traps := rest })).lateGone T.launch t tr)
      else
        let spent (th : Thread) : Thread := { th with win := th.win.filter (fun w => w.req.isNone || w.req != tr.copy) }
        .next (s.onSet t k (fun S => { S with
          traps := rest, threads := S.threads.map spent, trapReady := some { tr with mask := S.live, copy := none } }))
  | _, _ => .next s

end Sys2Proof.Machine
end

