-- ==== Sys2Proof/Machine/NearBank.lean ====
section
/-! DEFINITION. Near-bank units: windows, accesses and their returns, and the reduction engine (05 R94-R121). -/

namespace Sys2Proof.Machine

/-! ### Windows (05 R99-R101) -/

/-- The entries of a launch's run in a slice, in order. -/
def State.windows (s : State) (L : Launch) (k : Nat) : List NbWin :=
  match L.wins.get? k with
  | some (base, len) => (List.range len).filterMap (fun i => (s.slice k).nb.win.get? (base + i))
  | none => []

/-- Device address of an offset in a window of a slice. -/
def NbWin.dpa (w : NbWin) (k o : Nat) : Nat := k * 2 ^ 33 + w.frame * 2 ^ 21 + o

/-- The checks of R101 on an access of `n` bytes: reason of cause 0x38. -/
def nbBad (ws : List NbWin) (unit x n : Nat) (write : Bool) : Option Nat :=
  let o := x % 2 ^ 21
  match ws[x / 2 ^ 21]? with
  | none => some 1
  | some w =>
    if write && !w.rw then some 2
    else if 2 ^ 21 < o + n then some 3
    else if o / 64 % 32 != unit || (o + n - 1) / 64 != o / 64 then some 4
    else none

/-- Slice and unit of a unit's troupe. -/
def Place.unit? : Place → Option (Nat × Nat)
  | .unit k n => some (k, n)
  | .core _ => none

/-- Device address and virtual address of a near-bank address that passed its checks. -/
def nbAt (ws : List NbWin) (k x : Nat) : Nat × Nat :=
  match ws[x / 2 ^ 21]? with
  | some w => (w.dpa k (x % 2 ^ 21), w.vpage * 2 ^ 21 + x % 2 ^ 21)
  | none => (0, 0)

/-- The granules that lanes touch, each once. -/
def laneGranules (lanes : List (Nat × Nat)) : List Nat := addAll [] (lanes.map (fun e => e.2 / 64))

/-- A near-bank access is checked and enters its unit's queue in issue order (05 R101, R109). `regs` gives the pending
destinations of a read, `data` the words a lane supplies. -/
def nbAccess (s : State) (i : Instr) (kind n mod ahead : Nat) (a d : BitVec 7) (helpers : Bool) (data : Ctx → Nat → List Word) : Out :=
  stepOp s i (fun c =>
    match c.T.place.unit? with
    | none => .next s.endIssue
    | some (k, u) =>
      let L := s.launchOf c.T
      let ws := s.windows L k
      let lanes := if helpers then c.lanes else s.doers c
      let x (j : Nat) := c.sp j a
      s.orRaise c (badLanes lanes (fun j =>
        (nbBad ws u (x j) n (kind == 1)).map (fun r => { lane := j, cause := 0x38, reason := r, addr := x j, info := 0 }))) (fun _ =>
      if lanes.isEmpty then s.retire c (.nop 0) (fun _ => [])
      else
        let id := s.nextId
        let m := maskOf (fun j => lanes.contains j)
        let dsts :=
          if kind = 1 then [] else if kind = 0 then (loadRegs mod d.toNat []).map (fun w => (w.1, (0 : Word))) else [(d.toNat, 0)]
        let S := SetState.retire { c with S := c.S.onLanes m (fun _ th => th.drops (dsts.map (·.1))) } (.nop 0) (fun _ => [])
          (fun _ th => th) (fun _ => c.next)
        let S := if kind = 1 then S else S.onLanes m (fun _ th => th.later ahead (some id) dsts)
        let r : NbReq :=
          { id := id, troupe := c.t, set := c.k, pc := c.issue.group, kind := kind, mod := mod, dst := d.toNat
            lanes := lanes.map (fun j => (j, (nbAt ws k (x j)).1)), data := lanes.map (fun j => (j, data c j)) }
        let vas := addAll [] (lanes.map (fun j => (nbAt ws k (x j)).2 / 64))
        let s := vas.foldl (fun (s : State) g =>
          s.sample (4 * k) L.world (g * 64) c.T.place.tag (if kind = 1 then 9 else 8) L.tcid false) s
        let s : State := { s with nextId := id + 1 }
        .next ((s.onUnit k u (fun U => { U with queue := U.queue ++ [r] })).done c S)))

/-- NLD (05 R104). -/
def execNld (d a : BitVec 7) (h : BitVec 4) (g : BitVec 3) (m : BitVec 4) (s : State) : Out :=
  nbAccess s (.nld d a h g m) 0 (widthOf m.toNat) m.toNat h.toNat a d true (fun _ _ => [])

/-- NST (05 R105). -/
def execNst (d a : BitVec 7) (g : BitVec 3) (m : BitVec 4) (s : State) : Out :=
  nbAccess s (.nst d a g m) 1 (widthOf m.toNat) m.toNat 0 a d false
    (fun c j => (c.storeBytes m.toNat j d).map (fun b => b.zeroExtend 32))

/-- NMAC (05 R106). -/
def execNmac (d a : BitVec 7) (h : BitVec 4) (g : BitVec 3) (m : BitVec 4) (s : State) : Out :=
  nbAccess s (.nmac d a h g m) 2 4 m.toNat h.toNat a d true
    (fun c j => [c.S.read j d.toNat, c.S.read j (d.toNat + 1)])

/-! ### Returns -/

/-- The result of one lane of an nmac: an exact sum of three terms, rounded once (05 R106). -/
def nmacResult (mem : Nat) (acc x : Word) : Word :=
  let p (k : Nat) := Fp.mul (bf16.value (nfld mem (16 * k) 16)) (bf16.value (nfld x.toNat (16 * k) 16))
  BitVec.ofNat 32 (fp32.near (Fp.sum false [f32 acc, p 0, p 1]))

/-- Registers that a read of a lane gives. -/
def NbReq.regs (r : NbReq) (j : Nat) (b : List Byte) : List (Nat × Word) :=
  if r.kind = 0 then loadRegs r.mod r.dst b
  else
    let ws := r.data.getD j []
    [(r.dst, nmacResult (leNat b) (ws.getD 0 0) (ws.getD 1 0))]

/-- A lane's results arrive: at the end of the window, or at once when it has ended. A destination that a later write took
keeps that write (02 R35). -/
def Thread.arrive (th : Thread) (id : Nat) (regs : List (Nat × Word)) : Thread :=
  let mine (w : Window) : Bool := w.req == some id
  let filled (w : Window) : Window :=
    { w with req := none, dst := w.dst.map (fun e => (e.1, (Tab.get? regs e.1).getD e.2)) }
  let ended := (th.win.filter (fun w => mine w && w.left == 0)).map filled
  { th with
    v := ended.foldl (fun v w => w.dst.foldl (fun v e => v.set e.1 e.2) v) th.v
    win := (th.win.filter (fun w => !(mine w && w.left == 0))).map (fun w => if mine w then filled w else w) }

/-- A failing read writes no destination; its windows stay until its trap is taken (05 R107). -/
def Thread.lose (th : Thread) (id : Nat) : Thread :=
  { th with win := th.win.map (fun w => if w.req == some id then { w with dst := [] } else w) }

/-- The failing granules of a read, ascending, with their causes. -/
def State.nbFaults (s : State) (w : Nat) (gs : List Nat) : List (Nat × Nat) :=
  (sortOn id gs).filterMap (fun g => (s.granFault w (g * 64)).map (fun c => (g, c)))

/-- The trap of a request whose granules fail. -/
def State.nbTrap (s : State) (r : NbReq) (bad : List (Nat × Nat)) : State :=
  match bad.head? with
  | none => s
  | some (g, cause) =>
    let fail := maskOf (fun j => r.lanes.any (fun e => e.1 == j && bad.any (fun b => b.1 == e.2 / 64)))
    let l := ((s.troupes.get? r.troupe).map (·.launch)).getD 0
    s.lateTrap l r.troupe r.set
      { cause := cause, set := r.set, pc := r.pc, addr := g * 64, fail := fail, low := (lowLane fail).getD 0
        copy := if r.kind = 1 then none else some r.id }

/-- NB_ACCESS_RETURN: the oldest request of a unit is performed at its banks (05 R105, R107, R109). -/
def execNbAccessReturn (k u : Nat) (s : State) : Out :=
  match ((s.slice k).unit u).queue with
  | [] => .next s
  | r :: rest =>
    let w := ((s.troupes.get? r.troupe).map s.worldOf).getD 0
    let s := s.onUnit k u (fun U => { U with queue := rest })
    if r.kind = 1 then
      let t : Tab Byte := r.lanes.foldl (fun (m : Tab Byte) e =>
        (((r.data.getD e.1 []).mapIdx (fun i x => (e.2 + i, x.setWidth 8)))).foldl
          (fun (m : Tab Byte) b => Tab.set m b.1 b.2) m) []
      let (s, bad) := (granulesOf t).foldl (fun (p : State × List (Nat × Nat)) g =>
        match p.1.writeGranule w g (t.filter (fun e => e.1 / 64 == g)) with
        | (s', some c) => (s', p.2 ++ [(g, c)])
        | (s', none) => (s', p.2)) (s, [])
      .next (s.nbTrap r bad)
    else
      let bad := s.nbFaults w (laneGranules r.lanes)
      let bytes (j : Nat) : List Byte := s.mem.readBytes (Tab.getD r.lanes j 0) (if r.kind = 0 then widthOf r.mod else 4)
      let s := (laneGranules r.lanes).foldl (fun (s : State) g => s.bankRead w (g * 64) 0) s
      match bad with
      | [] =>
        .next (s.onSet r.troupe r.set (fun S => S.onLanes (maskOf (fun j => r.lanes.any (fun e => e.1 == j)))
          (fun j th => th.arrive r.id (r.regs j (bytes j)))))
      | bad =>
        .next ((s.onSet r.troupe r.set (fun S => { S with threads := S.threads.map (·.lose r.id) })).nbTrap r bad)

/-! ### A unit's issue (05 R94) -/

/-- Sets on a unit, in a fixed order. -/
def State.unitSets (s : State) (k u : Nat) : List (Nat × Nat) :=
  s.troupes.flatMap (fun (e : Nat × Troupe) =>
    if e.2.place == .unit k u then e.2.setTab.map (fun (f : Nat × SetState) => (e.1, f.1)) else [])

/-- The PC that a unit picks in a set: that of the lowest thread that has been ready for 512 cycles, else the lowest (05 R94). -/
def SetState.unitPc (S : SetState) (now : Nat) : Option Nat :=
  let js := (List.range 32).filter (fun j => (S.lane j).ready)
  match js.find? (fun j => decide ((S.lane j).since + 512 ≤ now)) with
  | some j => some (S.lane j).pc
  | none => minNat (js.map (fun j => (S.lane j).pc))

/-- Threads of a set that stand at one address with no ready instruction wait: for the set's others at a set-convergent instruction, or for
near-bank results that it names (05 R94, R107). -/
def State.holdUnready (s : State) (t k pc : Nat) : State :=
  match s.troupes.get? t, s.setAt? t k with
  | some T, some S =>
    let f : Figure := { troupe := t, set := k, mask := maskOf (fun j => (S.lane j).ready && (S.lane j).pc == pc), pc := pc, more := false }
    match s.instrAt f with
    | some (i, last) =>
      if !canIssue s T S || f.mask == 0 then s
      else if convergentIn i S.handler.isSome && f.mask != S.live then
        s.gather t k T S f.mask { agent := .step f, group := pc, word := last, hints := [] }
      else if !(owing i S f.mask).isEmpty then s.onSet t k (fun S => S.holding f.mask (.until (owing i S f.mask)))
      else s
    | none => s
  | _, _ => s

/-- Those of all the addresses of a set. -/
def State.holdSet (s : State) (e : Nat × Nat) : State :=
  match s.setAt? e.1 e.2 with
  | some S => (addAll [] (((List.range 32).filter (fun j => (S.lane j).ready)).map (fun j => (S.lane j).pc))).foldl
      (fun (s : State) pc => s.holdUnready e.1 e.2 pc) s
  | none => s

/-- NB_SET_ISSUE: the next set of the round with a ready instruction issues at one PC; a yielding set gives up this turn (16 R379). -/
def execNbSetIssue (k u : Nat) (s : State) : Out :=
  let sets := s.unitSets k u
  let s := sets.foldl (fun (s : State) e => s.holdSet e) s
  let U := (s.slice k).unit u
  let order := (List.range sets.length).filterMap (fun i => sets[(U.turn + i) % sets.length]?)
  let ready (e : Nat × Nat) : Bool :=
    match s.troupes.get? e.1, s.setAt? e.1 e.2 with
    | some T, some S => canIssue s T S && S.threads.any (fun th => th.ready || (th.live && th.hold == .yield))
    | _, _ => false
  match order.find? ready with
  | none => .next s
  | some e =>
    match s.setAt? e.1 e.2 with
    | none => .next s
    | some S =>
      let at' := (sets.findIdx? (· == e)).getD 0
      let s := s.onUnit k u (fun U => { U with turn := at' + 1 })
      if S.threads.any (fun th => th.live && th.hold == .yield) then
        .next (s.onSet e.1 e.2 (fun S => S.holding (maskOf (fun j => (S.lane j).hold == .yield)) .ready))
      else
        match S.unitPc s.cycle.toNat with
        | none => .next s
        | some pc =>
          let m := maskOf (fun j => (S.lane j).ready && (S.lane j).pc == pc)
          .next (s.begin (.step { troupe := e.1, set := e.2, mask := m, pc := pc, more := false }))

/-! ### Reduction commands (05 R113-R120) -/

/-- Element size of a command's format. -/
def redSize (fmt : Nat) : Nat := if fmt = 2 then 8 else 4

/-- The command that a parameter block describes (05 Table 5-6). -/
def redCmdOf (b : List Byte) (l t k lane pc : Nat) (unit : Bool) : RedCmd :=
  let f (o n : Nat) : Nat := leNat ((b.drop o).take n)
  { launch := l, troupe := t, set := k, lane := lane, fromUnit := unit, pc := pc, dst := f 0 8, sbase := f 8 8
    sstride := sextNat 64 (f 0x10 8), caddr := f 0x18 8, len := nfld (f 0x20 4) 0 22, fmt := nfld (f 0x20 4) 24 2
    cval := BitVec.ofNat 32 (f 0x24 4), smask := f 0x28 2 }

/-- Present sources. -/
def RedCmd.sources (c : RedCmd) : List Nat := (List.range 16).filter (bitAt c.smask)

/-- Virtual address of source `i`. -/
def RedCmd.source (c : RedCmd) (i : Nat) : Nat := wrap 64 ((c.sbase : Int) + (i : Int) * c.sstride)

/-- Entries of a run that hold a virtual page. -/
def winsAt (ws : List NbWin) (va : Nat) : List NbWin := ws.filter (fun w => w.vpage == va / 2 ^ 21)

/-- Device address of a virtual address through the run. -/
def runDpa (ws : List NbWin) (k va : Nat) : Nat :=
  match winsAt ws va with
  | w :: _ => w.dpa k (va % 2 ^ 21)
  | [] => 0

/-- The lowest reason of Table 5-7 that a block gives, and the index of its item (05 R116). Where SBASE and SSTRIDE are both misaligned and
every present source is aligned all the same, the item of reason 4 is the lowest present source above 0, or 18 (DESIGN CHOICE, log 74). -/
def State.redBad (s : State) (L : Launch) (ws : List NbWin) (b : List Byte) (c : RedCmd) : Option (Nat × Nat) :=
  let ctl := leNat ((b.drop 0x20).take 4)
  let e := redSize c.fmt
  let items := c.sources.map (fun i => (i, c.source i)) ++ [(16, c.dst)]
  let first (p : Nat → Bool) : Option Nat := (items.find? (fun x => p x.2)).map (·.1)
  let skew := c.dst % e != 0 || c.sbase % e != 0 || c.sstride % (e : Int) != 0
  let skewed : Nat :=
    if c.dst % e != 0 then 16
    else match c.sources.find? (fun i => c.source i % e != 0) with
      | some i => i
      | none => (c.sources.find? (fun i => decide (0 < i))).getD 18
  if nfld ctl 22 2 != 0 || nfld ctl 26 6 != 0 || c.fmt == 3 || ((b.drop 0x2A).take 22).any (· != 0) then some (1, 18)
  else if c.smask = 0 then some (2, 18)
  else if c.len = 0 || decide (2 ^ 21 < c.len) || c.len % e != 0 then some (3, 18)
  else if skew then some (4, skewed)
  else
    match first (fun va => (winsAt ws va).isEmpty) with
    | some i => some (5, i)
    | none =>
      match first (fun va => decide (2 ^ 21 < va % 2 ^ 21 + c.len)) with
      | some i => some (6, i)
      | none =>
        if (winsAt ws c.dst).all (fun w => !w.rw) then some (7, 16)
        else
          match c.sources.find? (fun i => c.source i != c.dst && overlaps (c.source i) (c.source i + c.len) c.dst (c.dst + c.len)) with
          | some i => some (8, i)
          | none =>
            if c.caddr % 4 != 0 || !((s.covering L c.caddr).any (fun x => x.1.rw && !x.2.streamed)) then some (9, 17) else none

/-- Offer commands to the engine's queue of 64: how many it takes (05 R112). -/
def State.offer (s : State) (k : Nat) (cs : List RedCmd) : State × Nat :=
  let n := min cs.length (64 - (s.slice k).nb.queue.length)
  (s.onSlice k (fun S => { S with nb := { S.nb with queue := S.nb.queue ++ cs.take n } }), n)

/-- A core's parameter block at a scratchpad offset: rejected, or its bytes. -/
def Troupe.blockBad (T : Troupe) (x : Nat) : Bool := x % 64 != 0 || decide (T.spadSize < x + 64)

/-- BSUM (05 R119). -/
def execBsum (a : BitVec 7) (g : BitVec 3) (s : State) : Out :=
  let i : Instr := .bsum a g
  stepOp s i (fun c =>
    let L := s.launchOf c.T
    let k := c.T.place.slice
    let ws := s.windows L k
    let lanes := s.doers c
    let x (j : Nat) := c.sp j a
    let unit := c.T.place.isUnit
    let n := match c.T.place.unit? with
      | some (_, n) => n
      | none => 0
    let block (j : Nat) : List Byte :=
      if unit then s.mem.readBytes (nbAt ws k (x j)).1 64 else (List.range 64).map (fun b => c.T.byte (x j + b))
    let cmd (j : Nat) : RedCmd := redCmdOf (block j) c.T.launch c.t c.k j c.issue.group unit
    let bad (j : Nat) : Option LaneBad :=
      let fail (cause reason addr info : Nat) : Option LaneBad :=
        some { lane := j, cause := cause, reason := reason, addr := addr, info := info }
      let inner : Option LaneBad := match s.redBad L ws (block j) (cmd j) with
        | some (r, item) => fail 0x40 r 0 item
        | none => none
      if unit then
        if x j % 64 != 0 then fail 0x40 0x0A 0 18
        else match nbBad ws n (x j) 64 false with
          | some r => fail 0x38 r (x j) 0
          | none => match s.granFault L.world (nbAt ws k (x j)).1 with
            | some e => fail e 0 (nbAt ws k (x j)).1 0
            | none => inner
      else if c.T.blockBad (x j) then fail 0x40 0x0A 0 18 else inner
    let rest := lanes.filter (fun j => !c.S.accepted.testBit j)
    let empty := if unit then [] else (rest.filter (fun j => !c.T.blockBad (x j) && !s.lineFull c.t (x j))).map
      (fun j => Wake.line c.t (x j / 128))
    if lanes.isEmpty then s.retire c i (fun _ => [])
    else if !empty.isEmpty then .next (s.hold c c.mask (.until empty))
    else if unit && s.nbStores c.t c.k c.T then .next (s.hold c c.mask (.until [.nbStores]))
    else
      let reads := if unit then rest.filter (fun j => x j % 64 == 0 && (nbBad ws n (x j) 64 false).isNone) else []
      let s1 := reads.foldl (fun (s : State) j => s.bankRead L.world (nbAt ws k (x j)).1 0) s
      s1.orRaise c (badLanes rest bad) (fun _ =>
      let (s, n) := s1.offer k (rest.map cmd)
      let taken := maskOf (fun j => (rest.take n).contains j)
      if n = rest.length then
        s.retire { c with S := { c.S with accepted := (BitVec.ofNat 32 c.S.accepted &&& ~~~ maskOf (fun j => lanes.contains j)).toNat } } i
          (fun _ => [])
      else .next (s.onSet c.t c.k (fun S => { S with accepted := (BitVec.ofNat 32 S.accepted ||| taken).toNat })).endIssue))

/-- CUE_BSUM (05 R120). -/
def execCueBsum (a : BitVec 8) (s : State) : Out :=
  cueDo s (fun t T u =>
    let L := s.launchOf T
    let k := T.place.slice
    let ws := s.windows L k
    let x := (T.gets a.toNat).toNat
    if x / 2 ^ 32 != 0 || T.blockBad x then s.cueTrap t u 0x40 0x0A 0 18
    else if !s.lineFull t x then .next (s.cueStall t [.line t (x / 128)])
    else
      let b := s.spadBytes t x 64
      let c := redCmdOf b T.launch t 0xFF 0 u.group false
      match s.redBad L ws b c with
      | some (r, item) => s.cueTrap t u 0x40 r 0 item
      | none =>
        match s.offer k [c] with
        | (_, 0) => .next s.endIssue
        | (s', _) => s'.cueNext t u)

/-! ### The engine (05 R114, R115, R117) -/

/-- One addition of the tree. -/
def redAdd (fmt : Nat) (x y : DWord) : DWord :=
  match fmt with
  | 0 => BitVec.ofNat 64 (fp32.near (Fp.sum false [f32 (x.extractLsb' 0 32), f32 (y.extractLsb' 0 32)]))
  | 1 => (x.extractLsb' 0 32 + y.extractLsb' 0 32 : Word).zeroExtend 64
  | _ => x + y

/-- The tree's value for one element: a single .f32 source passes unchanged. -/
def redElement (fmt : Nat) (leaves : List (Option DWord)) : DWord := (treeOf (redAdd fmt) 4 leaves).getD 0

/-- The trap of a command (05 R117), if something failed: item index and underlying cause in INFO, the granule in ADDR. Of several failing
granules it names the first of the lowest source, else the lowest of the destination (DESIGN CHOICE, log 74). -/
def State.redTrap (s : State) (c : RedCmd) (bad : List (Nat × Nat × Nat)) : State :=
  match bad with
  | [] => s
  | (item, addr, cause) :: _ =>
  let info := item + cause * 256
  if c.fromUnit then
    s.lateTrap c.launch c.troupe c.set
      { cause := 0x41, set := c.set, pc := c.pc, addr := addr, info := info, low := c.lane, fail := maskBit c.lane }
  else
    let tr := s.record c.troupe { cause := 0x41, flags := 1, set := 0xFF, pc := c.pc, addr := addr, info := info }
    match s.troupes.get? c.troupe with
    | some T => if T.finished then s.lateGone c.launch c.troupe tr else s.onCue c.troupe (fun C => { C with traps := C.traps ++ [tr] })
    | none => s.lateGone c.launch c.troupe tr

/-- Everything a command does, but for its completion store: the state, and what failed as (item, granule, cause). -/
def State.redRun (s : State) (k w : Nat) (ws : List NbWin) (c : RedCmd) : State × List (Nat × Nat × Nat) :=
  let e := redSize c.fmt
  let d := runDpa ws k c.dst
  let bad := c.sources.flatMap (fun i =>
    let a := runDpa ws k (c.source i)
    (addAll [] ((List.range c.len).map (fun b => (a + b) / 64))).filterMap (fun g =>
      (s.granFault w (g * 64)).map (fun cause => (i, a, g, cause))))
  let hit (n : Nat) : List (Nat × Nat × Nat × Nat) := bad.filter (fun f =>
    overlaps (f.2.1 + n * e) (f.2.1 + n * e + e) (f.2.2.1 * 64) (f.2.2.1 * 64 + 64))
  let bytes (n : Nat) : List Byte :=
    leBytes e (redElement c.fmt ((List.range 16).map (fun i =>
      if bitAt c.smask i then some (BitVec.ofNat 64 (leNat (s.mem.readBytes (runDpa ws k (c.source i) + n * e) e))) else none))).toNat
  let out : Tab Byte := (List.range (c.len / e)).flatMap (fun n => runTab (d + n * e) (bytes n))
  let poisoned := addAll [] (((List.range (c.len / e)).filter (fun n => !(hit n).isEmpty)).map (fun n => (d + n * e) / 64))
  let s := c.sources.foldl (fun (s : State) i =>
    (addAll [] ((List.range c.len).map (fun b => (runDpa ws k (c.source i) + b) / 64))).foldl
      (fun (s : State) g => s.bankRead w (g * 64) 0) s) s
  (granulesOf out).foldl (fun (p : State × List (Nat × Nat × Nat)) g =>
    if poisoned.contains g then (p.1.poisonWrite (g * 64), p.2)
    else
      match p.1.writeGranule w g (out.filter (fun x => x.1 / 64 == g)) with
      | (s', some cause) => (s', p.2 ++ [(16, g * 64, cause)])
      | (s', none) => (s', p.2)) (s, bad.map (fun f => (f.1, f.2.2.1 * 64, f.2.2.2)))

/-- RED_CMD_EXECUTE: the command at the head of a slice's queue, in acceptance order (05 R112, R117). ERR counts a command of which both a
granule and the completion store fail once (DESIGN CHOICE, log 74). -/
def execRedCmdExecute (k : Nat) (s : State) : Out :=
  match (s.slice k).nb.queue with
  | [] => .next s
  | c :: rest =>
    match s.launches.get? c.launch with
    | none => .next (s.onSlice k (fun S => { S with nb := { S.nb with queue := rest } }))
    | some L =>
      let ca := s.dpaOf L c.caddr
      if s.lineBusy L.world (ca / 128) then .next s
      else
        let (s, bad) := s.redRun k L.world (s.windows L k) c
        let v := if bad.isEmpty then c.cval else ~~~ c.cval
        let (s, missed) := s.homeWrite L.world (runTab ca (leBytes 4 v.toNat))
        let s := s.expose L.world [ca / 128]
        let s := s.onSlice k (fun S => { S with nb := { S.nb with
          queue := rest
          err := if bad.isEmpty && missed.isEmpty then S.nb.err else satN 16 (S.nb.err + 1)
          done := if missed.isEmpty then (S.nb.done + 1) % 2 ^ 32 else S.nb.done } })
        .next ((s.redTrap c bad).redTrap c (missed.map (fun b => (17, b.1, b.2))))

end Sys2Proof.Machine
end

