-- ==== Sys2Proof/Machine/Links.lean ====
section
/-! DEFINITION. Completions of link requests, and the integrity checks of what arrives (07 R145; 10 R229, R230, R232, R495;
24 R475; 25 R482-R484). -/

namespace Sys2Proof.Machine

/-! ### What a completion carries -/

/-- Is a request an effect of a chunk after its commit point (10 R495)? -/
def ReqOwner.after : ReqOwner → Bool
  | .set _ _ lane _ => decide (32 ≤ lane)
  | _ => false

/-- Completion statuses: 0 success; 1 Unsupported Request or Completer Abort; 3 success, with data whose integrity check has
not ended; any other value another error response (07 R145, 10 R495). -/
def State.linkCause (s : State) (r : Request) (status : Nat) : Option Nat :=
  if r.down || !(s.port r.port).up || s.linkDown r.world r.dpa then some 0x50
  else if s.inRun r.world && (status = 0 || status = 3) then none
  else if (status = 1 || !s.inRun r.world) && (isHost r.dpa || r.owner.after) then some 0x27 else some 0x50

/-- Does a request write at its target? -/
def ReqKind.writes : ReqKind → Bool
  | .write _ | .flush .. | .atomic .. => true
  | _ => false

/-- The stream or operation that a request comes from. -/
def ReqOwner.sender : ReqOwner → ReqOwner
  | .set t k _ _ => .set t k 0 0
  | .op c e _ => .op c e 0
  | o => o

/-- Writes of one sender to one line are performed in the order in which they were sent (11 R244, R249). -/
def State.sentBefore (s : State) (id : Nat) (r : Request) : Bool :=
  r.kind.writes && s.requests.any (fun e =>
    decide (e.1 < id) && e.2.kind.writes && e.2.answered.isNone && e.2.dpa / 128 == r.dpa / 128 && e.2.owner.sender == r.owner.sender)

/-- Does a write that takes its place in the global order as it is performed wait for the line (10 R217, R225, R230)? -/
def State.lineWaits (s : State) (r : Request) : Bool := r.kind.writes && !r.owner.after && s.lineBusy r.world (r.dpa / 128)

/-- Granules of a world's run of bytes, as keys. -/
def granulesIn (w a n : Nat) : List Nat := (List.range ((a % 64 + n + 63) / 64)).map (fun i => granKey w (a + 64 * i))

/-- Data whose check has not ended is marked with its port (10 R232). -/
def State.markUnverified (s : State) (port : Nat) (gs : List Nat) : State :=
  { s with unverified := gs.foldl (fun (m : Tab Nat) g => Tab.set m g port) s.unverified }

/-- Has a request other than this one of the same owner to be answered still? -/
def State.moreOf (s : State) (o : ReqOwner) : Bool := s.requests.any (fun e => e.2.owner == o)

/-- Virtual address of the first byte of a piece. -/
def Op.pieceVa (o : Op) (u : Nat) : Nat := ((o.pieceBytes u).findSome? (·.2.1)).getD 0

/-! ### Errors (07 R145, 10 R495, 25 R484) -/

/-- Bytes of a line that a home still holds as these count as clean from now on. -/
def State.cleanBytes (s : State) (w line : Nat) (bs : Tab Byte) : State :=
  match s.copies.get? (lineKey w line) with
  | some c =>
    let d := bs.foldl (fun (d : BitVec 128) e =>
      if c.bytes.getD (e.1 % 128) 0 = e.2 then d &&& ~~~ BitVec.ofNat 128 (2 ^ (e.1 % 128)) else d) c.dirty
    { s with copies := s.copies.set (lineKey w line) { c with dirty := d } }
  | none => s

/-- The bytes that a flush carries, by address. -/
def flushTab (line : Nat) (mask : BitVec 128) (bs : List Byte) : Tab Byte :=
  ((List.range 128).filter (fun i => mask.getLsbD i)).map (fun i => (line * 128 + i, bs.getD i 0))

/-- The bytes of a request that met an error response are dropped: its home does not send them again (10 R495). -/
def State.dropWritten (s : State) (r : Request) : State :=
  match r.kind with
  | .write bs => s.cleanBytes r.world (r.dpa / 128) (runTab r.dpa bs)
  | .flush mask bs => s.cleanBytes r.world (r.dpa / 128) (flushTab (r.dpa / 128) mask bs)
  | _ => s

/-- The target of one lane of an `amo` has answered, with a cause or with 0: the lanes are performed once all of them can be (11 R240). -/
def State.answerAmo (s : State) (id : Nat) (r : Request) (cause : Nat) : State :=
  let s : State := { s with requests := s.requests.set id { r with answered := some (r.answered.getD cause) } }
  match r.owner with
  | .set t k _ _ => if s.amoReady t k then s.performAmo t k else s
  | _ => s

/-- Is a request one lane of an `amo`? -/
def Request.isAmo (r : Request) : Bool :=
  match r.owner with
  | .set t k _ _ => r.amoOf t k
  | _ => false

/-- An error response reaches its requester. -/
def State.linkError (s : State) (id : Nat) (r : Request) (cause : Nat) : State :=
  match r.owner with
  | .home =>
    { s with cores := s.cores.map (fun (e : Nat × Core) => (e.1, { e.2 with
        misses := e.2.misses.map (fun (m : Nat × Miss) =>
          if m.2.req = some id then (m.1, { m.2 with req := none, err := cause }) else m) })) }
  | .cue t => (s.dropWritten r).onCue t (fun C => { C with answers := C.answers.set 0 (badAnswer cause) })
  | .launch l => s.onLaunch l (fun L => { L with answers := L.answers.set 0 (badAnswer cause) })
  | .op core e u =>
    match (s.coreAt core).ops.get? e with
    | some o => s.holdOp core e (u / 32) cause 0 (o.pieceVa u)
    | none => s
  | .set t k lane pc =>
    match r.kind with
    | .read _ => s.onSet t k (fun S => { S with answers := S.answers.set lane (badAnswer cause) })
    | _ =>
      if r.isAmo then s.answerAmo id r cause
      else (s.dropWritten r).lateTrap r.launch t k { cause := cause, set := k, pc := pc, addr := r.dpa }

/-! ### Successes -/

/-- The MSC policy of the miss that a request fetches a line for (06 R126). -/
def State.missPol (s : State) (id : Nat) : Nat :=
  ((s.cores.flatMap (fun (e : Nat × Core) => e.2.misses)).find? (fun m => m.2.req == some id)).elim 0 (·.2.msc)

/-- A home receives a line that it asked for. -/
def State.landFill (s : State) (id : Nat) (r : Request) : State :=
  let line := r.dpa / 128
  if (s.copies.get? (lineKey r.world line)).isSome then s
  else
    let c : Copy := { bytes := s.mem.readBytes (line * 128) 128, dirty := 0 }
    { s.dropCopy r.world line with copies := s.copies.set (lineKey r.world line) c }.takeLine r.world line (s.missPol id) false

/-- Read data reaches its requester. -/
def State.landRead (s : State) (r : Request) (n : Nat) : State :=
  let bs := s.mem.readBytes r.dpa n
  match r.owner with
  | .set t k lane _ => s.onSet t k (fun S => { S with answers := S.answers.set lane (leNat bs) })
  | .cue t => s.onCue t (fun C => { C with answers := C.answers.set 0 (leNat bs) })
  | .launch l => s.onLaunch l (fun L => { L with answers := L.answers.set 0 (leNat bs) })
  | .op core e u => s.landRequest core e u bs
  | .home => s

/-- A write that takes its place in the global order as its target takes it (10 R225, R230): a home that holds the line follows it. -/
def State.placeWrite (s : State) (w : Nat) (t : Tab Byte) : State :=
  let s : State := { s with mem := s.mem.writeTab t }
  let s := (linesOf t).foldl (fun (s : State) l =>
    if (s.copies.get? (lineKey w l)).isSome then s.mergeCopy w l (t.filter (fun e => e.1 / 128 == l)) false else s) s
  s.expose w (linesOf t)

/-- A write has been performed at its target: the bytes of a committed store, of a set or of a cue stream, are clean at the home. -/
def State.landWrite (s : State) (r : Request) (bs : List Byte) : State :=
  let t := runTab r.dpa bs
  let clean : State := ({ s with mem := s.mem.writeTab t } : State).cleanBytes r.world (r.dpa / 128) t
  match r.owner with
  | .set .. => clean
  | .cue t' => (if s.ctl.poolc then clean else s.placeWrite r.world t).onCue t' (fun C => { C with answers := C.answers.set 0 0 })
  | .op core e u => (s.placeWrite r.world t).ackRequest core e u
  | .launch l => (s.placeWrite r.world t).onLaunch l (fun L => { L with answers := L.answers.set 0 0 })
  | .home => s

/-- Masked bytes of a line have reached their target: those that were flushed and that the home still holds unchanged are clean (11 R268);
those of a copy take their place in the global order (10 R230). -/
def State.landFlush (s : State) (r : Request) (mask : BitVec 128) (bs : List Byte) : State :=
  let t := flushTab (r.dpa / 128) mask bs
  match r.owner with
  | .op core e u => (s.placeWrite r.world t).ackRequest core e u
  | _ => ({ s with mem := s.mem.writeTab t } : State).cleanBytes r.world (r.dpa / 128) t

/-- A reduction or a cue stream's atomic has been performed at its target; a buffer that has been sealed since it was sent fails the atomic
(11 R252; 06 R137). -/
def State.landAtomic (s : State) (r : Request) (op w cmp x : Nat) : State :=
  match r.owner with
  | .cue t =>
    if s.sealFor r = 1 then s.giveOld (.cue t) (badAnswer 0x2D 1)
    else
      let (s, old) := s.performFar r op w cmp x
      s.giveOld (.cue t) old
  | _ => (s.performFar r op w cmp x).1

/-- May data whose check has not ended be handed over: to a chunk, a home or a copy, and not to an atomic or a stream of single
accesses (10 R232; log 18)? -/
def Request.mayHold (r : Request) : Bool :=
  match r.owner, r.kind with
  | .cue _, _ | .launch _, _ | _, .atomic .. => false
  | _, _ => true

/-- Bytes that a request brings. -/
def ReqKind.brings : ReqKind → Nat
  | .fill => 128
  | .read n => n
  | .atomic _ w _ _ => w
  | _ => 0

/-- Bytes that a request moves over its link (24 Table 24-6 event 8). -/
def ReqKind.moves : ReqKind → Nat
  | .write bs => bs.length
  | .flush mask _ => ((List.range 128).filter (fun i => mask.getLsbD i)).length
  | k => k.brings

/-- Does an atomic of a cue stream wait for its buffer to drain (06 Table 6-6)? -/
def State.sealWaits (s : State) (r : Request) : Bool :=
  match r.kind with
  | .atomic .. => s.sealFor r == 2 && !r.owner.after
  | _ => false

/-- LINK_COMPLETION: the response of an outstanding request (07 R145; 10 R229, R230, R495; 25 R482). A write waits for its turn, and the lanes
of an `amo` for one another. -/
def execLinkCompletion (id status : Nat) (s : State) : Out :=
  match s.requests.get? id with
  | none => .next s
  | some r =>
    if (status = 3 && !r.mayHold) || s.sentBefore id r || s.lineWaits r then .next s
    else if r.isAmo then .next ((if r.answered.isSome then s else s.linkBytes r.world r.kind.moves).answerAmo id r ((s.linkCause r status).getD 0))
    else if s.sealWaits r then .next s
    else
      let s : State := { s with requests := s.requests.del id }
      match s.linkCause r status with
      | some cause => .next (s.linkError id r cause)
      | none =>
        let gs := granulesIn r.world r.dpa r.kind.brings
        let s := (if status = 3 && !gs.isEmpty then
          (match r.owner with
            | .op core e _ => s.onOp core e (fun o => { o with unverified := addAll o.unverified gs })
            | _ => s).markUnverified r.port gs else s).linkBytes r.world (max 1 r.kind.moves)
        .next (match r.kind with
          | .fill => s.landFill id r
          | .read n => s.landRead r n
          | .write bs => s.landWrite r bs
          | .flush mask bs => s.landFlush r mask bs
          | .atomic op w cmp x => s.landAtomic r op w cmp x)

/-! ### Ports going down and coming back (25 R484, 06 R142) -/

/-- A port's outstanding requests all receive error responses. -/
def State.failPort (s : State) (p : Nat) : State :=
  let gone := s.requests.filter (fun e => e.2.port == p)
  let s : State := { s with requests := s.requests.filter (fun e => e.2.port != p) }
  gone.foldl (fun (s : State) (e : Nat × Request) => s.linkError e.1 e.2 0x50) s

/-- Append a record to a slice's MSC error ring (06 R143). -/
def State.logMsc (s : State) (k a kind w : Nat) : State :=
  let r : ErrRec :=
    { time := s.now, dpa := a, kind := kind, syms := 0, world := w, pch := 0, bank := 0, row := 0, gen := (s.slice k).gen
      source := 0 }
  s.onSlice k (fun S => { S with
    mscErrs := { count := (S.mscErrs.count + 1) % 2 ^ 32, recs := S.mscErrs.recs.set (S.mscErrs.count % 256) r } })

/-- A line is poisoned in DRAM; the home's copy gives way to it, and no L1 keeps it. -/
def State.poisonLine (s : State) (w line : Nat) : State :=
  let s : State :=
    if isOutside (line * 128) then
      let g : Gran := { ver := 0, poison := true, bad := false, syms := 0 }
      { s with gran := (s.gran.set (granKey w (line * 128)) g).set (granKey w (line * 128 + 64)) g }
    else { (s.poisonWrite (line * 128)).poisonWrite (line * 128 + 64) with lines := s.lines.del (lineKey w line) }
  s.dropL1 (fun _ l => l.dpa == line && (l.world == w || !isOutside (line * 128)))

/-- Lines that the companion processor held are lost: modified ones are poisoned, logged and reported to the owning world,
clean ones dropped (06 R142). -/
def State.hostLoss (s : State) : State :=
  let lost := s.hostHeld.filter (fun e => e.2)
  let s : State := { s with hostHeld := [] }
  lost.foldl (fun (s : State) (e : Nat × Bool) =>
    let a := e.1 * 128
    let w := (s.frameWorld a).getD 0
    ((s.poisonLine w e.1).logMsc (s.home w e.1) a 15 w).worldCause w { cause := 0x55, addr := a }) s

/-- LINK_DOWN (25 R484): outstanding requests get error responses; a Rilem port takes the lines that the host held with it (06 R142). A
keyed link stream must be keyed again before the port is up, and a selective one before its world's requests succeed (log 67). -/
def execLinkDown (p : Nat) (s : State) : Out :=
  if !(s.port p).up then .next s
  else
    let s := s.onPort p (fun P => { P with
      up := false, lanes := 0, downs := satN 32 (P.downs + 1), ide := if P.ide = 1 then 2 else P.ide })
    let s := s.failPort p
    let s : State := { s with worlds := s.worlds.map (fun (e : Nat × World) => (e.1, { e.2 with trust := { e.2.trust with
      streams := e.2.trust.streams.map (fun x => if x = p then 16 + p else x) } })) }
    let s := if p < 2 then s.hostLoss else s
    .next { s with groups := s.groups.map (fun (e : Nat × Group) =>
      if 2 ≤ p && e.2.state = 2 then (e.1, { e.2 with absent := addAll e.2.absent ((List.range 16).filter (fun m =>
        bitAt e.2.members m && 2 + Config.poolPort (e.2.base + m) % 4 == p)) }) else e) }

/-- LINK_UP (25 R484): a port is usable again once trained and, when its link stream was insecure, keyed again. -/
def execLinkUp (p : Nat) (s : State) : Out :=
  if (s.port p).ide = 2 then .next s else .next (s.onPort p (fun P => { P with up := true, lanes := portLanes p }))

/-- HOST_RESET (06 R142). -/
def execHostReset (s : State) : Out := .next s.hostLoss

/-! ### The companion processor (25 R483) -/

/-- May the companion processor hold a line: a management frame of world 0 that stage two marks unprotected? -/
def State.hostMay (s : State) (a : Nat) : Bool :=
  isDram a && ((s.slice (sliceAt a)).frame (frameAt a)).ownersel == 2 && s.granFault 0 a == none &&
    match s.stageTwo 0 a false with
    | .ok l => !l.p && l.out * 4096 == a / 4096 * 4096
    | .error _ => false

/-- HOST_MEM_ACCESS: the companion processor takes a line, shared or modified, and writes 8 bytes of it (25 R483); or another agent
writes 8 bytes of host or pooled memory, which the device does not see before it reads the target (06 R140; log 61). -/
def execHostMemAccess (write : Bool) (a : Nat) (v : DWord) (s : State) : Out :=
  let bytes := leBytes 8 v.toNat
  if isOutside a && a % 8 == 0 then .next (if write then { s with mem := s.mem.writeBytes a bytes } else s)
  else if !s.hostMay a || a % 8 != 0 || !((s.port 0).up || (s.port 1).up) || s.lineBusy 0 (a / 128) then .next s
  else
    let held := (s.hostHeld.get? (a / 128)).getD false
    let s := s.serve 0 (a / 128 * 128) 128
    let s := if write then ((s.homeWrite 0 (runTab a bytes)).1).expose 0 [a / 128] else s
    .next { s with hostHeld := s.hostHeld.set (a / 128) (held || write) }

/-- BACK_INVALIDATE: the home takes a line back before a device access (25 R483). -/
def execBackInvalidate (line : Nat) (s : State) : Out := .next { s with hostHeld := s.hostHeld.del line }

/-- CXL_MEM_RESPONSE: DevLoad moves a world's issue window of a port (06 Table 6-8). -/
def execCxlMemResponse (w p load : Nat) (s : State) : Out :=
  let W := s.world w
  let x := W.wins.getD p 256
  let y := match load with
    | 0 => min (x + 1) W.maxout
    | 1 => x
    | 2 => max 1 (x / 2)
    | _ => max 1 (x / 4)
  .next (if p < 4 then s.onWorld w (fun W => { W with wins := Sys2Proof.setAt W.wins p y }) else s)

/-! ### Integrity checks (10 R232, 24 R475) -/

/-- IDE_CHECK_PASS: the data of a port is verified. -/
def execIdeCheckPass (p : Nat) (s : State) : Out :=
  .next { s with unverified := s.unverified.filter (fun e => e.2 != p) }

/-- Does a chunk's read set meet one of these granules? -/
def Chunk.tainted (c : Chunk) (gs : List Nat) : Bool := c.unverified.any gs.contains

/-- A set whose chunks read data that failed its check (10 R232). -/
def State.failSet (s : State) (t k : Nat) (S : SetState) (gs : List Nat) : State :=
  if (S.closing.map (·.tainted gs)).getD false then s.chunkFault t k 0x52 0x08 true
  else if (S.chunk.map (·.tainted gs)).getD false then s.chunkFault t k 0x52 0x08 false
  else s

/-- Is a world's traffic on a stream: the link stream 0, or its own selective stream, world + 1? -/
def onStream (stream w : Nat) : Bool := stream == 0 || stream == w + 1

/-- The worlds that have sets, copies or requests with data in flight on a stream of a port. -/
def State.inFlight (s : State) (p stream : Nat) (gs : List Nat) : List Nat :=
  let asked := (s.requests.filter (fun e => e.2.port == p)).map (·.2.world)
  let read := s.troupes.flatMap (fun (e : Nat × Troupe) =>
    if e.2.setTab.any (fun (f : Nat × SetState) => f.2.chunks.any (fun c => c.tainted gs)) then [s.worldOf e.2] else [])
  let copies := s.cores.flatMap (fun (e : Nat × Core) => (e.2.ops.filter (fun (o : Nat × Op) => o.2.unverified.any gs.contains)).map
    (fun (o : Nat × Op) => ((s.troupes.get? o.2.troupe).map s.worldOf).getD 0))
  (addAll [] (asked ++ read ++ copies ++ gs.map (· / 2 ^ 46))).filter (onStream stream)

/-- IDE_CHECK_FAIL: the stream goes insecure, what it carried is discarded, and its worlds are told (10 R232, 24 R475). Threads that had
their data and have not taken them ask again (log 18). -/
def execIdeCheckFail (p stream : Nat) (s : State) : Out :=
  let gs := Tab.keys (s.unverified.filter (fun e => e.2 == p && onStream stream (e.1 / 2 ^ 46)))
  let ws := s.inFlight p stream gs
  let s : State := { s with unverified := s.unverified.filter (fun e => !gs.contains e.1) }
  let s := s.troupes.foldl (fun (s : State) (e : Nat × Troupe) => e.2.setTab.foldl (fun (s : State) (f : Nat × SetState) =>
    if !gs.any (fun g => g / 2 ^ 46 == s.worldOf e.2) then s
    else (s.onSet e.1 f.1 (fun S => S.forget (List.range 32))).failSet e.1 f.1 f.2 gs) s) s
  let s := s.cores.foldl (fun (s : State) (e : Nat × Core) => e.2.ops.foldl (fun (s : State) (o : Nat × Op) =>
    if o.2.unverified.any gs.contains then
      (s.onOp e.1 o.1 (fun o => { o with unverified := [] })).holdOp e.1 o.1 (o.2.rowList.headD 0) 0x50 0 (o.2.pieceVa (o.2.pieces.headD 0))
    else s) s) s
  let held := s.copies.filter (fun e => gs.any (fun g => e.1 / 2 ^ 45 == g / 2 ^ 46 && e.1 % 2 ^ 45 == g % 2 ^ 46 / 2))
  let s := held.foldl (fun (s : State) (e : Nat × Copy) => s.poisonLine (e.1 / 2 ^ 45) (e.1 % 2 ^ 45)) s
  let s := ws.foldl (fun (s : State) w => s.worldCause w { cause := 0x52 }) s
  let s :=
    if stream = 0 then s.onPort p (fun P => { P with ide := 2 })
    else s.onWorld (stream - 1) (fun W => { W with
      trust := { W.trust with streams := addNew (W.trust.streams.filter (· != p)) (16 + p) } })
  .next (if 2 ≤ stream then s.errorWorld (stream - 1) 0x52 else s)

/-- IDE_KM: a stream of a port is keyed, again or for the first time (24 R475): 0 the link stream, world + 1 a selective
one. -/
def execIdeKm (p stream : Nat) (s : State) : Out :=
  if stream = 0 then .next (s.onPort p (fun P => { P with ide := 1 }))
  else if 65 < stream || 5 < p then .next s
  else .next (s.onWorld (stream - 1) (fun W => { W with
    trust := { W.trust with streams := addNew (W.trust.streams.filter (· != 16 + p)) p } }))

end Sys2Proof.Machine
end

