-- ==== Sys2Proof/Machine/Homes.lean ====
section
/-! DEFINITION. The L1s and the homes: fills, evictions, errors of the MSC arrays, sealed lines and the hotness ring
(06 R122, R125, R137, R143; 07 R146-R149, R162-R164; 10 R218). -/

namespace Sys2Proof.Machine

/-! ### Errors of the MSC arrays (06 R143) -/

/-- Is a held line dirty? -/
def State.lineDirty (s : State) (w line : Nat) : Bool :=
  ((s.lines.get? (lineKey w line)).map (·.dirty)).getD false ||
    ((s.copies.get? (lineKey w line)).map (fun c => c.dirty != 0)).getD false

/-- A soft error in a held line: `upset` 1 is one bit of a word, 2 two bits. A line of carved storage, which has no other source, counts as
clean, and its bytes stay (DESIGN CHOICE, log 75). A clean line that is dropped comes from its source again at
its next access; a dirty line of host or pooled memory stays at its home, poisoned. -/
def State.mscError (s : State) (w line upset : Nat) : State :=
  let k := s.home w line
  if !s.atHome w line then s
  else
    match upset with
    | 0 => s
    | 1 => s.logMsc k (line * 128) 12 w
    | _ =>
      if s.lineDirty w line then (s.poisonLine w line).logMsc k (line * 128) 14 w
      else (s.evictLine w line).logMsc k (line * 128) 13 w

/-! ### Filling an L1 (07 R146-R149) -/

/-- Does a thread of a core wait for a line, or a cue stream? -/
def State.fillWaits (s : State) (core : Nat) (m : Miss) : Bool :=
  let mine (ws : List Wake) : Bool := ws.contains (.filled (m.va * 128))
  s.troupes.any (fun (e : Nat × Troupe) => e.2.place.coreNo == core && (mine e.2.cue.stall ||
    e.2.setTab.any (fun (f : Nat × SetState) => f.2.missed.contains m.va || f.2.threads.any (fun th => th.live && match th.hold with
      | .until ws => mine ws
      | _ => false))))

/-- Why a miss cannot be served: its line's fill fails at its home or its bank. A line that its home must fetch first fails only where its
home is contained; what its link answers is the completion's (07 R145). -/
def State.missError (s : State) (w line : Nat) : Option Nat :=
  if isOutside (line * 128) && (s.copies.get? (lineKey w line)).isNone then
    if s.contained w (line * 128) then some 0x50 else none
  else s.fillError w line

/-- L1_MISS_FILL: a miss-status entry is served (07 R146-R149, 06 R122, R143). A line with a failing granule enters no L1;
each access then meets its own granule. -/
def execL1MissFill (core index upset : Nat) (s : State) : Out :=
  match (s.coreAt core).misses.get? index with
  | none => .next s
  | some m =>
    let set (s : State) (m : Miss) : State := s.onCore core (fun C => { C with misses := C.misses.set index m })
    let free (s : State) : State := s.onCore core (fun C => { C with misses := C.misses.del index })
    if m.err != 0 then (if s.fillWaits core m then .next s else .next (free s))
    else if (m.req.bind (fun id => s.requests.get? id)).isSome then .next s
    else
      let s := s.mscError m.world m.dpa upset
      match s.missError m.world m.dpa with
      | some c => .next (set s { m with err := c })
      | none =>
        if isOutside (m.dpa * 128) && (s.copies.get? (lineKey m.world m.dpa)).isNone then
          if !s.mayRead m.world (m.dpa * 128) then .next s
          else .next (set (s.send .fill .home m.world (m.dpa * 128) 0) { m with req := some s.nextId })
        else .next ((free s).fillL1 core m)

/-! ### Lines that leave -/

/-- MSC_EVICT: a home gives up a line: dirty bytes go back to their target, and chunks that read the line are squashed
(06 R122, 10 R218). A line that still drains, or whose target cannot take its bytes, stays, and so does a poisoned one; `upset` of 4 or
more is an error in a line that stays (06 R143). -/
def execMscEvict (w line upset : Nat) (s : State) : Out :=
  if !s.atHome w line || s.lineBusy w line then .next s
  else
    let s := s.mscError w line (upset % 4)
    if 4 ≤ upset || !s.atHome w line || !s.mayLeave w line then .next s else .next (s.evictLine w line)

/-- SEALED_LINE_EVICT: a sealed line leaves an L1 (06 Table 6-6). -/
def execSealedLineEvict (core line : Nat) (s : State) : Out :=
  .next (s.dropL1 (fun n l => n == core && l.sealed && l.dpa == line))

/-! ### The hotness ring (07 R163) -/

/-- The 32 bytes of a hotness record (07 Table 7-9). -/
def Sample.bytes (e : Sample) : List Byte :=
  leBytes 8 e.va ++ leBytes 8 e.time ++ leBytes 2 e.core ++ leBytes 1 e.kind ++ leBytes 1 e.tcid ++ leBytes 1 (b2n e.miss) ++
    List.replicate 11 0

/-- HOTNESS_RECORD: the oldest sample of a world in a cluster goes to the ring, or is dropped and counted. -/
def execHotnessRecord (cl w : Nat) (s : State) : Out :=
  match (s.cluster cl).due.find? (fun e => e.world == w) with
  | none => .next s
  | some e =>
    let spent (s : State) : State := s.onCluster cl (fun C => { C with due := C.due.erase e })
    let h := (s.world w).hot
    let onHot (s : State) (f : HotCtl → HotCtl) : State := s.onWorld w (fun W => { W with hot := f W.hot })
    let drop : Out := .next (onHot (spent s) (fun h => { h with drop := satN 32 (h.drop + 1) }))
    let size := 2 ^ h.log2sz
    if (h.head + 2 ^ 32 - h.tail) % 2 ^ 32 = size then drop
    else
      let va := h.base + 32 * (h.head % size)
      match s.driverDpa w 0 va 32 true with
      | .error _ => drop
      | .ok a =>
        match s.choreoWrite w a e.bytes with
        | (s, none) => .next (onHot (spent s) (fun h => { h with head := (h.head + 1) % 2 ^ 32 }))
        | (s, some _) => .next (onHot (spent s) (fun h => { h with drop := satN 32 (h.drop + 1) }))

end Sys2Proof.Machine
end

