-- ==== Sys2Proof/Machine/Leases.lean ====
section
/-! DEFINITION. Leases: grants with their walks, pins and snapshots, the faults before a launch and their answers, releases, and
the leases that a driver holds (07 R151-R164). -/

namespace Sys2Proof.Machine

/-! ### Pins (07 R154, R156) -/

/-- The DRAM frames that a snapshot maps: slice and frame, each once. -/
def Lease.framesOf (l : Lease) : List (Nat × Nat) :=
  addAll [] ((l.snap.filter (fun (e : Nat × Page) => isDram e.2.dpa)).map (fun e => (sliceAt e.2.dpa, frameAt e.2.dpa)))

/-- Pin or unpin the frames of a lease that the world owns still. -/
def State.pinAll (s : State) (w : Nat) (l : Lease) (up : Bool) : State :=
  (l.framesOf.filter (fun f => s.frameWorld (f.1 * 2 ^ 33 + f.2 * 2 ^ 21) == some w)).foldl (fun (s : State) (f : Nat × Nat) =>
    s.onFrame f.1 f.2 (fun fr => { fr with pinned := if up then fr.pinned + 1 else fr.pinned - 1 })) s

/-- Change a lease entry of a world. -/
def State.onLease (s : State) (w i : Nat) (f : Lease → Lease) : State :=
  s.onWorld w (fun W => { W with leases := W.leases.set i (f (W.leases.getD i Lease0)) })

/-- Drop TLB entries of a world. -/
def State.dropTlb (s : State) (w : Nat) (p : Tlb → Bool) : State :=
  { s with clusters := s.clusters.map (fun (e : Nat × Cluster) =>
      (e.1, { e.2 with tlb := e.2.tlb.filter (fun t => !(t.world == w && p t)) })) }

/-- Free a lease entry: its frames are unpinned and its translations leave the TLBs (07 R156). -/
def State.freeLease (s : State) (w i : Nat) : State :=
  let l := (s.world w).leases.getD i Lease0
  let s := if l.state = 2 && !l.streamed then s.pinAll w l false else s
  let s := s.dropTlb w (fun t => t.tcid == l.tcid && overlaps t.va (t.va + tlbPages t.size) l.base (l.base + l.len))
  s.onWorld w (fun W => { W with leases := W.leases.del i })

/-- The lowest free entry of the 256. -/
def World.freeEntry (W : World) : Option Nat := (List.range 256).find? (fun i => (W.leases.getD i Lease0).state == 0)

/-! ### The walk of a grant (07 R154) -/

/-- Pages are walked in order, each walk reading its tables, and recorded until one faults. -/
def State.walkPages (w : Nat) : List Nat → State → Lease → State × Lease × Option (Nat × WalkErr)
  | [], s, l => (s, l, none)
  | i :: is, s, l =>
    let va := (l.base + i) * 4096
    let walked := s.walk w l.tcid va
    let s := s.readTables w l.tcid va
    match walked with
    | .ok p => State.walkPages w is s { l with snap := l.snap.set (l.base + i) p, walked := i + 1 }
    | .error e => (s, l, some (va, e))

/-- Who waits for the grant of an entry: the launch and its lease-list index, or the driver. -/
def State.grantIndex (s : State) (l : Lease) : Nat :=
  match l.waiter.bind (fun n => s.launches.get? n) with
  | some L => match L.stage with
    | .granting i => i
    | _ => 0
  | none => if l.drv then 30 else 0

/-- One advance of a granting entry: the rest of the walk, then the pins and the snapshot (07 R154). -/
def State.grantMore (s : State) (w i : Nat) : State :=
  let l := (s.world w).leases.getD i Lease0
  let waiter := if l.drv then 2 else 1
  if l.state != 1 || s.faultStands w waiter i 0 then s
  else
    let (s, l', bad) := State.walkPages w ((List.range l.len).drop l.walked) s l
    let s := s.onLease w i (fun _ => l')
    match bad with
    | some (va, e) => s.reportFault w (s.grantIndex l) (s.grantIndex l) l.tcid va e waiter i 0
    | none =>
      let s := (s.pinAll w l' true).onLease w i (fun l => { l with state := 2, waiter := none, last := s.now })
      if l.drv && (s.world w).lreq.busy && (s.world w).lreq.index = i then
        s.onWorld w (fun W => { W with lreq := { W.lreq with busy := false, result := 0 } })
      else s

/-- LEASE_GRANT. -/
def execLeaseGrant (w i : Nat) (s : State) : Out := .next (s.grantMore w i)

/-- DRIVER_LEASE_REQUEST: the command of XL_LREQ takes a free entry, and its grant goes on (07 R164). -/
def execDriverLeaseRequest (w : Nat) (s : State) : Out :=
  let W := s.world w
  let r := W.lreq
  let finish (n : Nat) : State := s.onWorld w (fun W => { W with lreq := { W.lreq with busy := false, result := n } })
  if !r.busy then .next s
  else if (W.leases.getD r.index Lease0).state = 1 && (W.leases.getD r.index Lease0).drv then .next (s.grantMore w r.index)
  else if r.len = 0 || decide (2 ^ 36 < r.base + r.len) then .next (finish 3)
  else
    match W.freeEntry with
    | none => .next (finish 2)
    | some i =>
      let l : Lease := { Lease0 with state := 1, rw := r.acc, drv := true, base := r.base, tcid := r.tcid, len := r.len }
      let s := s.onWorld w (fun W => { W with leases := W.leases.set i l, lreq := { W.lreq with index := i, result := 1 } })
      .next (s.grantMore w i)

/-! ### Answers (07 R160, R161) -/

/-- What waits for a fault is refused: status 5, or RESULT 3 of the driver's request; a completion counts its access as failed (21
R437). -/
def State.denied (s : State) (w waiter entry lease core : Nat) : State :=
  match waiter with
  | 1 =>
    let l := ((s.world w).leases.getD entry Lease0).waiter
    let s := s.freeLease w entry
    match l with
    | some n => s.refuse n 5 lease
    | none => s
  | 2 =>
    (s.freeLease w entry).onWorld w (fun W => { W with lreq := { W.lreq with busy := false, result := 3 } })
  | 4 => s.refuse entry 5 (0x80 + core)
  | 5 => s.refuse entry 5 0
  | 6 => s.onLaunch entry (fun L => { L with answers := L.answers.set 1 0x20 })
  | _ => s

/-- FAULT_RETRY: XL_FLT.RESP 1; the next fault of the world is shown (R160). The driver of a world in ERROR is not served (24 R471). -/
def execFaultRetry (w : Nat) (s : State) : Out :=
  .next (if (s.world w).flt.pend && s.takesWrite w then s.nextOne w else s)

/-- FAULT_ABORT: XL_FLT.RESP 2. -/
def execFaultAbort (w : Nat) (s : State) : Out :=
  let f := (s.world w).flt
  if !f.pend || !s.takesWrite w then .next s
  else .next ((s.nextOne w).denied w f.waiter f.entry f.lease f.core)

/-- S2_FAULT_RETRY: XL_S2F.RESP 1. -/
def execS2FaultRetry (s : State) : Out :=
  .next (if s.s2f.pend && s.takesWrite 0 then ({ s with s2f := { s.s2f with pend := false, resp := 1 } } : State).nextTwo else s)

/-- S2_FAULT_DENY: XL_S2F.RESP 2; a copy takes the denial at its next transfer. -/
def execS2FaultDeny (s : State) : Out :=
  let f := s.s2f
  if !f.pend || !s.takesWrite 0 then .next s
  else .next (({ s with s2f := { f with pend := false, resp := 2 } } : State).denied f.world f.waiter f.entry f.lease f.core).nextTwo

/-- S2_INVALIDATE: every TLB drops the world's entries, the changes of a locked world's stage-two tables take effect, and XL_S2ROOT.INV
reads 0 (07 R151, 24 R473). -/
def execS2Invalidate (w : Nat) (s : State) : Out :=
  if !(s.world w).trust.s2inv then .next s
  else
    let s := s.dropTlb w (fun _ => true)
    let s := if (s.world w).trust.s2tab.isSome then s.fixTables w else s
    .next (s.onWorld w (fun W => { W with trust := { W.trust with
      s2inv := false, s2gen := if s.lockedWorld w then satN 32 (W.trust.s2gen + 1) else W.trust.s2gen } }))

/-! ### Releases (07 R156, R164) -/

/-- LEASE_RELEASE: a release asked for takes effect once no launch uses the entry. -/
def execLeaseRelease (w i : Nat) (s : State) : Out :=
  let l := (s.world w).leases.getD i Lease0
  if l.rel && l.state = 2 && l.users = 0 then .next (s.freeLease w i) else .next s

/-- LEASE_RECLAIM: an entry that no launch has used for 100 ms and no driver holds (R156, log 26). -/
def execLeaseReclaim (w i : Nat) (s : State) : Out :=
  let l := (s.world w).leases.getD i Lease0
  if !l.drv && l.state = 2 && l.users = 0 && decide (10 ^ 8 ≤ s.now - l.last) then .next (s.freeLease w i) else .next s

end Sys2Proof.Machine
end

