-- ==== Sys2Proof/Machine/Place.lean ====
section
/-! DEFINITION. Units as they are created: an empty launch, a troupe with its sets and threads (09 Table 9-1, 20 R412),
and the issue that the next step continues with. -/

namespace Sys2Proof.Machine

/-- A descriptor with every field 0. -/
def Desc0 : Desc :=
  { flags := 0, cueEntry := 0, stepEntry := 0, sets := 1, troupes := 1, vregs := 0, tiles := 0, uregs := 0, spad := 0
    codeSize := 0, lit := 0, litSize := 0, codeOff := 0, leases := [], stages := [], ranges := [], layouts := []
    listEnd := 0, bad := none }

/-- A launch as step 1 of 21 Table 21-5 creates it. -/
def Launch0 : Launch :=
  { world := 0, slot := 0, qid := 0, seq := 0, tcid := 0, vec := 0, prio := 0, words := [], stage := .dependency, desc := Desc0, code := []
    s := [], win := [], ppc := 0, count := 0, runs := 0, again := false, ovf := false, nan := false, status := 0, user := false
    detail := 0, ending := false, uses := [], rngs := [], wins := [], next := 0, ended := 0, saved := []
    handler := none, hcode := [], placed := false, began := none, answers := [], owned := true }

/-- A set whose threads of a live mask start at an address (09 R211, 20 R412). -/
def SetState.start (pc : Nat) (live : Word) : SetState :=
  { threads := (List.range 32).map (fun i => Thread.fresh pc (inMask live i)), ports := List.replicate 8 []
    chunk := none, closing := none, squashes := 0, txSquashes := 0, starving := false, txCode := 0, handler := none
    trapReady := none, traps := [], waiting := none, accepted := 0, answers := [], joined := 0, retry := 0, missed := []
    names := Names0 }

/-- A cue stream as it starts. -/
def Cue.start (pc : Nat) : Cue :=
  { pc := pc, ended := false, win := [], handler := none, traps := [], idle := false, waiting := false, stall := [], answers := [] }

/-- The launch argument words as s0 to s11 (09 Table 9-1, 21 R430). -/
def argRegs (words : List DWord) : Tab DWord :=
  (List.range 12).map (fun k => (k, BitVec.ofNat 64 (nfld (words.getD (k / 2) 0).toNat (32 * (k % 2)) 32)))

/-- Live lanes of set `k` as the troupe starts: every thread but those whose quad lies wholly beyond the limit (13 R294). -/
def startMask (lim : Option Nat) (T : Troupe) (troupes k : Nat) : Word :=
  maskOf (fun i => (List.range 4).any (fun q => !beyond lim (globalIndex T troupes k (i / 4 * 4 + q))))

/-- A troupe of a launch at its placement, not started (09 R197, R211; 08 R165; 15 R339). A microkernel has no cue
stream (05 R92). -/
def Launch.troupe (L : Launch) (l company index : Nat) (p : Place) : Troupe :=
  let d := L.desc
  let T : Troupe :=
    { launch := l, company := company, index := index, place := p, sets := d.sets, vregs := d.vregs, uregs := d.uregs
      tileCount := d.tiles, spadSize := d.spad, s := argRegs L.words, first := argRegs L.words
      cue := { Cue.start d.cueEntry with ended := p.isUnit }, amask := 0, spad := [], lines := [], tiles := []
      setTab := [], started := false, staged := false, halted := false, cmd := 0
      spill := if p.isUnit then none else some { world := L.world, home := p.slice, bytes := d.sets * d.vregs * 128 } }
  { T with
    setTab := (List.range d.sets).map (fun k => (k, SetState.start d.stepEntry (startMask L.limit T d.troupes k))) }

/-- Register pages and a code object for one word at offset 0x100 of a page at DPA 0x1000 of slice 0. -/
def probeDesc (unit : Bool) : Desc :=
  { Desc0 with
    flags := if unit then 1 else 0, cueEntry := 0x100, stepEntry := 0x100, vregs := if unit then 64 else 120
    uregs := if unit then 0 else 512, tiles := if unit then 0 else 16, spad := if unit then 0 else 4096
    codeSize := 0xE00, codeOff := 0x100 }

/-- The launch that a placed word belongs to: world 1, one company of one troupe, admitted and running. -/
def probeLaunch (unit : Bool) : Launch :=
  { Launch0 with
    world := 1, desc := probeDesc unit, code := [(0, 1)], words := List.replicate 8 0 ++ [0x0000000100010001] ++ List.replicate 7 0
    stage := .running, next := 1, runs := 0 }

/-- The front end that runs a table word: the one whose decoder `decodeTableWord` takes it from. -/
def probeAgent (w : Nat) : Agent × Bool :=
  let f : Figure := { troupe := 1, set := 0, mask := BitVec.allOnes 32, pc := 0x100, more := false }
  let bs := leBytes 4 w
  match decodeBytes .core bs, decodeBytes .nearBank bs, decodeBytes .cue bs with
  | .ok _, _, _ => (.step f, false)
  | _, .ok _, _ => (.step f, true)
  | _, _, .ok _ => (.cue 1, false)
  | _, _, _ => (.prologue 1, false)

/-- A state in which the next step fetches a word, decodes it and runs it: the word as code of a placed troupe (or of a
prologue run) of world 1, whose slice 0 it owns, and the issue of that code in progress (log 2). -/
def State.placeWord (s : State) (w : Nat) : State :=
  let (a, unit) := probeAgent w
  let L := { probeLaunch unit with stage := (match a with | .prologue _ => Stage.prologue | _ => Stage.running), ppc := 0x100 }
  let T := { L.troupe 1 0 0 (if unit then .unit 0 0 else .core 0) with started := true, staged := true }
  let s := s.onSlice 0 (fun S => { S with
    owner := 1, state := 1, frames := S.frames.set 0 { Frame0 with ownersel := 1, pz := false } })
  let s := s.onWorld 1 (fun W => { W with trust := { W.trust with tstate := 3 }, outside := [0] })
  { s with
    mem := s.mem.writeBytes 0x1100 (leBytes 4 w)
    launches := s.launches.set 1 L
    troupes := s.troupes.set 1 T
    cur := some { agent := a, group := 0x100, word := 0x100, hints := [] } }

end Sys2Proof.Machine
end

