-- ==== Sys2Proof/Machine/Queues.lean ====
section
/-! DEFINITION. Queues and the first steps of a launch: doorbells, gangs, dequeue, dependencies and bound fields
(21 R426-R439). -/

namespace Sys2Proof.Machine

/-- May the choreographer take work of a world: its interface in RUN and the device not locked down (22 R446, 24 R470)? -/
def State.accepts (s : State) (w : Nat) : Bool := s.tstate w == 3 && !(s.world w).trust.stopping && !s.lockedDown

/-! ### Doorbells (21 R426) -/

/-- Has a queue more records pending than its ring holds? -/
def Slot.overrun (q : Slot) : Bool := decide (2 ^ q.log2sz < (q.wptr + 2 ^ 32 - q.rptr) % 2 ^ 32)

/-- DOORBELL. -/
def execDoorbell (w i : Nat) (v : Word) (s : State) : Out :=
  let q := s.slot i
  if !s.accepts w || q.state = 0 || q.world != w then .next s
  else
    let s := s.onSlot i (fun q => { q with wptr := v.toNat })
    if (s.slot i).overrun then .next (s.queueFault i 0x71 1 0x10 0) else .next s

/-! ### Gangs (21 R427, R428) -/

/-- A queue record's fields, as a slot, when its bytes keep Table 21-1. -/
def slotOfRecord (w gang record : Nat) (b : List Byte) : Option Slot :=
  let f (o n : Nat) : Nat := leNat ((b.drop o).take n)
  if f 0 8 % 128 != 0 || f 8 1 = 0 || decide (16 < f 8 1) || decide (3 < f 9 1) || decide (63 < f 0xB 1) ||
      decide (2 ^ 20 ≤ f 0xC 4) || f 0x1B 5 != 0 || f 0x28 24 != 0 then none
  else
    some { Slot0 with
      state := 1, world := w, gang := gang, record := record, ring := f 0 8, log2sz := f 8 1, prio := f 9 1
      eprio := f 9 1, tcid := f 0xA 1, vec := f 0xB 1, qid := f 0xC 4, wptr := f 0x10 4, rptr := f 0x14 4
      ecause := f 0x19 1 % 128, ereason := f 0x1A 1, eaddr := f 0x20 8 }

/-- The queues whose records stand at some addresses, in order, or RESULT 3. -/
def State.gangRecords (w gang : Nat) : List Nat → State → List Slot → State × Option (List Slot)
  | [], s, qs => (s, some qs)
  | va :: vas, s, qs =>
    match s.choreoRead (.driver false) w va 64 with
    | (s, .ok b) =>
      match slotOfRecord w gang va b with
      | some q => if bitAt ((s.world w).ctx.getD q.tcid 0) 0 then State.gangRecords w gang vas s (qs ++ [q]) else (s, none)
      | none => (s, none)
    | (s, .error (.bad c)) => (s.unreadRecord w va c, none)
    | (s, .error (.wait ..)) => (s, none)

/-- The queues that a gang's list names, or RESULT 3. -/
def State.gangQueues (s : State) (w : Nat) (g : GangCmd) : State × Option (List Slot) :=
  match s.choreoRead (.driver false) w (g.list * 128) (8 * g.count) with
  | (s, .ok bs) => State.gangRecords w g.gang ((List.range g.count).map (fun k => leNat ((bs.drop (8 * k)).take 8))) s []
  | (s, .error _) => (s, none)

/-- The free slots, ascending. -/
def State.freeSlots (s : State) : List Nat := (List.range 2048).filter (fun i => (s.slot i).state == 0)

/-- Is a QID mapped in the world, or named twice? -/
def State.duplicateQid (s : State) (w : Nat) (qs : List Slot) : Bool :=
  !decide ((qs.map (·.qid)).Nodup) ||
    s.slots.any (fun (e : Nat × Slot) => e.2.state != 0 && e.2.world == w && qs.any (fun q => q.qid == e.2.qid))

/-- A gang command ends with a result. -/
def State.gangDone (s : State) (w r : Nat) : State :=
  s.onWorld w (fun W => { W with gang := { W.gang with busy := false, result := r } })

/-- Write a field of a queue record through its capability; a failure is recorded against the queue (21 R439). Answers whether it was
written. -/
def State.recordWrite (s : State) (i off : Nat) (bs : List Byte) (seq : Nat) : State × Bool :=
  let cap := (s.slot i).recordCap
  let at' := cap.base + off
  match s.driverDpa cap.world 0 at' bs.length true with
  | .error c => (s.queueFault i (queueCause c).1 (queueCause c).2 at' seq, false)
  | .ok a => match s.choreoWrite cap.world a bs with
    | (s, none) => (s, true)
    | (s, some c) => (s.queueFault i (queueCause c).1 (queueCause c).2 at' seq, false)

/-- The same, of a write outside any launch. -/
def State.recordPut (s : State) (i off : Nat) (bs : List Byte) : State := (s.recordWrite i off bs 0).1

/-- The newest launch of a queue that has not completed (21 R436). -/
def State.newestOf (s : State) (w qid : Nat) : Option Nat :=
  (s.launches.filter (fun (e : Nat × Launch) => e.2.world == w && e.2.qid == qid)).foldl (fun (best : Option Nat) e =>
    some (max (best.getD 0) e.1)) none

/-- A queue is mapped into a free slot: its launches of an earlier mapping still come before its next one (21 R428, R436). -/
def State.mapQueue (s : State) (i : Nat) (q : Slot) : State :=
  let s := (s.onSlot i (fun _ => { q with last := s.newestOf q.world q.qid })).recordPut i 0x18 (leBytes 1 1)
  if (s.slot i).state = 1 && q.overrun then s.queueFault i 0x71 1 0x10 0 else s

/-- A queue is unmapped at a record boundary: RPTR and STATE 0 in its record, and its slot is free (21 R428). -/
def State.unmapQueue (s : State) (i : Nat) : State :=
  let s := (s.recordPut i 0x14 (leBytes 4 (s.slot i).rptr)).recordPut i 0x18 (leBytes 1 0)
  { s with slots := s.slots.del i }

/-- GANG_MAP: every queue of the gang, or none. Of several reasons the RESULT is the first of 5, 3 (a COUNT outside 1 to 64), 2, 3, 4, and a
list or record that cannot be read is RESULT 3 (DESIGN CHOICE, log 67). -/
def execGangMap (w : Nat) (s : State) : Out :=
  let g := (s.world w).gang
  if !g.busy || g.op then .next s
  else if !s.accepts w then .next (s.gangDone w 5)
  else if g.count = 0 || decide (64 < g.count) then .next (s.gangDone w 3)
  else
    let free := s.freeSlots
    if free.length < g.count then .next (s.gangDone w 2)
    else
      match s.gangQueues w g with
      | (s, none) => .next (s.gangDone w 3)
      | (s, some qs) =>
        if s.duplicateQid w qs then .next (s.gangDone w 4)
        else
          .next (((free.zip qs).foldl (fun (s : State) (e : Nat × Slot) => s.mapQueue e.1 e.2) s).gangDone w 0)

/-- Has a queue reached a record boundary: no dequeue of its launches is under way, and no prologue is running (21 R428)? -/
def State.atBoundary (s : State) (i : Nat) : Bool :=
  !s.launches.any (fun (e : Nat × Launch) =>
    (e.2.stage == .prologue || e.2.stage == .reading) && !e.2.ending && s.slotOf e.2 == some i)

/-- The slots that hold a gang's queues. -/
def State.gangSlots (s : State) (w gang : Nat) : List Nat :=
  Tab.keys (s.slots.filter (fun (e : Nat × Slot) => e.2.state != 0 && e.2.world == w && e.2.gang == gang))

/-- GANG_UNMAP: the gang's queues stop dequeueing, and each is unmapped at its first record boundary. -/
def execGangUnmap (w : Nat) (s : State) : Out :=
  let g := (s.world w).gang
  if !g.busy || !g.op then .next s
  else if !s.accepts w || (s.gangSlots w g.gang).isEmpty then .next (s.gangDone w 5)
  else
    let s := (s.gangSlots w g.gang).foldl (fun (s : State) i => s.onSlot i (fun q => { q with state := 3 })) s
    let s := ((s.gangSlots w g.gang).filter s.atBoundary).foldl State.unmapQueue s
    if (s.gangSlots w g.gang).isEmpty then .next (s.gangDone w 0) else .next s

/-! ### Descriptors (03 R65, R66) -/

/-- Field `o` of `n` bytes. -/
def fieldAt (b : List Byte) (o n : Nat) : Nat := leNat ((b.drop o).take n)

/-- The lists that a descriptor names, read from the code object. -/
structure Lists where
  leases : List Byte
  stages : List Byte
  ranges : List Byte
  layouts : List Byte
  deriving DecidableEq, Repr, Inhabited

/-- Entry `i` of 16 bytes. -/
def entryOf (b : List Byte) (i : Nat) : List Byte := (b.drop (16 * i)).take 16

/-- The offset of the first field of a descriptor that breaks 03 Table 3-2, holds a nonzero reserved byte, or lies outside the
code section. A wrong MAGIC or VERSION, a LITALIGN outside 3 to 12 and a nonzero CUE_ENTRY of a microkernel, which 03 R65 does not list, are
refused like these, and an entry in the code section that is no multiple of 4 is not refused (DESIGN CHOICE, log 27). -/
def descBad (b : List Byte) (x : Lists) : Option Nat :=
  let f := fieldAt b
  let micro := bitAt (f 6 2) 0
  let inCode (e : Nat) : Bool := decide (f 0x60 8 ≤ e) && decide (e + 4 ≤ f 0x60 8 + f 0x2C 4)
  let vregs := f 0x1A 1
  let leaseBad (e : List Byte) : Bool := let g := fieldAt e
    decide (11 < g 0 1) || decide (1 < g 1 1) || decide (1 < g 2 1) || g 3 5 != 0 || g 8 8 % 4096 != 0
  let stageBad (e : List Byte) : Bool := let g := fieldAt e
    decide (11 < g 0 1) || g 1 3 != 0 || g 4 4 % 128 != 0 || g 8 4 % 128 != 0 || g 12 4 % 128 != 0 ||
      decide (f 0x20 4 < g 4 4 + g 12 4)
  let rangeBad (e : List Byte) : Bool := let g := fieldAt e
    let sc := sextNat 8 (g 2 1)
    decide (11 < g 0 1) || decide (2 < g 1 1) || g 3 5 != 0 || (g 1 1 != 2 && g 2 1 != 0) ||
      decide (sc < -64) || decide (63 < sc)
  let entries (l : List Byte) (n : Nat) : List (List Byte) := (List.range n).map (entryOf l)
  let items : List (Nat × Bool) := [(0x00, f 0 4 != 0x4B34365A), (0x04, f 4 2 != 1), (0x06, decide (1 < f 6 2)),
    (0x08, if micro then f 8 8 != 0 else !inCode (f 8 8)), (0x10, !inCode (f 0x10 8)),
    (0x18, f 0x18 1 == 0 || decide (32 < f 0x18 1)), (0x19, f 0x19 1 == 0 || decide (32 < f 0x19 1)),
    (0x1A, vregs % 8 != 0 || vregs == 0 || decide ((if micro then 64 else 120) < vregs)),
    (0x1B, decide (64 < f 0x1B 1)), (0x1C, decide (512 < f 0x1C 2)), (0x1E, f 0x1E 2 != 0),
    (0x20, f 0x20 4 % 128 != 0 || decide (524288 < f 0x20 4)), (0x24, decide (f 0x24 1 < 3) || decide (12 < f 0x24 1))]
  let lists : List (Nat × Bool) := [(0x25, decide (16 < f 0x25 1)), (0x26, decide (8 < f 0x26 1)), (0x27, decide (8 < f 0x27 1)),
    (0x28, decide (64 < f 0x28 2)), (0x2A, f 0x2A 2 != 0), (0x5C, f 0x5C 4 != 0), (0x68, f 0x68 24 != 0),
    (0x30, (entries x.leases (min 16 (f 0x25 1))).any leaseBad), (0x38, (entries x.stages (min 8 (f 0x26 1))).any stageBad),
    (0x40, (entries x.ranges (min 8 (f 0x27 1))).any rangeBad),
    (0x48, (List.range (min 64 (f 0x28 2))).any (fun i => decide (4095 < fieldAt x.layouts (2 * i) 2)))]
  (items ++ lists).findSome? (fun (e : Nat × Bool) => if e.2 then some e.1 else none)

/-- The descriptor that bytes and lists describe. -/
def descOf (b : List Byte) (x : Lists) : Desc :=
  let f := fieldAt b
  let per (l : List Byte) (n : Nat) (g : List Byte → Nat × Nat × Nat × Nat) : List (Nat × Nat × Nat × Nat) :=
    (List.range n).map (fun i => g (entryOf l i))
  { flags := f 6 2, cueEntry := f 8 8, stepEntry := f 0x10 8, sets := f 0x18 1, troupes := f 0x19 1, vregs := f 0x1A 1
    tiles := f 0x1B 1, uregs := f 0x1C 2, spad := f 0x20 4, codeSize := f 0x2C 4, lit := f 0x50 8, litSize := f 0x58 4
    codeOff := f 0x60 8
    leases := per x.leases (min 16 (f 0x25 1)) (fun e => (fieldAt e 0 1, fieldAt e 1 1, fieldAt e 2 1, fieldAt e 8 8))
    stages := per x.stages (min 8 (f 0x26 1)) (fun e => (fieldAt e 0 1, fieldAt e 4 4, fieldAt e 8 4, fieldAt e 12 4))
    ranges := (List.range (min 8 (f 0x27 1))).map (fun i =>
      let e := entryOf x.ranges i
      (fieldAt e 0 1, fieldAt e 1 1, fieldAt e 8 8, sextNat 8 (fieldAt e 2 1)))
    layouts := (List.range (min 64 (f 0x28 2))).map (fun i => fieldAt x.layouts (2 * i) 2)
    listEnd := maxNat [f 0x30 8 + 16 * f 0x25 1, f 0x38 8 + 16 * f 0x26 1, f 0x40 8 + 16 * f 0x27 1, f 0x48 8 + 2 * f 0x28 2]
    bad := descBad b x }

/-- Read a kernel descriptor and its lists through a translation of the code object: all at once (DESIGN CHOICE,
log 27). -/
def State.readDesc (s : State) (t : Through) (w code off : Nat) : State × Except Stuck Desc :=
  match s.choreoRead t w (code + off) 128 with
  | (s, .error c) => (s, .error c)
  | (s, .ok b) =>
    let f := fieldAt b
    let ns : List (Nat × Nat) := [(f 0x30 8, 16 * min 16 (f 0x25 1)), (f 0x38 8, 16 * min 8 (f 0x26 1)),
      (f 0x40 8, 16 * min 8 (f 0x27 1)), (f 0x48 8, 2 * min 64 (f 0x28 2))]
    match State.choreoPieces t w s [] (ns.flatMap (fun n => granulePieces (n.2 / 64 + 2) (code + n.1) n.2)) with
    | (s, .error c) => (s, .error c)
    | (s, .ok x) =>
      let part (k : Nat) : List Byte :=
        (x.drop (((ns.take k).map (·.2)).foldl (· + ·) 0)).take (((ns[k]?).map (·.2)).getD 0)
      (s, .ok (descOf b { leases := part 0, stages := part 1, ranges := part 2, layouts := part 3 }))

/-- The 4 KiB pages of the code and literal sections, by offset. -/
def Desc.pages (d : Desc) : List Nat :=
  let pages (off n : Nat) : List Nat := if n = 0 then [] else (List.range ((off + n - 1) / 4096 + 1 - off / 4096)).map (fun i => off / 4096 + i)
  addAll (pages d.codeOff d.codeSize) (pages d.lit d.litSize)

/-- Offset page to device page, of those that are translated (log 12). -/
def State.codePages (s : State) (t : Through) (w code : Nat) (d : Desc) : Tab Nat :=
  d.pages.foldl (fun (m : Tab Nat) p =>
    match s.look t w (code + p * 4096) with
    | .dpa a => Tab.set m p (a / 4096)
    | _ => m) []

/-- The walks for these pages read their tables. -/
def State.readPages (s : State) (t : Through) (w code : Nat) (d : Desc) : State :=
  d.pages.foldl (fun (s : State) p => s.lookReads t w (code + p * 4096)) s

/-- The first page of the code whose translation meets a stage-two fault. -/
def State.codeWait (s : State) (t : Through) (w code : Nat) (d : Desc) : Option (Nat × WalkErr) :=
  d.pages.findSome? (fun p => match s.look t w (code + p * 4096) with
    | .wait e => some (code + p * 4096, e)
    | _ => none)

/-! ### Dequeue (21 R430, R433, R436) -/

/-- Word `k` of a working copy. -/
def Launch.word (L : Launch) (k : Nat) : Nat := (L.words.getD k 0).toNat

/-- Does a working copy break its reserved fields, flags or alignments (21 R430, R431)? -/
def recordBad (ws : List DWord) : Bool :=
  let x (k : Nat) : Nat := (ws.getD k 0).toNat
  let flags := nfld (x 10) 0 16
  x 6 % 4096 != 0 || decide (2 ^ 48 ≤ x 6) || nfld (x 7) 0 32 % 128 != 0 || nfld (x 7) 32 32 % 4 != 0 ||
    nfld (x 8) 48 16 != 0 || nfld (x 9) 48 16 != 0 || nfld flags 5 2 == 3 || nfld flags 7 9 != 0 ||
    nfld (x 10) 30 2 != 0 || nfld (x 10) 32 32 != 0 || x 12 % 8 != 0 || x 14 != 0 || x 15 != 0

/-- Is an address usable for completion or a dependency: a multiple of 8 in device or host memory (21 R430, R433)? -/
def State.usable (s : State) (w tcid va : Nat) : Looked :=
  if va % 8 != 0 then .bad 0x29
  else
    match s.choreoPage w tcid va with
    | .ok p =>
      let a := p.dpa + va % 4096
      if isDram a || isCarved a || isHost a then .dpa a else .bad 0x20
    | .error .one => .bad 0x20
    | .error e => .wait e

/-- Has the queue's previous launch placed all its companies, and completed if this one is serial (21 R436)? -/
def State.mayFollow (s : State) (q : Slot) (serial : Bool) : Bool :=
  match q.last.bind (fun l => s.launches.get? l) with
  | some L => !serial && (L.placed || L.ending)
  | none => true

/-- A launch's status-only end at step 1, when its signal is usable; otherwise it releases nothing (21 R439). -/
def State.stopQueue (s : State) (l reason addr : Nat) : State :=
  match s.launches.get? l with
  | some L => (match s.slotOf L with
    | some i => s.queueFault i 0x71 reason addr L.seq
    | none => s).refuse l 1 0
  | none => s

/-- Step 1 with a descriptor: the capability of the code object, and its pages. -/
def State.admitDesc (s : State) (l : Nat) (L : Launch) (d : Desc) : State :=
  let t := Through.context L.tcid
  let cap := d.codeCap L.world (L.word 6)
  let desc := cap.base + nfld (L.word 7) 0 32
  let proff := cap.base + nfld (L.word 7) 32 32
  if !cap.holds desc 128 then s.stopQueue l 2 desc
  else if L.flag 0 && !cap.holds proff 4 then s.stopQueue l 2 proff
  else
    let waits := s.codeWait t L.world cap.base d
    let pages := s.codePages t L.world cap.base d
    let s := s.readPages t L.world cap.base d
    match waits with
    | some (va, e) => s.awaitTwo l va e
    | none => s.onLaunch l (fun L => { L with desc := d, code := pages, stage := .dependency })

/-- Step 1 after the record is read: completion addresses, the record, the descriptor and the code object. A stage-two fault of the
launch's own words is reported, and the launch waits for its answer (07 R161). -/
def State.admitRecord (s : State) (l : Nat) (L : Launch) : State :=
  let w := L.world
  let t := Through.context L.tcid
  let put (s : State) (f : List DWord → List DWord) : State := s.onLaunch l (fun L => { L with words := f L.words })
  if !bitAt ((s.world w).ctx.getD L.tcid 0) 0 then s.refuse l 1 0
  else
    let signal := s.usable w L.tcid (L.word 11)
    let statusa := if L.word 13 = 0 then .dpa 0 else s.usable w L.tcid (L.word 13)
    let s := s.lookReads t w (L.word 11)
    let s := if L.word 13 = 0 then s else s.lookReads t w (L.word 13)
    match signal, statusa with
    | .wait e, _ => s.awaitTwo l (L.word 11) e
    | .bad _, _ => (put s (fun _ => [])).stopQueue l 3 (L.word 11)
    | .dpa _, .wait e => s.awaitTwo l (L.word 13) e
    | .dpa _, .bad _ => (put s (fun ws => Sys2Proof.setAt ws 13 0)).stopQueue l 3 (L.word 13)
    | .dpa _, .dpa _ =>
      if recordBad L.words then s.refuse l 1 0
      else
        match s.readDesc t w (L.word 6) (nfld (L.word 7) 0 32) with
        | (s, .error (.bad c)) => s.refuse l 2 c
        | (s, .error (.wait va e)) => s.awaitTwo l va e
        | (s, .ok d) => s.admitDesc l L d

/-- A launch whose dequeue fails a capability completes with status 1 when its signal is usable (21 R439). -/
def State.faulted (s : State) (l : Nat) (L : Launch) : State :=
  let bad (k : Nat) : Bool := match s.usable L.world L.tcid (L.word k) with
    | .bad _ => true
    | _ => false
  let words := if !bitAt ((s.world L.world).ctx.getD L.tcid 0) 0 || bad 11 then [] else if bad 13 then Sys2Proof.setAt L.words 13 0 else L.words
  (s.onLaunch l (fun L => { L with words := words })).refuse l 1 0

/-- LAUNCH_DEQUEUE (21 R433 step 1, R436, R439). -/
def execLaunchDequeue (i : Nat) (s : State) : Out :=
  let q := s.slot i
  if q.state != 1 || !s.accepts q.world || s.activation.isSome || q.wptr = q.rptr || !s.mayFollow q false then .next s
  else
    let cap := q.launchCap q.rptr
    match s.choreoRead (.driver cap.write) cap.world cap.base cap.len with
    | (s, .error (.bad c)) => .next (s.queueFault i (queueCause c).1 (queueCause c).2 cap.base q.rptr)
    | (s, .error (.wait ..)) => .next s
    | (s', .ok b) =>
      let ws := (List.range 16).map (fun k => BitVec.ofNat 64 (fieldAt b (8 * k) 8))
      if !s.mayFollow q (bitAt (nfld (ws.getD 10 0).toNat 0 16) 4) then .next s
      else
        let l := s'.nextId
        let L : Launch :=
          { Launch0 with
            world := q.world, slot := i, qid := q.qid, seq := q.rptr, tcid := q.tcid, vec := q.vec, prio := q.prio, words := ws
            stage := .reading, owned := !(s'.owned q.world).isEmpty }
        let s : State := { s' with launches := s'.launches.set l L, nextId := l + 1 }
        let s := s.onSlot i (fun q => { q with rptr := (q.rptr + 1) % 2 ^ 32, last := some l })
        match s.recordWrite i 0x14 (leBytes 4 (s.slot i).rptr) q.rptr with
        | (s, true) => .next (s.admitRecord l L)
        | (s, false) => .next (s.faulted l L)

/-- ACTIVATION_WINDOW_END: the first dequeue under the new image ends the window (24 R474). -/
def execActivationWindowEnd (s : State) : Out :=
  match s.activation with
  | none => .next s
  | some n =>
    .next { s with
      activation := none, image := n
      worlds := (List.range 65).foldl (fun (m : Tab World) w =>
        Tab.set m w { s.world w with trust := { (s.world w).trust with fwgen := ((s.world w).trust.fwgen + 1) % 2 ^ 16 } }) s.worlds }

/-! ### Dependencies and bound fields (21 R433, R434) -/

/-- The 64-bit word of a dependency: at its home, or in host memory at its target. -/
def State.depWord (s : State) (w a : Nat) : State × Except Nat Nat :=
  if isHost a then
    (s, match s.targetFault w a with
      | some c => .error c
      | none => .ok (leNat (s.mem.readBytes a 8)))
  else
    let fault := s.readFault w a
    let s := if s.contained w a then s else s.serve w a 8
    (s, match fault with
      | some c => .error c
      | none => .ok (s.seenNat w a 8))

/-- Bound fields of a working copy: mask bit, address and size. -/
def Launch.boundFields (L : Launch) : List (Nat × Nat × Nat) :=
  let ahi := nfld (L.word 9) 32 16 * 2 ^ 32
  let mask := nfld (L.word 10) 16 16
  ((List.range 14).filter (bitAt mask)).map (fun b =>
    if b = 12 then (b, nfld (L.word 8) 0 48, 8)
    else if b = 13 then (b, ahi + nfld (L.word 9) 0 32, 4)
    else (b, ahi + nfld (L.word (b / 2)) (32 * (b % 2)) 32, 4))

/-- Replace a bound field by the value read. -/
def setBound (ws : List DWord) (b v : Nat) : List DWord :=
  let put (k lo n : Nat) : List DWord := Sys2Proof.setAt ws k (BitVec.ofNat 64 (nput (ws.getD k 0).toNat lo n v))
  if b = 12 then put 8 0 64 else if b = 13 then put 9 0 32 else put (b / 2) (32 * (b % 2)) 32

/-- Read bound fields in order. -/
def State.bindFields (L : Launch) : List (Nat × Nat × Nat) → State → List DWord → State × Except Stuck (List DWord)
  | [], s, ws => (s, .ok ws)
  | e :: es, s, ws =>
    match s.choreoRead (.context L.tcid) L.world e.2.1 e.2.2 with
    | (s, .ok b) => State.bindFields L es s (setBound ws e.1 (leNat b))
    | (s, .error r) => (s, .error r)

/-- Read every bound field of a launch (21 R434). -/
def State.bind (s : State) (L : Launch) : State × Except Stuck (List DWord) := State.bindFields L L.boundFields s L.words

/-- A prologue run begins, or the grid goes straight to its admission (16 R383, 21 R435). The arguments are the final values of s0 to
s11; a window that the run before left open goes on for the other registers (02 R35). -/
def Launch.prologueRun (L : Launch) : Launch :=
  if L.flag 0 then
    { L with
      stage := .prologue, ppc := nfld (L.word 7) 32 32, count := 0
      win := L.win.map (fun w => { w with dst := w.dst.filter (fun e => decide (12 ≤ e.1)) })
      s := (argRegs L.words).foldl (fun (m : Tab DWord) e => Tab.set m e.1 e.2) L.s }
  else if L.companies = 0 then { L with stage := .running, ending := true, status := 0, again := false }
  else { L with stage := .admission, again := false }

/-- Is the dependency of a launch met, or is its address invalid (21 Table 21-5 step 2)? -/
def State.dependency (s : State) (L : Launch) : State × Except Stuck Bool :=
  if L.word 12 = 0 then (s, .ok true)
  else
    let place := s.usable L.world L.tcid (L.word 12)
    let dpa := s.choreoDpa L.world L.tcid (L.word 12)
    let s := s.lookReads (.context L.tcid) L.world (L.word 12)
    match place, dpa with
    | .wait e, _ => (s, .error (.wait (L.word 12) e))
    | .dpa a, .dpa _ =>
      match s.depWord L.world a with
      | (s, .error c) => (s, .error (.bad c))
      | (s, .ok x) => (s, .ok (decide (sextNat 64 x ≤ 0)))
    | _, _ => (s, .error (.bad 0x20))

/-- DEPENDENCY_MET (21 R433 steps 2 and 3); a launch that waited for its own words reads them first. -/
def execDependencyMet (l : Nat) (s : State) : Out :=
  match s.launches.get? l with
  | none => .next s
  | some L =>
    if L.ending || s.faultStands L.world 5 l 0 then .next s
    else
      match L.stage with
      | .reading => .next (s.admitRecord l L)
      | .dependency =>
        match s.dependency L with
        | (s, .error (.bad _)) => .next (s.refuse l 9 0)
        | (s, .error (.wait va e)) => .next (s.awaitTwo l va e)
        | (s, .ok false) => .next s
        | (s, .ok true) =>
          match s.bind L with
          | (s, .error (.bad _)) => .next (s.refuse l 9 0)
          | (s, .error (.wait va e)) => .next (s.awaitTwo l va e)
          | (s, .ok ws) => .next (s.onLaunch l (fun L => { L with words := ws }.prologueRun))
      | _ => .next s

end Sys2Proof.Machine
end

