-- ==== Sys2Proof/Machine/Admission.lean ====
section
/-! DEFINITION. Admission of a grid run (21 R433 step 5, R496): the checks of a working copy and its descriptor, the grants of
its leases (07 R153), its near-bank windows (05 R97, R100), its ranges (06 R131), packing (20 R409-R411) and the trap handler
(22 R448). -/

namespace Sys2Proof.Machine

/-! ### What a descriptor declares, by the launch's arguments -/

/-- The 48-bit base that names argument `k` (21 R430). -/
def Launch.argBase (L : Launch) (k : Nat) : Nat :=
  nfld (L.word 9) 32 16 * 2 ^ 32 + nfld (L.word (k / 2)) (32 * (k % 2)) 32

/-- Index of the first element that fails. -/
def firstBad {α : Type} (p : α → Bool) (l : List α) : Option Nat := l.findIdx? p

/-- Is the byte range inside one declared lease; when `rw`, inside a resident rw one? -/
def Launch.declares (L : Launch) (lo n : Nat) (rw : Bool) : Bool :=
  L.desc.leases.any (fun (e : Nat × Nat × Nat × Nat) =>
    decide (L.argBase e.1 ≤ lo) && decide (lo + n ≤ L.argBase e.1 + e.2.2.2) && (!rw || (e.2.1 == 0 && e.2.2.1 == 1)))

/-- Is a lease misaligned or does it pass 2^48 (07 R153)? -/
def Launch.leaseBad (L : Launch) : Option Nat :=
  firstBad (fun (e : Nat × Nat × Nat × Nat) =>
    L.argBase e.1 % 4096 != 0 || decide (2 ^ 48 < L.argBase e.1 + e.2.2.2)) L.desc.leases

/-- Is a stage's source outside every lease (07 R159)? -/
def Launch.stageBad (L : Launch) : Option Nat :=
  firstBad (fun (e : Nat × Nat × Nat × Nat) => !L.declares (L.argBase e.1 + e.2.2.1) e.2.2.2 false) L.desc.stages

/-- The entry of a declared range. -/
def Launch.rngOf (L : Launch) (l : Nat) (e : Nat × Nat × Nat × Int) : Rng :=
  { valid := true, fmt := e.2.1, ovf := false, nan := false, scale := e.2.2.2, base := L.argBase e.1 / 128
    len := e.2.2.1 / 128, tcid := L.tcid, launch := l }

/-- Do two ranges overlap? -/
def Rng.meets (a b : Rng) : Bool := overlaps a.base (a.base + a.len) b.base (b.base + b.len)

/-- The first range that cannot be registered (06 R131). -/
def State.rangeBad (s : State) (l : Nat) (L : Launch) : Option Nat :=
  let live := Tab.vals ((s.world L.world).rngs.filter (fun (e : Nat × Rng) => e.2.valid))
  firstBad (fun i =>
    match L.desc.ranges[i]? with
    | none => false
    | some e =>
      let before := live ++ (L.desc.ranges.take i).map (L.rngOf l)
      L.argBase e.1 % 128 != 0 || e.2.2.1 % 128 != 0 || !L.declares (L.argBase e.1) e.2.2.1 true ||
        before.any (fun r => r.meets (L.rngOf l e)) || decide (64 ≤ before.length)) (List.range L.desc.ranges.length)

/-! ### Packing (20 R409-R411) -/

/-- What the troupes of a core hold (20 Table 20-1). -/
structure Load where
  troupes : Nat
  sets : Nat
  spad : Nat
  tiles : Nat
  uregs : Nat
  deriving DecidableEq, Repr, Inhabited

/-- An empty core. -/
def Load0 : Load := { troupes := 0, sets := 0, spad := 0, tiles := 0, uregs := 0 }

/-- A core with a troupe of a kernel added. -/
def Load.add (x : Load) (sets spad tiles uregs : Nat) : Load :=
  { troupes := x.troupes + 1, sets := x.sets + sets, spad := x.spad + ceilTo 128 spad, tiles := x.tiles + tiles
    uregs := x.uregs + uregs }

/-- A core with a troupe of a descriptor added. -/
def Load.of (x : Load) (d : Desc) : Load := x.add d.sets d.spad d.tiles d.uregs

/-- Do the limits of Table 20-1 hold? -/
def Load.ok (x : Load) : Bool :=
  decide (x.troupes ≤ 4) && decide (x.sets ≤ 64) && decide (x.spad ≤ 524288) && decide (x.tiles ≤ 64) && decide (x.uregs ≤ 2048)

/-- What each slice's cores hold, and the sets on each of its units. -/
structure Plan where
  cores : Tab (List Load)
  units : Tab (List Nat)
  deriving DecidableEq, Repr, Inhabited

/-- The core with the most free set slots that can take a troupe, the lower first. -/
def bestCore (d : Desc) (loads : List Load) : Option Nat :=
  (List.range 16).foldl (fun (best : Option Nat) i =>
    let x := loads.getD i Load0
    if !(x.of d).ok then best
    else match best with
      | none => some i
      | some j => if x.sets < (loads.getD j Load0).sets then some i else some j) none

/-- Troupes go to the cores of a slice one by one (20 R410). -/
def packTroupes (d : Desc) : Nat → List Load → Option (List Nat × List Load)
  | 0, loads => some ([], loads)
  | n + 1, loads =>
    match bestCore d loads with
    | none => none
    | some i =>
      match packTroupes d n (modAt loads i (fun x => x.of d)) with
      | some (is, l) => some (i :: is, l)
      | none => none

/-- Free set slots of a slice. -/
def freeSets (loads : List Load) : Nat := (loads.map (fun x => 64 - x.sets)).foldl (· + ·) 0

/-- The slice that a core company goes to: the most free set slots among those that can hold it, the lower first. -/
def Plan.core (P : Plan) (d : Desc) : Option (List Place × Plan) :=
  let best := P.cores.foldl (fun (best : Option (Nat × Nat × List Nat × List Load)) (e : Nat × List Load) =>
    match packTroupes d d.troupes e.2 with
    | none => best
    | some (is, l) =>
      match best with
      | none => some (freeSets e.2, e.1, is, l)
      | some b => if b.1 < freeSets e.2 then some (freeSets e.2, e.1, is, l) else some b) none
  best.map (fun b => (b.2.2.1.map (fun i => Place.core (16 * b.2.1 + i)), { P with cores := P.cores.set b.2.1 b.2.2.2 }))

/-- Slices that hold a window of a launch (05 R97). -/
def Launch.windowSlices (L : Launch) : List Nat := Tab.keys (L.wins.filter (fun (e : Nat × Nat × Nat) => decide (0 < e.2.2)))

/-- The slice of a microkernel company, and its units (05 R96, R97). -/
def Plan.micro (P : Plan) (L : Launch) (c : Nat) : Option (List Place × Plan) :=
  let ss := L.windowSlices
  match ss[c % ss.length]? with
  | none => none
  | some k =>
    match P.units.get? k with
    | none => none
    | some us =>
      let us' := us.mapIdx (fun i n => if i < L.desc.troupes then n + L.desc.sets else n)
      if us'.any (fun n => decide (8 < n)) then none
      else some ((List.range L.desc.troupes).map (fun t => Place.unit k t), { P with units := P.units.set k us' })

/-- Is the launch's kernel a microkernel? -/
def Launch.isMicro (L : Launch) : Bool := bitAt L.desc.flags 0

/-- Places for one company. -/
def Plan.company (P : Plan) (L : Launch) (c : Nat) : Option (List Place × Plan) :=
  if L.isMicro then P.micro L c else P.core L.desc

/-- Places for several companies, one after another. -/
def Plan.companies (P : Plan) (L : Launch) : List Nat → Option (List (Nat × List Place))
  | [] => some []
  | c :: cs =>
    match P.company L c with
    | none => none
    | some (ps, P') => (P'.companies L cs).map (fun rest => (c, ps) :: rest)

/-- Empty slices. -/
def emptyPlan (ks : List Nat) : Plan :=
  { cores := ks.map (fun k => (k, List.replicate 16 Load0)), units := ks.map (fun k => (k, List.replicate 32 0)) }

/-- Set slots that a world may charge (20 Table 20-3). -/
def State.coreBudget (s : State) (w : Nat) : Nat :=
  let b := (s.world w).budget.inForce.core
  if b = 0 then (s.owned w).length * 1024 else b

/-- Why a launch can never be placed: DETAIL of status 8 (20 R409). -/
def State.neverFits (s : State) (L : Launch) : Option Nat :=
  let d := L.desc
  let one := if L.isMicro then decide (d.sets ≤ 8) else (packTroupes d d.troupes (List.replicate 16 Load0)).isSome
  if !one then some 1 else if s.coreBudget L.world < d.sets * d.troupes then some 2 else none

/-- Can a co-resident grid be packed at once onto the owned slices (20 R409)? No package holds more than 4096 companies. -/
def State.gridFits (s : State) (L : Launch) : Bool :=
  !L.flag 2 || (decide (L.companies ≤ 4096) &&
    ((emptyPlan (s.owned L.world)).companies L (List.range L.companies)).isSome)

/-! ### Near-bank windows (05 R100) -/

/-- The compute-capable frame that a 2 MiB virtual page of a lease maps whole: its first address. -/
def State.wholeFrame (s : State) (l : Lease) (p : Nat) : Option Nat :=
  match l.snap.get? (p * 512) with
  | none => none
  | some g =>
    if g.dpa % 2 ^ 21 = 0 && s.computeCapable g.dpa && (List.range 512).all (fun i =>
        (l.snap.get? (p * 512 + i)).map (·.dpa) == some (g.dpa + 4096 * i)) then some g.dpa else none

/-- The windows of a launch in one slice, in lease-list order. -/
def State.windowRun (s : State) (l : Nat) (L : Launch) (k base : Nat) : List NbWin :=
  L.uses.flatMap (fun u =>
    let e := (s.world L.world).leases.getD u.entry Lease0
    if e.streamed then []
    else
      let lo := (e.base + 511) / 512
      let hi := (e.base + e.len) / 512
      ((List.range (hi - lo)).map (lo + ·)).filterMap (fun p =>
        match s.wholeFrame e p with
        | some a =>
          if sliceAt a = k then
            some { rw := u.rw, frame := frameAt a, vpage := p, runbase := base, launch := l }
          else none
        | none => none))

/-- Where a run of `n` entries fits among the 64 of a slice. -/
def Slice.runBase (S : Slice) (n : Nat) : Option Nat :=
  (List.range (65 - n)).find? (fun b => (List.range n).all (fun i => (S.nb.win.get? (b + i)).isNone))

/-- The runs of a launch where it runs: the first companies of a microkernel take the lowest slices of R97, a core kernel's may take any
owned one (05 R97, R100; log 77). -/
def State.windowRuns (s : State) (l : Nat) (L : Launch) : List (Nat × List NbWin) :=
  let runs := ((s.owned L.world).map (fun k => (k, s.windowRun l L k 0))).filter (fun (e : Nat × List NbWin) => !e.2.isEmpty)
  if L.isMicro then runs.take L.companies else runs

/-- Build the runs of a launch: a refusal, a wait (`none`), or the state with the runs. -/
def State.buildWindows (s : State) (l : Nat) (L : Launch) : Except Nat (Option State) :=
  let runs := s.windowRuns l L
  if runs.any (fun e => decide (64 < e.2.length)) then .error 1
  else if L.isMicro && runs.isEmpty then .error 2
  else .ok (runs.foldl (fun (acc : Option State) (e : Nat × List NbWin) =>
    match acc with
    | none => none
    | some s =>
      match (s.slice e.1).runBase e.2.length with
      | none => none
      | some b =>
        let s := s.onSlice e.1 (fun S => { S with nb := { S.nb with
          win := (e.2.mapIdx (fun i x => (b + i, { x with runbase := b }))).foldl
            (fun (m : Tab NbWin) x => Tab.set m x.1 x.2) S.nb.win } })
        some (s.onLaunch l (fun L => { L with wins := L.wins.set e.1 (b, e.2.length) }))) (some s))

/-! ### The handler (22 R448) -/

/-- Does a descriptor keep the limits of a handler? -/
def Desc.handles (d : Desc) : Bool :=
  d.bad.isNone && d.flags == 0 && d.sets == 1 && d.troupes == 1 && decide (8 ≤ d.vregs) && decide (d.vregs ≤ 32) && d.uregs == 16 &&
    d.tiles == 0 && d.spad == 0 && d.leases.isEmpty && d.stages.isEmpty && d.ranges.isEmpty && d.layouts.isEmpty

/-- The handler's descriptor and pages, if the register and the object pass their checks. -/
def State.readHandler (s : State) (w : Nat) : State × Option (Desc × Tab Nat) :=
  let t := (s.world w).trap
  let code := t.code * 4096
  let through := Through.driver false
  if !t.valid || t.desc % 128 != 0 then (s, none)
  else
    match s.readDesc through w code t.desc with
    | (s, .error _) => (s, none)
    | (s, .ok d) =>
      let held : Bool := (List.range ((d.extent + 4095) / 4096)).all (fun i => match s.look through w (code + 4096 * i) with
        | .dpa _ => true
        | _ => false)
      (s, if d.handles && held then some (d, s.codePages through w code d) else none)

/-- The check at admission, kept for the whole launch. -/
def State.takeHandler (s : State) (l w : Nat) : State :=
  let (s, h) := s.readHandler w
  let s := s.onWorld w (fun W => { W with trap := { W.trap with ok := h.isSome } })
  s.onLaunch l (fun L => { L with handler := h.map (·.1), hcode := (h.map (·.2)).getD [] })

/-! ### Grants (07 R153) -/

/-- Does an entry serve a declared lease: context, base, length, kind, and access rw or equal? -/
def Lease.serves (e : Lease) (tcid base len : Nat) (streamed rw : Bool) : Bool :=
  e.state != 0 && e.state != 3 && !e.rel && e.tcid == tcid && e.base == base && e.len == len && e.streamed == streamed &&
    (e.rw || !rw)

/-- One lease of the list: bound when an entry that serves it is granted; otherwise the launch waits. -/
def State.bindLease (s : State) (l : Nat) (L : Launch) (i : Nat) (e : Nat × Nat × Nat × Nat) : State :=
  let base := L.argBase e.1 / 4096
  let len := e.2.2.2 / 4096
  let streamed := e.2.1 == 1
  let rw := e.2.2.1 == 1
  let use (s : State) (j : Nat) : State :=
    (s.onLease L.world j (fun x => { x with users := x.users + 1, last := s.now })).onLaunch l (fun L => { L with
      uses := L.uses ++ [{ entry := j, rw := rw }], stage := .granting (i + 1) })
  match (s.world L.world).leases.find? (fun (x : Nat × Lease) => x.2.serves L.tcid base len streamed rw) with
  | some (j, x) => if x.state = 2 then use s j else s
  | none =>
    match (s.world L.world).freeEntry with
    | none => s
    | some j =>
      let x : Lease :=
        { Lease0 with
          state := if streamed then 2 else 1, streamed := streamed, rw := rw, base := base, tcid := L.tcid, len := len
          waiter := if streamed then none else some l }
      let s := s.onWorld L.world (fun W => { W with leases := W.leases.set j x })
      if streamed then use s j else s

/-- Free range entries of a world, in order. -/
def World.freeRngs (W : World) : List Nat := (List.range 64).filter (fun i => !(W.rngs.getD i Rng0).valid)

/-- Register the ranges of a launch (06 R131); no L1 keeps a line of one (R135). -/
def State.register (s : State) (l : Nat) (L : Launch) : State :=
  let es := ((s.world L.world).freeRngs).zip (L.desc.ranges.map (L.rngOf l))
  let s := s.onWorld L.world (fun W => { W with rngs := es.foldl (fun (m : Tab Rng) e => Tab.set m e.1 e.2) W.rngs })
  let s := if es.isEmpty then s else
    s.dropL1 (fun _ x => x.world == L.world && s.live L.world x.tcid (x.va * 128) (x.dpa * 128))
  s.onLaunch l (fun L => { L with rngs := es.map (·.1) })

/-- Every lease is granted: windows, co-residency, ranges and the handler, and the launch waits for its placement. -/
def State.admitted (s : State) (l : Nat) (L : Launch) : State :=
  match s.buildWindows l L with
  | .error d => s.refuse l 12 d
  | .ok none => s
  | .ok (some s') =>
    match s'.launches.get? l with
    | none => s
    | some L =>
      if !s'.gridFits L then s'.refuse l 8 3
      else
        match s'.rangeBad l L with
        | some i => s'.refuse l 4 i
        | none => ((s'.register l L).takeHandler l L.world).onLaunch l (fun L => { L with stage := .placing, next := 0, ended := 0 })

/-- The checks before any grant, in the order of the statuses that Table 21-5 lists (DESIGN CHOICE, log 67). -/
def State.checkLaunch (s : State) (l : Nat) (L : Launch) : State :=
  let bad := firstBad (fun h => ((s.world L.world).layouts.get? h).isNone) L.desc.layouts
  if recordBad L.words then s.refuse l 1 0
  else
    match L.desc.bad with
    | some off => s.refuse l 2 (Config.descItem off % 256)
    | none =>
      match bad, s.rangeBad l L, L.leaseBad, L.stageBad with
      | some i, _, _, _ => s.refuse l 3 i
      | none, some i, _, _ => s.refuse l 4 i
      | none, none, some i, _ => s.refuse l 5 i
      | none, none, none, some i => s.refuse l 5 (0x80 + i)
      | none, none, none, none =>
        if !L.owned || (s.owned L.world).isEmpty then s.refuse l 7 0
        else
          match s.neverFits L with
          | some d => s.refuse l 8 d
          | none => s.onLaunch l (fun L => { L with stage := .granting 0, uses := [], wins := [], rngs := [] })

/-- LAUNCH_ADMISSION: one step of the admission: the checks, one lease of the list, or the end of the grants. -/
def execLaunchAdmission (l : Nat) (s : State) : Out :=
  match s.launches.get? l with
  | none => .next s
  | some L =>
    if L.ending then .next s
    else
      match L.stage with
      | .admission => .next (s.checkLaunch l L)
      | .granting i =>
        match L.desc.leases[i]? with
        | some e => .next (s.bindLease l L i e)
        | none => .next (s.admitted l L)
      | _ => .next s

end Sys2Proof.Machine
end

