-- ==== Sys2Proof/Machine/Moves.lean ====
section
/-! DEFINITION. Quiesce points (24 R476), and what they perform before anything else: home moves, carve changes and placement hints (06
R127, R139; 21 R432). -/

namespace Sys2Proof.Machine

/-- Companies that a restore has given places to. -/
def State.restoring (s : State) : List (Nat × Launch × SavedCompany) :=
  s.launches.flatMap (fun (e : Nat × Launch) => (e.2.saved.filter (fun c => !c.places.isEmpty)).map (fun c => (e.1, e.2, c)))

/-! ### The point (24 R476) -/

/-- Is a world at a quiesce point? -/
def State.worldQuiet (s : State) (w : Nat) : Bool :=
  !s.troupes.any (fun (e : Nat × Troupe) => s.worldOf e.2 == w) && !s.restoring.any (fun c => c.2.1.world == w) &&
    !s.launches.any (fun (e : Nat × Launch) => e.2.world == w && e.2.stage == .prologue && !e.2.ending) &&
    !s.drains.any (fun d => d.world == w) && !s.requests.any (fun (r : Nat × Request) => r.2.world == w) &&
    !s.cores.any (fun (e : Nat × Core) => e.2.misses.any (fun (m : Nat × Miss) => m.2.world == w)) &&
    !s.slices.any (fun (e : Nat × Slice) => e.2.reds.any (fun r => r.world == w) || e.2.atomics.any (fun a => a.world == w) ||
      e.2.nb.queue.any (fun c => ((s.launches.get? c.launch).map (·.world)) == some w))

/-! ### Lines that go without write-back (24 R477 step 3, 04 R90) -/

/-- Does a line lie in a slice's DRAM or carved storage? -/
def lineOfSlice (k line : Nat) : Bool := (isDram (line * 128) || isCarved (line * 128)) && sliceAt (line * 128) == k

/-- Does a line lie in a frame? -/
def lineOfFrame (k f line : Nat) : Bool :=
  isDram (line * 128) && sliceAt (line * 128) == k && frameAt (line * 128) == f

/-- Lines leave every home, every L1, every combining buffer and the host. -/
def State.dropLines (s : State) (p : Nat → Bool) : State :=
  let s := s.dropL1 (fun _ l => p l.dpa)
  { s with
    lines := s.lines.filter (fun e => !p (e.1 % 2 ^ 45))
    hostHeld := s.hostHeld.filter (fun e => !p e.1)
    cores := s.cores.map (fun (e : Nat × Core) =>
      (e.1, { e.2 with partials := e.2.partials.filter (fun (x : Nat × Partial) => !p x.1) })) }

/-- Lines go, with the TLB entries that map their pages. -/
def State.dropMapped (s : State) (p : Nat → Bool) : State :=
  let s := s.dropLines p
  { s with clusters := s.clusters.map (fun (e : Nat × Cluster) =>
      (e.1, { e.2 with tlb := e.2.tlb.filter (fun t => !(List.range (tlbPages t.size)).any (fun i => p ((t.dpa + i) * 32))) })) }

/-! ### Home moves and carves (06 R127, R139; 21 R432) -/

/-- Lines of some homes leave them, with their partials and their dirty bytes. -/
def State.leaveHomes (s : State) (p : Nat → HomeLine → Bool) : State :=
  (s.lines.filter (fun e => p e.1 e.2)).foldl (fun (s : State) e =>
    (s.combine (keyLine e.1).2).invalidate (keyLine e.1).1 (keyLine e.1).2) s

/-- Every combining buffer gives its partials of some lines to their homes, and the lines leave those with their dirty bytes written back. -/
def State.settleLines (s : State) (p : Nat → Bool) : State :=
  let part := addAll [] (s.cores.flatMap (fun (e : Nat × Core) => (Tab.keys e.2.partials).filter p))
  let s := part.foldl (fun (s : State) l => s.combine l) s
  s.leaveHomes (fun key _ => p (keyLine key).2)

/-- A frame's lines move to a new home. -/
def State.moveHome (s : State) (k f h : Nat) : State :=
  let s := (s.settleLines (lineOfFrame k f)).dropLines (lineOfFrame k f)
  s.onSlice k (fun S => { S with homes := if h = k then S.homes.del f else S.homes.set f h })

/-- Frames of the rw resident leases of a launch, in lease-list order. -/
def State.hintFrames (s : State) (L : Launch) : List (Nat × Nat) :=
  addAll [] ((L.uses.filter (·.rw)).flatMap (fun u =>
    let e := (s.world L.world).leases.getD u.entry Lease0
    if e.streamed then [] else e.framesOf))

/-- The placement hint of a launch that waits for its first company moves homes (21 R432). -/
def State.hintMoves (s : State) (L : Launch) : State :=
  let hint := nfld (nfld (L.words.getD 10 0).toNat 0 16) 5 2
  let own := s.owned L.world
  let fs := s.hintFrames L
  ((List.range fs.length).zip fs).foldl (fun (s : State) (e : Nat × Nat × Nat) =>
    let (k, f) := e.2
    let fr := (s.slice k).frame f
    let h := if hint = 1 then own.getD (e.1 % own.length) k else k
    if hint = 0 || hint = 3 || fr.ownersel != 1 || (fr.striped && decide (0 < fr.pinned)) || (s.slice k).homes.getD f k = h then s
    else s.moveHome k f h) s

/-- The homes of a world's outside lines follow the slices that it owns now (06 R123): the lines go back to their targets, but for those
whose targets cannot take their bytes, which go to their new homes. -/
def State.rehome (s : State) (w : Nat) : State :=
  if (s.world w).outside = s.owned w then s
  else
    (s.leaveHomes (fun key _ => (keyLine key).1 == w && isOutside ((keyLine key).2 * 128) && s.mayLeave w (keyLine key).2)).onWorld w
      (fun W => { W with outside := s.owned w })

/-- A carve takes effect: the dirty lines of the ways that it removes are written back, and carved storage reads as zero (06 R127). -/
def State.carveTo (s : State) (k c : Nat) : State :=
  let lo := 0x8000000000000 + k * 2 ^ 26
  let s := s.leaveHomes (fun key h => decide (16 - c ≤ h.way) && decide (h.way < 16) && s.home (keyLine key).1 (keyLine key).2 == k)
  let s := s.dropLines (fun l => isCarved (l * 128) && sliceAt (l * 128) == k)
  { s with mem := s.mem.filter (fun x => decide (x.1 < lo) || decide (lo + 2 ^ 26 ≤ x.1)) }.onSlice k
    (fun S => { S with steps := c })

/-- What a quiesce point performs before any command. -/
def State.performMoves (s : State) (w : Nat) : State :=
  let hinted := s.launches.filter (fun (e : Nat × Launch) =>
    e.2.world == w && e.2.stage == .placing && e.2.next == 0 && !e.2.ending)
  let s := (hinted.foldl (fun (s : State) (e : Nat × Launch) => s.hintMoves e.2) s).rehome w
  (s.owned w).foldl (fun (s : State) k =>
    let S := s.slice k
    if S.req = S.steps then s else s.carveTo k S.req) s

end Sys2Proof.Machine
end

