-- ==== Sys2Proof/Machine/Placement.lean ====
section
/-! DEFINITION. Placement: budgets (20 R418-R421), priorities and deficit round robin (20 R422, R423), packing onto what is
free (20 R410, R411; 05 R96, R97), and the end of companies (20 R413). -/

namespace Sys2Proof.Machine

/-! ### Companies that have ended (20 Table 20-2) -/

/-- Has a troupe ended with nothing of it left to do: streams, traps, and operations (20 R413, 08 R196)? -/
def State.troupeDone (s : State) (t : Nat) (T : Troupe) : Bool :=
  T.finished && T.cue.traps.isEmpty && T.cue.handler.isNone &&
    T.setTab.all (fun (e : Nat × SetState) => e.2.traps.isEmpty && e.2.trapReady.isNone && e.2.waiting.isNone) &&
    !(s.coreAt T.place.coreNo).ops.any (fun (e : Nat × Op) => e.2.troupe == t) &&
    !(match T.place.unit? with
      | some (k, u) => ((s.slice k).unit u).queue.any (fun r => r.troupe == t)
      | none => false)

/-- The troupes of a launch. -/
def State.troupesOf (s : State) (l : Nat) : Tab Troupe := s.troupes.filter (fun (e : Nat × Troupe) => e.2.launch == l)

/-- The held copies of an ended troupe, or of the troupes of a launch that ends, are dropped; one with a transfer under way waits for it
(08 R196, 09 R211). -/
def State.dropHeld (s : State) (t : Nat) (T : Troupe) : State :=
  let core := T.place.coreNo
  let out (e : Nat) : Bool := s.requests.any (fun r => match r.2.owner with
    | .op c x _ => c == core && x == e
    | _ => false)
  let gone := (s.coreAt core).ops.filter (fun e => e.2.troupe == t && !out e.1 && match e.2.phase with
    | .held .. => true
    | _ => false)
  if gone.isEmpty then s
  else
    let name (tr : Trap) : Trap := if gone.any (fun e => tr.copy == some e.1) then { tr with copy := none } else tr
    let s := gone.foldl (fun (s : State) e => s.unseal (s.worldOf T) e.2.sealed) s
    (s.onCore core (fun C => { C with ops := C.ops.filter (fun e => !gone.any (fun g => g.1 == e.1)) })).onCue t (fun C => { C with
      traps := C.traps.map name })

/-- A troupe's resources are free. -/
def State.dropTroupe (s : State) (t : Nat) : State :=
  match s.troupes.get? t with
  | none => s
  | some T =>
    let s := (s.dropOps T.place.coreNo (fun o => o.troupe == t)).onLaunch T.launch (fun L => { L with
      past := L.past.set t (T.place.tag, T.index, T.company) })
    { s with troupes := s.troupes.del t, grants := s.grants.filter (fun g => g.troupe != t) }

/-! ### Charges (20 R418-R420) -/

/-- Has a launch troupes that may have run for 10 microseconds: was its first company placed so long ago? -/
def State.measuredLaunch (s : State) (L : Launch) : Bool :=
  match L.began with
  | some t => decide (t + 10000 ≤ s.now)
  | none => false

/-- Sets of `n` companies of a launch. -/
def Launch.setsOf (L : Launch) (n : Nat) : Nat := n * L.desc.sets * L.desc.troupes

/-- The near-bank units on which sets of a world run: slice and unit (05 R97). -/
def State.unitsOf (s : State) (w : Nat) : List (Nat × Nat) :=
  addAll [] (s.troupes.filterMap (fun (e : Nat × Troupe) =>
    if s.worldOf e.2 == w && !e.2.finished then e.2.place.unit? else none))

/-- The power that a world is charged, in 1/524,288 W: its measure, and 550 W / 2048 for each unit on which a set of it runs (20 R419,
05 R97). -/
def State.powerCharged (s : State) (w : Nat) : Nat := (s.world w).budget.pwrUsed + (s.unitsOf w).length * 140800

/-- The estimate of `n` companies of a core kernel: power in 1/524,288 W, and bandwidth in bytes of 10 microseconds. Before measurements
2,490 W / 65,536 a set and no bandwidth, then the measured mean (20 R419; log 28). -/
def State.meanOf (s : State) (l : Nat) (L : Launch) (n : Nat) : Nat × Nat :=
  let mean := if s.measuredLaunch L then Config.setMean l s.tick else (19920, 0)
  (if bitAt L.desc.flags 0 then 0 else L.setsOf n * mean.1, L.setsOf n * mean.2)

/-- A count of bytes in 10 microseconds as bandwidth, in 0.25 GB/s. -/
def bandOf (bytes : Nat) : Nat := (bytes + 2499) / 2500

/-- Companies of a launch leave their cores and take their charge with them (20 R413; log 28). -/
def State.uncharge (s : State) (l n : Nat) : State :=
  match s.launches.get? l with
  | none => s
  | some L =>
    let est := s.meanOf l L n
    s.onWorld L.world (fun W => { W with budget := { W.budget with
      pwrUsed := W.budget.pwrUsed - est.1, bwUsed := W.budget.bwUsed - bandOf est.2 } })

/-- Companies of a launch whose troupes have all ended leave their cores. -/
def State.endCompanies (s : State) (l : Nat) : State :=
  let ts := s.troupesOf l
  let cs := addAll [] (ts.map (fun (e : Nat × Troupe) => e.2.company))
  cs.foldl (fun (s : State) c =>
    let mine := ts.filter (fun (e : Nat × Troupe) => e.2.company == c)
    let whole := match s.launches.get? l with
      | some L => mine.length == L.desc.troupes
      | none => false
    if whole && mine.all (fun (e : Nat × Troupe) => s.troupeDone e.1 e.2 && !e.2.halted) then
      (mine.foldl (fun (s : State) (e : Nat × Troupe) => s.dropTroupe e.1) (s.uncharge l 1)).onLaunch l (fun L =>
        { L with ended := L.ended + 1 })
    else s) s

/-! ### What is taken -/

/-- Troupes that are saved already while others of their companies still run: the cores of a company become free together (22 R460). -/
def State.leaving (s : State) : List (Launch × Troupe) :=
  s.launches.flatMap (fun (e : Nat × Launch) => e.2.saved.flatMap (fun c =>
    if c.places.isEmpty && decide (c.troupes.length < e.2.desc.troupes) then c.troupes.map (fun x => (e.2, x.2)) else []))

/-- Add a troupe at a place to a plan: an ended troupe keeps its set slots until its company ends (20 R413). -/
def Plan.take (P : Plan) (p : Place) (ended : Bool) (d : Desc) : Plan :=
  match p with
  | .core n => { P with cores := P.cores.adjust (n / 16) (fun ls => modAt ls (n % 16) (fun x =>
      if ended then x.add d.sets 0 0 d.uregs else x.of d)) }
  | .unit k u => { P with units := P.units.adjust k (fun us => modAt us u (· + d.sets)) }

/-- Slices that placement may use for a world: owned in STATE 0b01 and not idle (25 R488). -/
def State.openSlices (s : State) (w : Nat) : List Nat :=
  (s.owned w).filter (fun k => (s.slice k).idle == 0 && (s.slice k).cur == 0)

/-- The plan of a world as it stands. -/
def State.planOf (s : State) (w : Nat) : Plan :=
  let P := s.troupes.foldl (fun (P : Plan) (e : Nat × Troupe) =>
    P.take e.2.place (e.2.finished) { (s.launchOf e.2).desc with
      sets := e.2.sets, spad := e.2.spadSize, tiles := e.2.tileCount, uregs := e.2.uregs }) (emptyPlan (s.openSlices w))
  let P := s.leaving.foldl (fun (P : Plan) e => P.take e.2.place false e.1.desc) P
  s.restoring.foldl (fun (P : Plan) c => c.2.2.places.foldl (fun (P : Plan) p => P.take p false c.2.1.desc) P) P

/-! ### Budgets (20 R418-R420) -/

/-- Set slots charged to a world. -/
def State.setsCharged (s : State) (w : Nat) : Nat :=
  s.troupes.foldl (fun n (e : Nat × Troupe) => if s.worldOf e.2 = w then n + e.2.sets else n)
    (s.restoring.foldl (fun n c => if c.2.1.world = w then n + c.2.1.desc.sets * c.2.1.desc.troupes else n)
      (s.leaving.foldl (fun n e => if e.1.world = w then n + e.2.sets else n) 0))

/-- The power budget of a world in 1/524,288 W (20 Table 20-3). Here and in the other two defaults, a contained slice is no owned slice
(DESIGN CHOICE, log 76). -/
def State.powerBudget (s : State) (w : Nat) : Nat :=
  let b := (s.world w).budget.inForce.pwr
  (if b = 0 then (s.owned w).length * 370 else b) * 65536

/-- The link budget of a world in 0.25 GB/s. -/
def State.linkBudget (s : State) (w : Nat) : Nat :=
  let b := (s.world w).budget.inForce.bw
  if b = 0 then (s.owned w).length * 83 else b

/-- Cap of a performance level in 1/8 W (25 Table 25-4). -/
def levelCap (level : Nat) : Nat := [370, 320, 272, 224, 184, 144, 112, 80].getD level 370

/-- What placement may commit over the package, in 1/524,288 W: 2,960 W, PKGCAP, and the slice caps (25 R487). -/
def State.packageCap (s : State) : Nat :=
  min (min 2960 s.ctl.pkgcap * 8) (((List.range 64).map (fun k => levelCap (s.slice k).level)).foldl (· + ·) 0) * 65536

/-- Near-bank units that companies of a launch would set running (05 R97). -/
def State.unitsAdded (s : State) (L : Launch) (cs : List Nat) : Nat :=
  let ss := L.windowSlices
  let us := addAll [] (cs.flatMap (fun c => (List.range L.desc.troupes).map (fun i => (ss.getD (c % ss.length) 0, i))))
  (us.filter (fun u => !(s.unitsOf L.world).contains u)).length

/-- The estimate of companies of a launch: power in 1/524,288 W, and bandwidth in 0.25 GB/s (20 R419, 05 R97). -/
def State.estimate (s : State) (l : Nat) (L : Launch) (cs : List Nat) : Nat × Nat :=
  let m := s.meanOf l L cs.length
  (if L.isMicro then s.unitsAdded L cs * 140800 else m.1, bandOf m.2)

/-- Has a world nothing running, and nothing placed that will run (20 R420)? -/
def State.worldIdle (s : State) (w : Nat) : Bool :=
  !s.troupes.any (fun (e : Nat × Troupe) => s.worldOf e.2 == w) && !s.restoring.any (fun c => c.2.1.world == w) &&
    !s.slices.any (fun (e : Nat × Slice) => e.2.nb.queue.any (fun c => ((s.launches.get? c.launch).map (·.world)) == some w))

/-- A company at the head of a queue, or a whole co-resident grid (20 R423). -/
structure Head where
  launch : Nat
  companies : List Nat
  saved : Bool
  deriving DecidableEq, Repr, Inhabited

/-- The gate that blocks a head, or its places (20 R420): 1 core, 2 bandwidth, 3 power, 4 package, 5 no slice fits. A world with nothing
running is exempt from its own two budgets for one company. -/
def State.gate (s : State) (w : Nat) (L : Launch) (h : Head) : Except Nat (List (Nat × List Place)) :=
  let n := h.companies.length
  let B := (s.world w).budget
  let est := s.estimate h.launch L h.companies
  let paying := if s.worldIdle w then h.companies.drop 1 else h.companies
  let own := s.estimate h.launch L paying
  let total := (List.range 65).foldl (fun x v => x + s.powerCharged v) 0
  if s.coreBudget w < s.setsCharged w + n * L.desc.sets * L.desc.troupes then .error 1
  else if !paying.isEmpty && decide (s.linkBudget w < B.bwUsed + own.2) then .error 2
  else if !paying.isEmpty && decide (s.powerBudget w < s.powerCharged w + own.1) then .error 3
  else if s.packageCap < total + est.1 then .error 4
  else
    match (s.planOf w).companies L h.companies with
    | some ps => .ok ps
    | none => .error 5

/-! ### Heads (20 R422, R423; 22 R460) -/

/-- Companies saved whole and not held that wait for their places, ascending (20 R408). -/
def Launch.requeued (L : Launch) : List Nat :=
  sortOn id ((L.saved.filter (fun c => !c.held && c.places.isEmpty && c.troupes.length == L.desc.troupes)).map (·.company))

/-- What a launch waits to place: requeued companies before new ones; a co-resident grid is one head, once every company of it that has
not ended waits (20 R409). -/
def Launch.waits (L : Launch) (l : Nat) : Option Head :=
  if L.ending then none
  else
    match L.requeued with
    | c :: cs =>
      if !L.flag 2 then some { launch := l, companies := [c], saved := true }
      else if (c :: cs).length + L.ended = L.companies then some { launch := l, companies := c :: cs, saved := true }
      else none
    | [] =>
      if L.stage == .placing && decide (L.next < L.companies) then
        some { launch := l, companies := if L.flag 2 then List.range L.companies else [L.next], saved := false }
      else none

/-- The heads of a world: one for each queue, requeued companies first. -/
def State.heads (s : State) (w : Nat) : List Head :=
  let ws := s.launches.filterMap (fun (e : Nat × Launch) => if e.2.world = w then e.2.waits e.1 else none)
  let key (h : Head) : Nat × Nat := ((s.launches.get? h.launch).map (fun L => (L.slot, L.qid))).getD (0, 0)
  ((ws.filter (·.saved)) ++ (ws.filter (fun h => !h.saved))).foldl (fun (acc : List Head) h =>
    if acc.any (fun x => key x == key h) then acc else acc ++ [h]) []

/-- The effective priority of a launch's queue. -/
def State.prioOf (s : State) (L : Launch) : Nat :=
  match s.slotOf L with
  | some i => (s.slot i).eprio
  | none => L.prio

/-- A head's slot as its place in the round. -/
def State.headSlot (s : State) (h : Head) : Nat := ((s.launches.get? h.launch).map (·.slot)).getD 0

/-- Heads of one effective priority, in slot order after the last one served. -/
def State.ring (s : State) (w prio : Nat) : List Head :=
  let hs := (s.heads w).filter (fun h => ((s.launches.get? h.launch).map s.prioOf) == some prio)
  let hs := sortOn s.headSlot hs
  let last := (s.world w).budget.last
  hs.filter (fun h => decide (last < s.headSlot h + 1)) ++ hs.filter (fun h => !decide (last < s.headSlot h + 1))

/-! ### Placing -/

/-- First addresses of the largest pages that map a launch's resident leases, in lease-list order (07 R156). -/
def State.leasePages (s : State) (L : Launch) : List Nat :=
  L.uses.flatMap (fun u =>
    let e := (s.world L.world).leases.getD u.entry Lease0
    if e.streamed then []
    else (((List.range e.len).map (e.base + ·)).filter (fun p => p % tlbPages (e.tlbSize p) == 0)).map (· * 4096))

/-- The clusters of places take the launch's translations, up to 3072 entries (07 R156; log 29). -/
def State.warm (s : State) (L : Launch) (ps : List Place) : State :=
  let cls := addAll [] (ps.map (fun p => p.coreNo / 4))
  let vas := (s.leasePages L).take 3072
  cls.foldl (fun (s : State) c => vas.foldl (fun (s : State) va => s.toTlb c L.world L.tcid va) s) s

/-- A new company's troupes are created at their places. -/
def State.createCompany (s : State) (l : Nat) (L : Launch) (c : Nat) (ps : List Place) : State :=
  ((List.range ps.length).zip ps).foldl (fun (s : State) (e : Nat × Place) =>
    { s with troupes := s.troupes.set s.nextId (L.troupe l c e.1 e.2), nextId := s.nextId + 1 }) s

/-- A head is placed: its troupes stand on their cores, or its saved contexts have places to be restored at. -/
def State.placeHead (s : State) (l : Nat) (L : Launch) (h : Head) (ps : List (Nat × List Place)) : State :=
  let est := s.meanOf l L h.companies.length
  let s := s.onWorld L.world (fun W => { W with budget := { W.budget with
    pwrUsed := W.budget.pwrUsed + est.1, bwUsed := W.budget.bwUsed + bandOf est.2 } })
  let s := s.onLaunch l (fun L => { L with began := L.began.orElse (fun _ => some s.now) })
  let s := s.warm L (ps.flatMap (·.2))
  if h.saved then
    s.onLaunch l (fun L => { L with saved := L.saved.map (fun c =>
      match ps.find? (fun p => p.1 == c.company) with
      | some p => { c with places := p.2 }
      | none => c) })
  else
    (ps.foldl (fun (s : State) p => s.createCompany l L p.1 p.2) s).onLaunch l (fun L =>
      let n := L.next + h.companies.length
      { L with
        next := n, placed := decide (L.companies ≤ n) && !L.again
        stage := if L.companies ≤ n then .running else L.stage })

/-- The head that a launch's queue shows now. -/
def State.headOf (s : State) (w l : Nat) : Option Head :=
  let key (n : Nat) : Option (Nat × Nat) := (s.launches.get? n).map (fun L => (L.slot, L.qid))
  (s.heads w).find? (fun h => key h.launch == key l)

/-- One queue's visit: companies are placed while the deficit and the gates admit them (20 R423). A queue that is unmapped
has no deficit left to keep. -/
def State.spend (w l : Nat) : Nat → State → State
  | 0, s => s
  | fuel + 1, s =>
    match s.headOf w l with
    | none => s
    | some h =>
      match s.launches.get? h.launch with
      | none => s
      | some L =>
        let cost := h.companies.length * L.desc.sets * L.desc.troupes
        let i := s.slotOf L
        let d := (i.map (fun i => (s.slot i).deficit)).getD cost
        match s.gate w L h with
        | .error _ => s
        | .ok ps =>
          if d < cost then s
          else
            let s := s.placeHead h.launch L h ps
            let s := match i with
              | some i => s.onSlot i (fun q => { q with
                  deficit := q.deficit - cost, eprio := q.prio, waited := 0, reserved := false })
              | none => s
            let s := s.onWorld w (fun W => { W with budget := { W.budget with last := L.slot + 1 } })
            State.spend w l fuel s

/-- A visit of a queue in the round: its deficit grows, and is spent (20 R423). -/
def State.visit (s : State) (w : Nat) (h : Head) : State :=
  match s.launches.get? h.launch with
  | none => s
  | some L =>
    let cost := h.companies.length * L.desc.sets * L.desc.troupes
    let q := s.ctl.quant
    let s := match s.slotOf L with
      | some i => s.onSlot i (fun x => { x with deficit := min (x.deficit + q) (q + max 1024 cost) })
      | none => s
    let s := State.spend w h.launch 4096 s
    match s.slotOf L with
    | some i => if (s.headOf w h.launch).isNone then s.onSlot i (fun x => { x with deficit := 0 }) else s
    | none => s

/-- Does a head pass its gates? -/
def State.passes (s : State) (w : Nat) (h : Head) : Bool :=
  match s.launches.get? h.launch with
  | some L => match s.gate w L h with
    | .ok _ => true
    | .error _ => false
  | none => false

/-- Is a head's queue reserved: has it waited a promotion period (20 R422)? -/
def State.reservedHead (s : State) (h : Head) : Bool :=
  match (s.launches.get? h.launch).bind s.slotOf with
  | some i => (s.slot i).reserved
  | none => false

/-- The priorities in ascending order: a lower one is reached only when no head of this one passes or is reserved. -/
def State.rounds (w : Nat) : List Nat → State → State
  | [], s => s
  | p :: ps, s =>
    let s := (s.ring w p).foldl (fun (s : State) h => s.visit w h) s
    let left := s.ring w p
    if left.any (fun h => s.passes w h || s.reservedHead h) then s else State.rounds w ps s

/-- GATE: why the first head that waits does (20 R420), and the time from which each head waits (20 R422). -/
def State.noteWaits (s : State) (w : Nat) : State :=
  let hs := (List.range 4).flatMap (fun p => s.ring w p)
  let why := match hs.head? with
    | some h => match s.launches.get? h.launch with
      | some L => match s.gate w L h with
        | .error g => g
        | .ok _ => 0
      | none => 0
    | none => 0
  let s := s.onWorld w (fun W => { W with budget := { W.budget with gate := why } })
  hs.foldl (fun (s : State) h =>
    match (s.launches.get? h.launch).bind s.slotOf with
    | some i => s.onSlot i (fun q => if q.waited = 0 then { q with waited := 1 + s.now } else q)
    | none => s) s

/-! ### Quiesce points (24 R476) -/

/-- Does a slice command of this operation act on a world? -/
def State.commandWorld (s : State) : Option Nat :=
  if !s.sliceCmd.busy then none
  else if s.sliceCmd.op = 5 then some (s.slice s.sliceCmd.slice).owner
  else some s.sliceCmd.world

/-- Does a command of a world wait for its quiesce point, so that no company of it is placed (04 R90, R91; 24 R476)? -/
def State.quiescing (s : State) (w : Nat) : Bool :=
  (s.world w).vcmd.busy || s.commandWorld == some w || (s.world w).trust.stopping ||
    s.slices.any (fun (e : Nat × Slice) => e.2.form.busy && e.2.form.world == w)

/-- The budgets as the host wrote them come into force (20 R418). -/
def State.takeBudgets (s : State) (w : Nat) : State :=
  s.onWorld w (fun W => { W with budget := { W.budget with
    inForce := { core := W.budget.core, pwr := W.budget.pwr, bw := W.budget.bw } } })

/-- PLACEMENT_DECISION (20 R408-R423). A decision that finds its world at a quiesce point performs the home moves that its launches ask for
before it places them (21 R432; log 20). -/
def execPlacementDecision (w : Nat) (s : State) : Out :=
  let s := (Tab.keys (s.launches.filter (fun (e : Nat × Launch) => e.2.world == w && !e.2.ending))).foldl
    (fun (s : State) l => s.endCompanies l) s
  if s.quiescing w || !s.accepts w then .next s
  else
    let s := (if s.worldQuiet w then s.performMoves w else s).takeBudgets w
    .next ((State.rounds w [0, 1, 2, 3] s).noteWaits w)

/-- PRIORITY_PROMOTION: a head that has waited PROMO milliseconds is reserved, and its queue rises by one (20 R422). -/
def execPriorityPromotion (i : Nat) (s : State) : Out :=
  let q := s.slot i
  if q.waited = 0 || decide (s.now < q.waited - 1 + s.ctl.promo * 1000000) then .next s
  else .next (s.onSlot i (fun q => { q with eprio := q.eprio - 1, reserved := true, waited := 1 + s.now }))

/-! ### The measure (20 R419, R421) -/

/-- A figure of Table 1-7 in 1/524,288 W, at the level of a slice: scaled by the level's slice cap over 46.25 W (25 Table 25-4). -/
def State.atLevel (s : State) (k x : Nat) : Nat := x * levelCap (s.slice k).level / 370

/-- Leakage and other: 300 W / 65,536 for each set slot that the troupes of a world hold in cores. -/
def State.leakage (s : State) (w : Nat) : Nat :=
  s.troupes.foldl (fun n (e : Nat × Troupe) =>
    if s.worldOf e.2 = w && !e.2.place.isUnit then n + s.atLevel e.2.place.slice (e.2.sets * 2400) else n) 0

/-- The MSC, DRAM I/O, encryption engines and base-die logic: 890 W / 64 for each slice through which bytes of the world moved. -/
def State.slicePower (s : State) (w : Nat) : Nat :=
  (s.world w).budget.meter.busy.foldl (fun n k => n + s.atLevel k 7290880) 0

/-- The links: 100 W in proportion to the world's share of the package's link bytes, at the mean of its slices' levels (log 28). -/
def State.linkPower (s : State) (w own all : Nat) : Nat :=
  let ks := s.owned w
  (ks.map (fun k => s.atLevel k (52428800 * own / max 1 all))).foldl (· + ·) 0 / max 1 ks.length

/-- PACING_WINDOW: at the end of a window of at least 10 us, the mean measure of a world over it and whether the world's cores are paced (20
R419, R421; 05 R97). The activity of its cores' matrix, vector and control units, and of their scratchpad and L1, which the cycles of its
operations give, are inputs in 1/8 W (log 28). A byte count of 2500 in 10 us is 0.25 GB/s. -/
def execPacingWindow (w units scratch : Nat) (s : State) : Out :=
  let m := (s.world w).budget.meter
  if s.now < m.since + 10000 then .next s
  else
    let own := m.links - m.own
    let watts := (units + scratch) * 65536 + s.leakage w + s.slicePower w + s.linkPower w own (s.allLinks - m.all)
    let s := s.onWorld w (fun W => { W with budget := { W.budget with
      pwrUsed := watts, bwUsed := bandOf (own * 10000 / (s.now - m.since))
      meter := { links := m.links, busy := [], since := s.now, own := m.links, all := s.allLinks } } })
    let beyond := decide (s.powerBudget w < s.powerCharged w) || decide (s.linkBudget w < (s.world w).budget.bwUsed)
    let s := s.onWorld w (fun W => { W with budget := { W.budget with paced := beyond } })
    let cores := (s.owned w).flatMap (fun k => (List.range 16).map (fun i => 16 * k + i))
    .next { s with cores := cores.foldl (fun (m : Tab Core) c =>
      if beyond || (Tab.getD m c Core0).paced then Tab.set m c { Tab.getD m c Core0 with paced := beyond } else m) s.cores }

end Sys2Proof.Machine
end

