-- ==== Sys2Proof/Machine/Bundler.lean ====
section
/-! DEFINITION. When held threads become ready, how a core forms figures and serves its cue streams, and ageing (20 R414-R417). -/

namespace Sys2Proof.Machine

/-! ### Becoming ready (20 R414, R417) -/

/-- Does a set's next chunk stand behind no commit (10 R217)? -/
def SetState.settled (S : SetState) : Bool := S.closing == none && S.chunk.all (fun c => c.phase == .running)

/-- Has what a lane of a set waits for come about? -/
def State.setWakes (s : State) (t k : Nat) (T : Troupe) (S : SetState) (j : Nat) (x : Wake) : Bool :=
  let L := s.launchOf T
  let C := s.coreAt T.place.coreNo
  match x with
  | .room => S.closing == none || S.chunk.all (fun c => c.phase == .running)
  | .commit => S.settled
  | .drained => !s.drains.any (fun d => d.troupe == t && d.set == k)
  | .acked => s.acked t k
  | .line u n => (s.lineSeen S u n).1
  | .pop q => (S.head? q).isSome || T.cue.ended
  | .push q => S.room q || T.cue.ended
  | .board => C.freeOp.isSome
  | .tile n => !C.ops.any (fun e => e.2.onTile t n && !e.2.retired)
  | .answer i => (S.answers.get? i).isSome || !s.asked t k i
  | .filled va => !C.misses.any (fun e => e.2.world == L.world && e.2.tcid == L.tcid && e.2.va == va / 128 && e.2.err == 0)
  | .owed r => !S.threads.any (fun th => th.live && th.owes r)
  | .nbStores => !s.nbStores t k T
  | .unsealed w c va => s.sealState w c va != 2
  | .ops p => !C.ops.any (fun e => e.2.troupe == t && e.2.standing && decide (e.2.pos ≤ p))
  | .word a c v => (s.readFault L.world a).isSome ||
      (!s.anyUnverified L.world [a / 128] && waitCond c (BitVec.ofNat 32 (s.seenNat L.world a 4)) v)
  | .pad u o c v => s.lineFull u o &&
      waitCond c (BitVec.ofNat 32 (leNat ((List.range 4).map (fun b => s.loadSpad S j u (o + b))))) v
  | .clear w l => !s.lineBusy w l
  | .unread u lo hi => s.spadFree u lo hi
  | .port .. => true

/-- Has what a cue stream waits for come about? -/
def State.cueWakes (s : State) (t : Nat) (T : Troupe) (x : Wake) : Bool :=
  let L := s.launchOf T
  let C := s.coreAt T.place.coreNo
  match x with
  | .acked => !s.cueAsked t
  | .line u n => s.lineFull u (n * 128)
  | .board => C.freeOp.isSome
  | .answer i => (T.cue.answers.get? i).isSome || !s.cueAsked t
  | .filled va => !C.misses.any (fun e => e.2.world == L.world && e.2.tcid == L.tcid && e.2.va == va / 128 && e.2.err == 0)
  | .unsealed w c va => s.sealState w c va != 2
  | .word a c v => (s.readFault L.world a).isSome ||
      (!s.anyUnverified L.world [a / 128] && waitCond c (BitVec.ofNat 32 (s.seenNat L.world a 4)) v)
  | .pad u o c v => s.lineFull u o && waitCond c (BitVec.ofNat 32 (leNat (s.spadBytes u o 4))) v
  | .clear w l => !s.lineBusy w l
  | .unread u lo hi => s.spadFree u lo hi
  | .port k q push => match T.setTab.get? k with
    | some S => if push then S.room q else (S.drainable q).isSome || !S.alive
    | none => true
  | _ => true

/-- The address at which threads that gather may go on: every live thread of the set gathers there, or they gather at several
addresses, of which the lowest takes the trap (13 R295, R296). -/
def SetState.gathered (S : SetState) : Option Nat :=
  let ls := lanesOf S.live
  if ls.all (fun j => (S.lane j).gathers) then minNat (ls.map (fun j => (S.lane j).pc)) else none

/-- May a held thread go on? The rules that end `join`, `yield`, an atomic's wait and a poll have turns of their own. -/
def State.rises (s : State) (t k : Nat) (T : Troupe) (S : SetState) (j : Nat) : Bool :=
  match (S.lane j).hold with
  | .until ws => ws.all (s.setWakes t k T S j)
  | .gather _ => S.gathered == some (S.lane j).pc
  | _ => false

/-- A set with the threads that have become ready. Age counts from then, and not while the set cannot issue (20 R415, R416). -/
def State.rouseSet (s : State) (t k : Nat) (T : Troupe) (S : SetState) : SetState :=
  let S := if canIssue s T S then S else S.ageFrom s.cycle.toNat
  { S with threads := S.threads.mapIdx (fun j th =>
      if !th.live || th.hold == .ready then th
      else { th with hold := if s.rises t k T S j then .ready else th.hold, since := s.cycle.toNat, aged := false }) }

/-- A troupe with what has become ready; its physical registers, its port entries and its spill region are free once it has ended (09 R199,
R200, R211). -/
def State.rouseTroupe (s : State) (t : Nat) (T : Troupe) : Troupe :=
  if T.finished then
    { T with
      spill := none
      setTab := T.setTab.map (fun (e : Nat × SetState) => (e.1, { e.2 with names := Names0, ports := e.2.ports.map (fun _ => []) })) }
  else if !T.started || T.halted then
    { T with setTab := T.setTab.map (fun (e : Nat × SetState) => (e.1, e.2.ageFrom s.cycle.toNat)) }
  else
    { T with
      cue := if T.cue.stall.all (s.cueWakes t T) then { T.cue with stall := [] } else T.cue
      setTab := T.setTab.map (fun (e : Nat × SetState) => (e.1, s.rouseSet t e.1 T e.2)) }

/-- What follows from the state with no turn of its own: threads and cue streams whose waits are over are ready, a troupe that has
ended loses its held copies (08 R196, 09 R211), and the next stage-two fault takes XL_S2F (07 R161). -/
def State.rouse (s : State) : State :=
  let s : State := { s with troupes := s.troupes.map (fun (e : Nat × Troupe) => (e.1, s.rouseTroupe e.1 e.2)) }
  let ended := s.troupes.filter (fun (e : Nat × Troupe) => e.2.finished)
  (ended.foldl (fun (s : State) e => s.dropHeld e.1 e.2) s).nextTwo

/-- The turns that the free schedule may take: an instruction of a step or cue stream issues by its front end's own turn. -/
def Turn.free : Turn → Bool
  | .issue (.step _) => false
  | .issue (.cue _) => false
  | .settle _ => false
  | .spare _ => false
  | .cues _ => false
  | _ => true

/-! ### Figures (20 R414-R416) -/

/-- May a core issue in this cycle: while it is paced, in even cycles only (20 R421)? -/
def State.coreTurn (s : State) (c : Nat) : Bool := !(s.coreAt c).paced || s.cycle.toNat % 2 == 0

/-- May a troupe's core? -/
def State.troupeTurn (s : State) (t : Nat) : Bool := ((s.troupes.get? t).map (fun T => s.coreTurn T.place.coreNo)).getD true

/-- Is a figure held: its threads stand at its PC, where a rule of 20 R414 holds them? -/
def State.figureHeld (s : State) (f : Figure) : Bool :=
  match s.setAt? f.troupe f.set with
  | some S => (lanesOf f.mask).all (fun j => (S.lane j).pc == f.pc && match (S.lane j).hold with
      | .until _ | .gather _ | .poll => true
      | _ => false)
  | none => true

/-- The place of a figure that does not issue goes to its next part, or to a figure that has none in the round (20 R414, R415). -/
def passOn : List Turn → List Turn
  | .issue (.step f) :: rest =>
    if f.more then .issue (.step { f with more := false }) :: rest else .issue (.step f) :: passOn rest
  | .spare (f :: fs) :: rest => f.map (fun g => Turn.issue (.step g)) ++ .spare fs :: rest
  | a :: rest => a :: passOn rest
  | [] => []

/-- After a figure's issue: the first part of a figure that a rule has held takes no place. -/
def State.settleFigure (s : State) (f : Figure) : State :=
  if !f.more && s.figureHeld f then { s with agenda := passOn s.agenda } else s

/-- The ready threads of a set at one PC: their figure, their code object with the PC, whether a set-convergent instruction stands
there, and their aged lanes with their places in the order of age. -/
structure Ready where
  fig : Figure
  code : Nat
  conv : Bool
  ages : Tab Nat
  deriving DecidableEq, Repr, Inhabited

/-- The place of the oldest aged thread. -/
def Ready.aged (r : Ready) : Option Nat := minNat ((r.ages.filter (fun e => inMask r.fig.mask e.1)).map (·.2))

/-- The name of a PC of a code object: its world, the page that it starts in, and the PC. -/
def State.codeKey (s : State) (f : Figure) : Nat :=
  match s.codeOf (.step f) with
  | some c => (c.world * 2 ^ 45 + c.pages.getD 0 0) * 2 ^ 32 + f.pc
  | none => f.pc

/-- Does a set-convergent instruction stand at a figure's PC (13 R295)? -/
def State.convergentAt (s : State) (f : Figure) (handler : Bool) : Bool :=
  (s.instrAt f).any (fun e => convergentIn e.1 handler)

/-- The ready threads of a set by PC; `n` is the set's number in the order of placement. -/
def State.readyIn (s : State) (n t k : Nat) (S : SetState) : List Ready :=
  let js := (List.range 32).filter (fun j => (S.lane j).ready)
  (addAll [] (js.map (fun j => (S.lane j).pc))).map (fun pc =>
    let here := js.filter (fun j => (S.lane j).pc == pc)
    let f : Figure := { troupe := t, set := k, mask := maskOf (fun j => here.contains j), pc := pc, more := false }
    { fig := f, code := s.codeKey f, conv := s.convergentAt f S.handler.isSome
      ages := (here.filter (fun j => (S.lane j).aged)).map (fun j => (j, (S.lane j).since * 2 ^ 32 + n * 32 + j)) })

/-- A troupe's number in the order of placement (20 R417). -/
def Troupe.order (T : Troupe) (t : Nat) : Nat := if T.seat = 0 then t else T.seat

/-- The troupes of a core in the order of placement. -/
def State.seated (s : State) (c : Nat) : Tab Troupe :=
  sortOn (fun (e : Nat × Troupe) => e.2.order e.1) (s.troupes.filter (fun (e : Nat × Troupe) => e.2.place == .core c))

/-- The candidates of a core, by the order of placement and set. -/
def State.ready (s : State) (c : Nat) : List Ready :=
  let sets := (s.seated c).flatMap (fun (e : Nat × Troupe) => e.2.setTab.map (fun (f : Nat × SetState) => (e.1, e.2, f.1, f.2)))
  (sets.mapIdx (fun n x => if canIssue s x.2.1 x.2.2.2 then s.readyIn n x.1 x.2.2.1 x.2.2.2 else [])).flatten

/-- The ready PCs in the order of their visits: those of the table that are still ready, then new ones while the table has
room (20 R415). -/
def readyTable (old : List Nat) (rs : List Ready) : List Nat :=
  (addAll (old.filter (fun k => rs.any (fun r => r.code == k))) (rs.map (·.code))).take 256

/-- A figure that a candidate leads takes every other ready thread at its PC that can still join it: one thread for each lane, and for a
set-convergent instruction those of its own set only (20 R415). The parts of the figure, set by set, and the candidates left. -/
def Ready.lead (r : Ready) (pool : List Ready) : List Figure × List Ready :=
  let others := pool.filter (· != r)
  if r.conv then ([r.fig], others)
  else
    let joins := others.foldl (fun (p : Word × List Figure × List Ready) x =>
      if x.code != r.code || x.conv then (p.1, p.2.1, p.2.2 ++ [x])
      else
        let m := x.fig.mask &&& ~~~ p.1
        let left := x.fig.mask &&& p.1
        (p.1 ||| m, if m = 0 then p.2.1 else p.2.1 ++ [{ x.fig with mask := m, more := true }]
        , if left = 0 then p.2.2 else p.2.2 ++ [{ x with fig := { x.fig with mask := left } }]))
      (r.fig.mask, [r.fig], [])
    (joins.2.1, joins.2.2)

/-- The candidate with the oldest aged thread. -/
def oldest (pool : List Ready) : Option Ready :=
  match minNat (pool.filterMap Ready.aged) with
  | some n => pool.find? (fun r => r.aged == some n)
  | none => none

/-- At most `n` figures that aged threads lead, oldest first, and the candidates left. -/
def agedFirst : Nat → List Ready → List (List Figure) × List Ready
  | 0, pool => ([], pool)
  | n + 1, pool =>
    match oldest pool with
    | none => ([], pool)
    | some r =>
      let (f, rest) := r.lead pool
      let (fs, left) := agedFirst n rest
      (f :: fs, left)

/-- At most `n` figures at the PCs of the table, visited round robin. -/
def fromTable : Nat → List Nat → List Ready → List (List Figure) × List Nat
  | 0, table, _ => ([], table)
  | n + 1, table, pool =>
    match table.findSome? (fun k => pool.find? (fun r => r.code == k)) with
    | none => ([], table)
    | some r =>
      let (f, rest) := r.lead pool
      let (fs, table) := fromTable n (table.filter (· != r.code) ++ [r.code]) rest
      (f :: fs, table)

/-- At most `n` figures: those that aged threads lead, then by the table, which goes on from there. -/
def figuresOf (n : Nat) (table : List Nat) (rs : List Ready) : List (List Figure) × List Nat :=
  let (first, rest) := agedFirst n rs
  let (more, table) := fromTable (n - first.length) table rest
  (first ++ more, table)

/-- The figures of one round, at most 8, and the table after it. -/
def roundOfCore (table : List Nat) (rs : List Ready) : List (List Figure) × List Nat := figuresOf 8 table rs

/-- The figures that would come next: they take the places of figures that turn out to be held. -/
def spareOfCore (table : List Nat) (rs : List Ready) : List (List Figure) := (figuresOf (32 * rs.length) table rs).1.drop 8

/-- BUNDLER_ROUND: the figures of a round stand next on the agenda, and behind them those with no place. -/
def execBundlerRound (c : Nat) (s : State) : Out :=
  if !s.coreTurn c then .next s
  else
    let rs := s.ready c
    let old := readyTable (s.coreAt c).pcTable rs
    let (fs, table) := roundOfCore old rs
    .next ((s.onCore c (fun C => { C with pcTable := table })).first
      (fs.flatten.map (fun f => Turn.issue (.step f)) ++ [.spare (spareOfCore old rs)]))

/-- CUE_ISSUE: the next troupe of the core, in the order of placement, with a ready cue instruction issues one (20 R417). -/
def execCueIssue (c : Nat) (s : State) : Out :=
  let ts := (s.seated c).filter (fun (e : Nat × Troupe) => cueCan s e.2)
  let last := (s.coreAt c).cueTurn
  match (if s.coreTurn c then (ts.filter (fun e => decide (last < e.2.order e.1)) ++ ts).head? else none) with
  | some e => .next ((s.onCore c (fun C => { C with cueTurn := e.2.order e.1 })).begin (.cue e.1))
  | none => .next s

/-- THREAD_AGED: a thread that has been ready for 512 cycles without issuing (20 R416). -/
def execThreadAged (t k j : Nat) (s : State) : Out :=
  match s.setAt? t k with
  | none => .next s
  | some S =>
    let th := S.lane j
    if th.ready && decide (th.since + 512 ≤ s.cycle.toNat) then
      .next (s.onSet t k (fun S => S.onLanes (maskBit j) (fun _ th => { th with aged := true })))
    else .next s

end Sys2Proof.Machine
end

