-- ==== Sys2Proof/Machine/Runs.lean ====
section
/-! DEFINITION. Staging, the start of troupes, the end of a grid run and the completion of a launch (07 R159; 09 R211;
20 R413; 21 R437, R496). -/

namespace Sys2Proof.Machine

/-! ### Staging (07 R159) -/

/-- Why a staging copy stops: a translation fault, or the cause of a failure, at an address. -/
inductive Unstaged where
  | translate (va : Nat) (e : WalkErr)
  | data (va cause : Nat)
  deriving DecidableEq, Repr

/-- A source address as a device address. -/
def State.stageDpa (s : State) (L : Launch) (va : Nat) : Except Unstaged Nat :=
  match s.leaseOf L .tensorIn va with
  | .error e => .error (.data va e.1)
  | .ok l =>
    let check (p : Page) : Except Unstaged Nat := match s.pageBad .tensorIn va p with
      | some e => .error (.data va e.1)
      | none => .ok (p.dpa + va % 4096)
    if !l.streamed then check (l.page va)
    else match s.walk L.world L.tcid va with
      | .ok p => check p
      | .error e => .error (.translate va e)

/-- Bytes of one granule of a source: at their homes, or at their target (log 11), a line of a live range at its home (06 R135). -/
def State.stageBytes (s : State) (w a n : Nat) : State × Except Nat (List Byte) :=
  if isOutside a && !(s.world w).liveLine (a / 128) then
    (s, match s.targetFault w a with
      | some c => .error c
      | none => .ok (s.mem.readBytes a n))
  else
    let fault := s.readFault w a
    let s := if s.contained w a then s else s.serve w a n
    (s, match fault with
      | some c => .error c
      | none => .ok (s.seenBytes w a n))

/-- The pieces of a launch's staging copies in order: the entry, the offset in scratchpad, the source and the length. -/
def Launch.stagePieces (L : Launch) : List (Nat × Nat × Nat × Nat) :=
  (List.range L.desc.stages.length).flatMap (fun i =>
    let e := L.desc.stages.getD i (0, 0, 0, 0)
    let base := L.argBase e.1 + e.2.2.1
    (granulePieces (e.2.2.2 / 64 + 2) base e.2.2.2).map (fun p => (i, e.2.1 + (p.1 - base), p.1, p.2)))

/-- A live walk for a source of a streamed lease reads its tables. -/
def State.stageReads (s : State) (L : Launch) (va : Nat) : State :=
  match s.leaseOf L .tensorIn va with
  | .ok l => if l.streamed then s.readTables L.world L.tcid va else s
  | .error _ => s

/-- Copy pieces to scratchpad, up to one that stops: the entry's index stands with its reason. -/
def State.stageAll (L : Launch) : List (Nat × Nat × Nat × Nat) → State → Troupe → State × Troupe × Option (Nat × Unstaged)
  | [], s, T => (s, T, none)
  | (i, at', va, n) :: ps, s, T =>
    let place := s.stageDpa L va
    let s := s.stageReads L va
    match place with
    | .error e => (s, T, some (i, e))
    | .ok a =>
      match s.stageBytes L.world a n with
      | (s, .error c) => (s, T, some (i, .data va c))
      | (s, .ok bs) => State.stageAll L ps s { T.putBytes at' bs with stagedTo := T.stagedTo + 1 }

/-- STAGING_COPY: a placed troupe's regions are filled from where its copies stopped, or its launch waits or is refused (07 R159-R161). -/
def execStagingCopy (t : Nat) (s : State) : Out :=
  match s.troupes.get? t with
  | none => .next s
  | some T =>
    let l := T.launch
    let L := s.launchOf T
    if T.staged || L.ending then .next s
    else if T.place.isUnit then .next (s.onTroupe t (fun T => { T with staged := true }))
    else
      match State.stageAll L (L.stagePieces.drop T.stagedTo) s T with
      | (s, T', none) => .next (s.onTroupe t (fun T => { T with spad := T'.spad, staged := true, stagedTo := T'.stagedTo }))
      | (s, T', some (i, .translate va e)) =>
        let s := s.onTroupe t (fun T => { T with spad := T'.spad, stagedTo := T'.stagedTo })
        if s.faultStands L.world 4 l i then .next s
        else .next (s.reportFault L.world 31 31 L.tcid va e 4 l i)
      | (s, _, some (_, .data va cause)) =>
        .next ((s.refuse l 13 cause).worldCause L.world { cause := cause, addr := va, qid := L.qid, seq := L.seq })

/-- TROUPE_START (09 R211): both streams begin in one step, once the placed troupes of the launch are staged. -/
def execTroupeStart (t : Nat) (s : State) : Out :=
  match s.troupes.get? t with
  | none => .next s
  | some T =>
    if T.started || (s.launchOf T).ending || !(s.troupesOf T.launch).all (fun (e : Nat × Troupe) => e.2.staged) then .next s
    else
      .next (s.onTroupe t (fun T => { T with
        started := true
        setTab := T.setTab.map (fun (e : Nat × SetState) =>
          (e.1, { e.2 with threads := e.2.threads.map (fun th => { th with since := s.cycle.toNat }) })) }))

/-! ### The end of a run (20 Table 20-2) -/

/-- Has everything of a launch outside its troupes finished: reduction commands, drains, link requests, reductions and
atomics at homes? -/
def State.runQuiet (s : State) (l : Nat) : Bool :=
  let ts := Tab.keys (s.troupesOf l)
  !s.drains.any (fun d => d.launch == l) && !s.requests.any (fun (r : Nat × Request) => r.2.launch == l) &&
    !s.slices.any (fun (e : Nat × Slice) => e.2.nb.queue.any (fun c => c.launch == l) || e.2.reds.any (fun r => r.launch == l) ||
      e.2.atomics.any (fun a => match a.asker with
        | .lane t _ _ => ts.contains t
        | .cue t => ts.contains t))

/-- Companies of a launch that hold cores. -/
def State.companiesOf (s : State) (l : Nat) : Nat := (addAll [] ((s.troupesOf l).map (fun (e : Nat × Troupe) => e.2.company))).length

/-- Have the engines finished for the troupes of a launch that ends: operations in transfer, and near-bank requests
(07 R158, 20 R413)? -/
def State.enginesDone (s : State) (l : Nat) : Bool :=
  (s.troupesOf l).all (fun (e : Nat × Troupe) =>
    !(s.coreAt e.2.place.coreNo).ops.any (fun (o : Nat × Op) => o.2.troupe == e.1 && match o.2.phase with
      | .placed | .moved => true
      | _ => false) &&
    !(match e.2.place.unit? with
      | some (k, u) => ((s.slice k).unit u).queue.any (fun r => r.troupe == e.1)
      | none => false))

/-- A granted lease loses a user (07 R156). -/
def State.unuse (s : State) (w i : Nat) : State :=
  s.onWorld w (fun W => { W with leases := W.leases.adjust i (fun x => { x with users := x.users - 1, last := s.now }) })

/-- The partials of a launch's ranges reach their homes (06 R134 case 4). -/
def State.sendPartials (s : State) (w : Nat) (ranges : List Nat) : State :=
  let lines := s.cores.flatMap (fun (e : Nat × Core) =>
    Tab.keys (e.2.partials.filter (fun (p : Nat × Partial) => p.2.world == w && ranges.contains p.2.range)))
  (addAll [] lines).foldl (fun (s : State) line => s.combine line) s

/-- What a run took is given back: ranges with their flags, windows, and uses of leases (21 R496; 06 R136; 05 R100). -/
def State.releaseRun (s : State) (l : Nat) : State :=
  match s.launches.get? l with
  | none => s
  | some L =>
    let s := s.sendPartials L.world L.rngs
    let rs := L.rngs.map (fun i => (s.world L.world).rngs.getD i Rng0)
    let s := s.onWorld L.world (fun W => { W with rngs := L.rngs.foldl (fun (m : Tab Rng) i =>
      Tab.adjust m i (fun r => { r with valid := false })) W.rngs })
    let s := L.wins.foldl (fun (s : State) (e : Nat × Nat × Nat) => s.onSlice e.1 (fun S => { S with
      nb := { S.nb with win := S.nb.win.filter (fun (x : Nat × NbWin) => x.2.launch != l) } })) s
    let s := L.uses.foldl (fun (s : State) u => s.unuse L.world u.entry) s
    s.onLaunch l (fun L => { L with
      ovf := L.ovf || rs.any (·.ovf), nan := L.nan || rs.any (·.nan), rngs := [], wins := [], uses := [] })

/-- Pages of the context area that saved companies of a launch hold are free (22 R461). -/
def State.freeContexts (s : State) (l : Nat) : State :=
  match s.launches.get? l with
  | none => s
  | some L =>
    let n := (L.saved.map (·.pages)).foldl (· + ·) 0
    (s.onWorld L.world (fun W => { W with area := { W.area with used := W.area.used - n } })).onLaunch l
      (fun L => { L with saved := [] })

/-! ### Completion (21 R437) -/

/-- The status word (21 Table 21-6). -/
def Launch.statusWord (L : Launch) : Nat :=
  L.status % 2 ^ 16 + b2n L.user * 2 ^ 16 + b2n L.ovf * 2 ^ 17 + b2n L.nan * 2 ^ 18 + L.detail % 256 * 2 ^ 24 +
    L.runs % 2 ^ 32 * 2 ^ 32

/-- What comes of a write of the completion: done, a cause, or a stage-two fault that it waits for. -/
inductive Ended where
  | done (s : State)
  | bad (s : State) (cause : Nat)
  | wait (s : State)
  deriving DecidableEq, Repr

/-- A write of the completion through a launch's own translation. A stage-two fault is reported, and the completion waits for its answer; a
denial is a failure with cause 0x20 (07 R161). -/
def State.ends (s : State) (l : Nat) (L : Launch) (va : Nat) (go : State → Nat → Ended) : Ended :=
  let place := s.choreoDpa L.world L.tcid va
  let s := s.lookReads (.context L.tcid) L.world va
  match place with
  | .dpa a => go s a
  | .bad c => .bad s c
  | .wait e =>
    match L.answers.get? 1 with
    | some c => .bad (s.onLaunch l (fun L => { L with answers := L.answers.del 1 })) c
    | none => .wait (if s.faultStands L.world 6 l 0 then s else s.reportFault L.world 31 31 L.tcid va e 6 l 0)

/-- A write of bytes in its place. -/
def State.endWrite (s : State) (L : Launch) (a : Nat) (bs : List Byte) : Ended :=
  match s.choreoWrite L.world a bs with
  | (s, none) => .done s
  | (s, some c) => .bad s c

/-- Action 2: 1 is subtracted from the signal. -/
def State.completionWrite (s : State) (l : Nat) (L : Launch) : Ended :=
  s.ends l L (L.word 11) (fun s a =>
    let s := s.forceDrain L.world (a / 128)
    match s.stageBytes L.world a 8 with
    | (s, .error c) => .bad s c
    | (s, .ok bs) => s.endWrite L a (leBytes 8 ((leNat bs + (2 ^ 64 - 1)) % 2 ^ 64)))

/-- Action 1: the status word. -/
def State.statusWrite (s : State) (l : Nat) (L : Launch) : Ended :=
  if L.word 13 = 0 then .done s
  else s.ends l L (L.word 13) (fun s a => s.endWrite L a (leBytes 8 L.statusWord))

/-- A completion write is over: a failure is recorded against the queue, with its reason (21 R437, R439). -/
def State.noteEnd (L : Launch) (reason va : Nat) : Ended → Option State
  | .done s => some s
  | .bad s c => some (s.queueNote L c reason va)
  | .wait _ => none

/-- The launch leaves its queue. A queue none of whose launches waits has its own priority again; a head that waits keeps the queue's (20
R422). -/
def State.leave (s : State) (l : Nat) (L : Launch) : State :=
  let i := s.slotOf L
  let s : State := { s with launches := s.launches.del l }
  let waits := (s.heads L.world).any (fun h => ((s.launches.get? h.launch).bind s.slotOf) == i)
  match i with
  | some i => if waits then s else s.onSlot i (fun q => { q with eprio := q.prio, waited := 0, reserved := false })
  | none => s

/-- Actions 2 and 3: the signal and the interrupt. -/
def State.release (s : State) (l : Nat) (L : Launch) : State :=
  match s.completionWrite l L with
  | .wait s => s
  | r => match State.noteEnd L 2 (L.word 11) r with
    | some s => (if L.flag 3 then s.interrupt L.world L.vec else s).leave l L
    | none => s

/-- A launch completes: sealed buffers drain, the status word once, the signal and the interrupt (06 Table 6-6, 21 R437). A launch
whose record gives no usable signal releases nothing. -/
def State.complete (s : State) (l : Nat) : State :=
  match s.launches.get? l with
  | none => s
  | some L =>
    let bufs := Tab.keys ((s.world L.world).wobs.filter (fun (e : Nat × Wob) => e.2.launch == l && e.2.state == 1))
    let s := bufs.foldl (fun (s : State) i => s.drainWob L.world i) s
    if L.words.isEmpty then s.leave l L
    else if L.stage == Stage.done then s.release l L
    else
      match s.statusWrite l L with
      | .wait s => s
      | r => match State.noteEnd L 1 (L.word 13) r with
        | some s => (s.onLaunch l (fun L => { L with stage := .done })).release l L
        | none => s

/-- GRID_RUN_END (20 R413, 21 R437, R496; 07 R158). A completion that waits for a stage-two answer goes on at a later one. -/
def execGridRunEnd (l : Nat) (s : State) : Out :=
  let s := match s.launches.get? l with
    | some L =>
      if L.stage == Stage.done then s
      else if L.ending then (s.troupesOf l).foldl (fun (s : State) (e : Nat × Troupe) => s.dropHeld e.1 e.2) s
      else s.endCompanies l
    | none => s
  match s.launches.get? l with
  | none => .next s
  | some L =>
    if L.stage == Stage.done then .next (s.complete l)
    else if L.ending then
      if !s.runQuiet l || !s.enginesDone l then .next s
      else
        let s := (Tab.keys (s.troupesOf l)).foldl (fun (s : State) t => s.dropTroupe t) (s.uncharge l (s.companiesOf l))
        .next (((s.releaseRun l).freeContexts l).complete l)
    else if L.stage != Stage.running || L.next != L.companies || L.ended != L.companies || !L.saved.isEmpty || !s.runQuiet l then .next s
    else
      let s := (s.releaseRun l).onLaunch l (fun L => { L with runs := (L.runs + 1) % 2 ^ 32 })
      if L.again then .next (s.onLaunch l (fun L => { L with next := 0, ended := 0 }.prologueRun))
      else .next ((s.onLaunch l (fun L => { L with ending := true })).complete l)

end Sys2Proof.Machine
end

