-- ==== Sys2Proof/Machine/Preempt.lean ====
section
/-! DEFINITION. Pre-emption and context (22 R457-R462). Page numbers: 0 to 64 are the worlds' CH_ pages, 65 is the management
CH_ page. -/

namespace Sys2Proof.Machine

/-! ### The command register (22 R457) -/

/-- CH_PREEMPT of a page. -/
def State.preemptCmd (s : State) (page : Nat) : PreemptCmd := if page = 65 then s.mgmtPreempt else (s.world page).preempt

/-- The world that a command acts on: the management page honours WORLD. -/
def State.preemptWorld (s : State) (page : Nat) : Nat := if page = 65 then s.mgmtPreempt.world else page

/-- Change CH_PREEMPT of a page. -/
def State.onPreempt (s : State) (page : Nat) (f : PreemptCmd → PreemptCmd) : State :=
  if page = 65 then { s with mgmtPreempt := f s.mgmtPreempt } else s.onWorld page (fun W => { W with preempt := f W.preempt })

/-- A command ends with a result. -/
def State.preemptDone (s : State) (page r : Nat) : State :=
  s.onPreempt page (fun c => { c with busy := false, result := r, going := false })

/-- Is the named slot not mapped by the world? -/
def State.preemptSlotBad (s : State) (page : Nat) : Bool :=
  let c := s.preemptCmd page
  let q := s.slot c.slot
  !c.all && (q.state == 0 || q.world != s.preemptWorld page)

/-- Does a command name a launch? -/
def State.preemptNames (s : State) (page : Nat) (L : Launch) : Bool :=
  let c := s.preemptCmd page
  L.world == s.preemptWorld page && !L.ending && (c.all || s.slotOf L == some c.slot)

/-! ### Sizes (22 R461) -/

/-- Bytes of a saved troupe. -/
def Desc.contextBytes (d : Desc) : Nat :=
  4096 + d.sets * (d.vregs * 128 + 8192) + ceilTo 128 (d.uregs * 8) + d.tiles * 4096 + d.spad + ceilTo 128 ((d.spad + 511) / 512)

/-- Pages of a saved company. -/
def Desc.contextPages (d : Desc) : Nat := (d.troupes * d.contextBytes + 4095) / 4096

/-- Placed troupes that a command takes. -/
def State.preemptTroupes (s : State) (page : Nat) : List (Nat × Troupe) :=
  s.troupes.filter (fun (e : Nat × Troupe) => s.preemptNames page (s.launchOf e.2) && e.2.cmd == 0)

/-- The companies of troupes: launch and company. -/
def companiesIn (ts : List (Nat × Troupe)) : List (Nat × Nat) := addAll [] (ts.map (fun e => (e.2.launch, e.2.company)))

/-- Pages of the area of a world that are taken: by saved companies, and by those that a command has halted. -/
def State.areaTaken (s : State) (w : Nat) : List (Nat × Nat) :=
  s.launches.flatMap (fun (e : Nat × Launch) => if e.2.world = w then
    e.2.saved.map (fun c => (c.page, c.pages)) ++ e.2.room.map (fun r => (r.2, e.2.desc.contextPages)) else [])

/-- Where a company's pages start: the first gap of the area that holds them (log 30). -/
def State.areaGap (s : State) (w pages : Nat) : Option Nat :=
  let taken := s.areaTaken w
  let free (p : Nat) : Bool := decide (p + pages ≤ (s.world w).area.len) && !taken.any (fun x => overlaps x.1 (x.1 + x.2) p (p + pages))
  (0 :: taken.map (fun x => x.1 + x.2)).find? free

/-- Room in the area for companies, one after another, or none when one finds no gap (22 R458). -/
def State.makeContexts (w : Nat) : List (Nat × Nat) → State → Option State
  | [], s => some s
  | (l, c) :: cs, s =>
    match s.areaGap w (((s.launches.get? l).map (fun L => L.desc.contextPages)).getD 0) with
    | some p => State.makeContexts w cs (s.onLaunch l (fun L => { L with room := L.room.set c p }))
    | none => none

/-! ### Halting (22 R458, R459) -/

/-- A set halts at its boundary: an open transaction is discarded and not counted, another open chunk closes. -/
def State.haltSet (s : State) (t k : Nat) : State :=
  match s.troupes.get? t, s.setAt? t k with
  | some T, some S =>
    if S.inTx then
      ((s.dropReads t k).freeOps T.place.coreNo (S.pendingOps false)).onSet t k (fun S => S.undo false)
    else
      s.onSet t k (fun S => match S.chunk with
        | some c => if c.count = 0 then { S with chunk := none } else S.close
        | none => S)
  | _, _ => s

/-- A troupe halts for a command. -/
def State.haltTroupe (s : State) (page t : Nat) (T : Troupe) : State :=
  let s := s.onTroupe t (fun T => { T with halted := true, cmd := page + 1 })
  (Tab.keys T.setTab).foldl (fun (s : State) k => s.haltSet t k) s

/-- A pre-emption: its checks, and the halt of every affected troupe; its end is that of the last save. -/
def preempt (op page : Nat) (s : State) : Out :=
  let c := s.preemptCmd page
  let w := s.preemptWorld page
  if !c.busy || c.op != op then .next s
  else if c.going then
    .next (if s.troupes.any (fun (e : Nat × Troupe) => e.2.cmd == page + 1) then s else s.preemptDone page 0)
  else if 64 < w || s.preemptSlotBad page then .next ((s.badTag w).preemptDone page 2)
  else
    let ts := s.preemptTroupes page
    if ts.isEmpty then .next (s.preemptDone page 4)
    else
      match State.makeContexts w (companiesIn ts) s with
      | none => .next (s.preemptDone page 3)
      | some s => .next ((ts.foldl (fun (s : State) e => s.haltTroupe page e.1 e.2) s).onPreempt page (fun c => { c with going := true }))

/-- PREEMPT_REQUEUE. -/
def execPreemptRequeue (page : Nat) (s : State) : Out := preempt 0 page s

/-- PREEMPT_HOLD. -/
def execPreemptHold (page : Nat) (s : State) : Out := preempt 1 page s

/-- RELEASE_HELD: held companies of the named launches wait for placement again (22 R460). -/
def execReleaseHeld (page : Nat) (s : State) : Out :=
  let c := s.preemptCmd page
  if !c.busy || c.op != 2 then .next s
  else if 64 < s.preemptWorld page || s.preemptSlotBad page then .next ((s.badTag (s.preemptWorld page)).preemptDone page 2)
  else
    let s' : State := { s with launches := s.launches.map (fun (e : Nat × Launch) =>
      if s.preemptNames page e.2 then (e.1, { e.2 with saved := e.2.saved.map (fun x => { x with held := false }) }) else e) }
    .next (s'.preemptDone page 0)

/-! ### The area (22 R461, R462) -/

/-- A context that its area cannot hold or give back ends its launch: cause 0x71 with reason 5. -/
def State.contextFault (s : State) (l va : Nat) : State :=
  match s.launches.get? l with
  | none => s
  | some L =>
    let s := match s.slotOf L with
      | some i => s.queueFault i 0x71 5 va L.seq
      | none => (s.log L.world
          { cause := 0x71, reason := 5, flags := 2 ^ 6, addr := va, time := s.now, qid := L.qid, seq := L.seq, world := L.world }).interrupt
          L.world 64
    s.endLaunch l 11 0x71

/-- The context capability of pages of a world's area. -/
def State.contextCap (s : State) (w page pages : Nat) : Capability := (s.world w).area.cap w page pages

/-- Does a driver's rw resident lease cover what a context capability bounds? -/
def State.areaHeld (s : State) (c : Capability) : Bool :=
  (List.range (c.len / 4096)).all (fun i => match s.driverByte c.world 0 (c.base + 4096 * i) c.write with
    | .ok _ => true
    | .error _ => false)

/-- The tag of a company's header (22 R462; log 5). -/
def State.tagOf (s : State) (w l c : Nat) : Nat := Config.contextTag ((s.world w).trust.keys) (l * 2 ^ 32 + c) % 2 ^ 32

/-! ### Bytes of a context (22 R461, R462; the order within a troupe's bytes is log 30's) -/

/-- Where the registers of set `k` stand in the bytes of its troupe: its v registers, then its 8192 bytes. -/
def Desc.setBase (d : Desc) (k : Nat) : Nat := 4096 + k * (d.vregs * 128 + 8192)

/-- Where the uniform registers stand, then the tiles, the scratchpad and its line bits. -/
def Desc.uregsBase (d : Desc) : Nat := d.setBase d.sets

/-- Where the tiles stand. -/
def Desc.tilesBase (d : Desc) : Nat := d.uregsBase + ceilTo 128 (d.uregs * 8)

/-- Where the scratchpad stands. -/
def Desc.spadBase (d : Desc) : Nat := d.tilesBase + d.tiles * 4096

/-- Bytes of 0. -/
def zeroBytes (n : Nat) : List Byte := List.replicate n 0

/-- Marks of the entries of a set's ports: how an entry is taken, and 128 for one that is there. -/
def SetState.markBytes (S : SetState) : List Byte :=
  (List.range 16).map (fun n => match (S.port (n / 2))[n % 2]? with
    | some e => BitVec.ofNat 8 (128 + e.taken % 128)
    | none => 0)

/-- The mask of the registers that a rename map binds, spilled ones too (09 R199, R200). -/
def Names.maskBytes (n : Names) : List Byte :=
  leBytes 16 ((List.range 128).foldl (fun m r => if (n.bound.get? r).isSome || n.spilled.contains r then m + 2 ^ r else m) 0)

/-- The first five results that the windows of a thread still owe: register, instructions left and value. -/
def Thread.windowBytes (th : Thread) : List Byte :=
  let es := ((th.win.flatMap (fun w => w.dst.map (fun e => (e.1, w.left, e.2)))).take 5).flatMap (fun e =>
    leBytes 1 e.1 ++ leBytes 1 e.2.1 ++ leBytes 4 e.2.2.toNat)
  es ++ zeroBytes (30 - es.length)

/-- Predicates, generators and clock latches of 32 threads: 512 bytes. -/
def laneBytes (ths : List Thread) : List Byte :=
  ths.flatMap (fun th => leBytes 4 th.p.toNat) ++ ths.flatMap (fun th => leBytes 4 th.gen.toNat) ++ ths.flatMap (fun th => leBytes 8 th.clk.toNat)

/-- Registers v0 up of 32 threads: 128 bytes a register. -/
def regBytes (ths : List Thread) (n : Nat) : List Byte :=
  (List.range n).flatMap (fun r => ths.flatMap (fun th => leBytes 4 (Tab.getD th.v r 0).toNat))

/-- The interrupted threads of a set in handler mode, else its threads. -/
def SetState.main (S : SetState) : List Thread :=
  match S.handler with
  | some h => h.threads
  | none => S.threads

/-- Its rename map. -/
def SetState.mainNames (S : SetState) : Names :=
  match S.handler with
  | some h => h.names
  | none => S.names

/-- The bytes of a set: v registers; predicates, generators, clock latches, and the handler's of these; port entries from 1024, their marks
from 3072; the masks of bound registers and the windows; the handler's v registers from 4096. -/
def SetState.contextBytes (S : SetState) (vregs : Nat) : List Byte :=
  let ports := (List.range 16).flatMap (fun n => match (S.port (n / 2))[n % 2]? with
    | some e => e.words.flatMap (fun x => leBytes 4 x.toNat)
    | none => zeroBytes 128)
  regBytes S.main vregs ++ laneBytes S.main ++ (if S.handler.isSome then laneBytes S.threads else zeroBytes 512) ++ ports ++
    S.markBytes ++ S.mainNames.maskBytes ++ (if S.handler.isSome then S.names.maskBytes else zeroBytes 16) ++ zeroBytes 16 ++
    S.main.flatMap Thread.windowBytes ++ (if S.handler.isSome then regBytes S.threads 32 else zeroBytes 4096)

/-- The bytes of a saved troupe behind its first 4096 (22 R461). -/
def Troupe.contextBytes (T : Troupe) (d : Desc) : List Byte :=
  let bits := (List.range ((d.spad + 511) / 512)).map (fun i => BitVec.ofNat 8 (((List.range 4).map (fun j =>
    let b := T.lineBits (4 * i + j)
    (b2n b.1 + 2 * b2n b.2) * 4 ^ j)).foldl (· + ·) 0))
  (List.range d.sets).flatMap (fun k => ((T.setTab.get? k).map (fun S => S.contextBytes d.vregs)).getD
    (zeroBytes (d.vregs * 128 + 8192))) ++
  (List.range d.uregs).flatMap (fun k => leBytes 8 (T.s.getD k 0).toNat) ++ zeroBytes (ceilTo 128 (d.uregs * 8) - d.uregs * 8) ++
  (List.range (d.tiles * 1024)).flatMap (fun i => leBytes 4 ((T.tile (i / 1024)).el.getD (i % 1024) 0).toNat) ++
  (List.range d.spad).map T.byte ++ bits ++ zeroBytes (ceilTo 128 bits.length - bits.length)

/-- A number of `n` bytes at an offset. -/
def numAt (bs : List Byte) (off n : Nat) : Nat := leNat ((bs.drop off).take n)

/-- The first `n` words of bytes. -/
def wordsOf : Nat → List Byte → List Word
  | 0, _ => []
  | n + 1, bs => BitVec.ofNat 32 (leNat (bs.take 4)) :: wordsOf n (bs.drop 4)

/-- A register of a thread as the area holds it. -/
def Thread.loadReg (r : Nat) (th : Thread) (x : Word) : Thread :=
  if Tab.getD th.v r 0 = x then th else { th with v := Tab.set th.v r x }

/-- Registers v0 to v(n - 1) of every thread take the words of the area. -/
def loadRows (n : Nat) (ths : List Thread) (ws : List Word) : List Thread :=
  ((List.range n).foldl (fun (p : List Thread × List Word) r => (List.zipWith (Thread.loadReg r) p.1 (p.2.take 32), p.2.drop 32)) (ths, ws)).1

/-- Registers that hold a word other than 0 in some thread. -/
def heldRegs (n : Nat) (ths : List Thread) : List Nat := (List.range n).filter (fun r => ths.any (fun th => Tab.getD th.v r 0 != 0))

/-- The values of the results that a window owes, as the area holds them. -/
def takeVals : Tab Word → List Word → Tab Word × List Word
  | [], xs => ([], xs)
  | t, [] => (t, [])
  | (r, _) :: t, x :: xs => let (t', rest) := takeVals t xs; ((r, x) :: t', rest)

/-- The first five results that the windows of a thread still owe, as the area holds them. -/
def Thread.loadWindows (th : Thread) (xs : List Word) : Thread :=
  { th with win := (th.win.foldl (fun (p : List Window × List Word) w =>
      let (d, rest) := takeVals w.dst p.2
      (p.1 ++ [{ w with dst := d }], rest)) ([], xs)).1 }

/-- A generator's state is never 0 (12 R285): a word of 0 is taken as 1 (log 30). -/
def genOf (x : Word) : Word := if x = 0 then 1 else x

/-- The registers of a restored set lie in the spill region, and each returns on its next use (09 R200); a word that the area gives an
unbound register binds it. -/
def Names.restored (n : Names) (held : List Nat) : Names :=
  { bound := [], ahead := [], spilled := addAll n.spilled (Tab.keys n.bound ++ Tab.keys n.ahead ++ held) }

/-- A thread of a restored set meets the instruction that it stalled at again (22 R458). -/
def Thread.resumed (now : Nat) (th : Thread) : Thread :=
  { th with since := now, aged := false, hold := match th.hold with
    | .join => .join
    | .yield => .yield
    | _ => .ready }

/-- Registers and port contents of a set as the area holds them; `off` is the set's place in the bytes. -/
def SetState.loadContext (S : SetState) (bs : List Byte) (off vregs : Nat) : SetState :=
  let o := off + vregs * 128
  let lanes (at' : Nat) (ths : List Thread) : List Thread := ths.mapIdx (fun i th => { th with
    p := BitVec.ofNat 32 (numAt bs (at' + 4 * i) 4) ||| 1
    gen := genOf (BitVec.ofNat 32 (numAt bs (at' + 128 + 4 * i) 4))
    clk := BitVec.ofNat 64 (numAt bs (at' + 256 + 8 * i) 8) })
  let regs (ths : List Thread) : List Thread :=
    (lanes o (loadRows vregs ths (wordsOf (32 * vregs) (bs.drop off)))).mapIdx (fun i th =>
      th.loadWindows ((List.range 5).map (fun k => BitVec.ofNat 32 (numAt bs (o + 3136 + 30 * i + 6 * k + 2) 4))))
  let entry (j n : Nat) (e : Entry) : Entry := { e with
    words := (List.range 32).map (fun i => BitVec.ofNat 32 (numAt bs (o + 1024 + (2 * j + n) * 128 + 4 * i) 4)) }
  let S := { S with ports := S.ports.mapIdx (fun j (es : List Entry) => es.mapIdx (fun n e => entry j n e)) }
  match S.handler with
  | some h =>
    let main := regs h.threads
    let mine := lanes (o + 512) (loadRows 32 S.threads (wordsOf 1024 (bs.drop (o + 4096))))
    { S with
      threads := mine, names := S.names.restored (heldRegs 32 mine)
      handler := some { h with threads := main, names := h.names.restored (heldRegs vregs main) } }
  | none =>
    let main := regs S.threads
    { S with threads := main, names := S.names.restored (heldRegs vregs main) }

/-- Register, tile, scratchpad and port contents of a troupe exactly as the area holds them (22 R462); `bs` are its bytes. -/
def Troupe.loadContext (T : Troupe) (d : Desc) (bs : List Byte) : Troupe :=
  let s := (List.range d.uregs).foldl (fun (m : Tab DWord) k =>
    let x := BitVec.ofNat 64 (numAt bs (d.uregsBase + 8 * k) 8)
    if m.getD k 0 = x then m else m.set k x) T.s
  let tiles := (List.range d.tiles).foldl (fun (m : Tab Tile) n =>
    let t := T.tile n
    let x := Tile.of t.int (fun r c => BitVec.ofNat 32 (numAt bs (d.tilesBase + 4096 * n + 128 * r + 4 * c) 4))
    if (List.range 1024).all (fun i => t.el.getD i 0 == x.el.getD i 0) then m else m.set n x) T.tiles
  let T := { T with
    s := s, tiles := tiles
    setTab := T.setTab.map (fun (e : Nat × SetState) => (e.1, e.2.loadContext bs (d.setBase e.1) d.vregs)) }
  (List.range ((d.spad + 127) / 128)).foldl (fun (T : Troupe) i =>
    let x := numAt bs (d.spadBase + d.spad + i / 4) 1 / 4 ^ (i % 4)
    T.setLine i (bitAt x 0, bitAt x 1)) (T.putBytes 0 ((bs.drop d.spadBase).take d.spad))

/-- The header of a company: its tag, and what the capability names (22 R462). -/
def State.headerOf (s : State) (l : Nat) (L : Launch) (c : SavedCompany) : List Byte :=
  leBytes 4 (s.tagOf L.world l c.company) ++ leBytes 4 L.world ++ leBytes 4 L.qid ++ leBytes 4 L.seq ++ leBytes 4 c.company ++
    leBytes 4 c.pages

/-- The first 4096 bytes of a troupe of a company (22 R461): the device sections, with the company's header before those of troupe 0. No
rule gives the bytes of the sections (log 30). -/
def State.sectionsOf (s : State) (l : Nat) (L : Launch) (c : SavedCompany) (i : Nat) : List Byte :=
  let h := if i = 0 then s.headerOf l L c else []
  h ++ (List.range (4096 - h.length)).map (fun k => Config.sectionByte c.stamp (i * 4096 + k))

/-- Do the bytes of a company carry its header and its device sections, and so their tags (22 R462)? -/
def State.carriesTags (s : State) (l : Nat) (L : Launch) (c : SavedCompany) (bs : List Byte) : Bool :=
  (List.range L.desc.troupes).all (fun i => (bs.drop (i * L.desc.contextBytes)).take 4096 == s.sectionsOf l L c i)

/-- Where the bytes of a troupe of a company stand in its capability. -/
def Capability.troupeAt (c : Capability) (d : Desc) (i : Nat) : Nat := c.base + i * d.contextBytes

/-- Write bytes of a context through its capability, granule by granule, or nothing more after a failure. -/
def State.areaWrite (s : State) (c : Capability) : List Byte → List (Nat × Nat) → State × Bool
  | _, [] => (s, true)
  | bs, (a, n) :: rest =>
    match s.driverByte c.world 0 a c.write with
    | .error _ => (s, false)
    | .ok x =>
      if !c.holds a n then (s, false)
      else
        match s.choreoWrite c.world x (bs.take n) with
        | (s, some _) => (s, false)
        | (s, none) => s.areaWrite c (bs.drop n) rest

/-- Read the first bytes of a context. -/
def State.areaRead (s : State) (c : Capability) (n : Nat) : State × Option (List Byte) :=
  match s.choreoRead (.driver c.write) c.world c.base n with
  | (s, .ok bs) => (s, some bs)
  | (s, .error _) => (s, none)

/-! ### Saving (22 R458-R460) -/

/-- Has a held operation's trap been sent (08 R194)? -/
def Op.parks (o : Op) : Bool := match o.phase with
  | .held .. => o.retired
  | _ => false

/-- Does an operation wait for one that stays on the scoreboard: for its transfer, its tile position or its completion word (08 R173, R188;
15 R349, R350)? -/
def Op.behind (x y : Op) : Bool :=
  match y.phase with
  | .placed => y.done.isEmpty && (x.blocks y || (!x.kind.isCopy && !y.kind.isCopy && x.phase == .placed && decide (x.pos < y.pos)))
  | .moved => match y.cword with
    | some (i, _) => x.holdsStore y.troupe y.pos (16 * i) (16 * i + 4) ||
      (x.standing && decide (x.pos < y.pos) && x.troupe == y.troupe && y.lines.any x.owes)
    | none => false
  | _ => false

/-- The operations of a core that a save takes: held ones, and what waits behind them with nothing moved (08 R196, 23 R467). -/
def Core.parked (C : Core) : List Nat :=
  (sortOn (fun (e : Nat × Op) => e.2.pos) (C.ops.filter (fun e => e.2.standing))).foldl (fun (acc : List Nat) e =>
    if e.2.parks || C.ops.any (fun x => acc.contains x.1 && x.2.behind e.2) then acc ++ [e.1] else acc) []

/-- Have a halted troupe's commits and engines completed, and its reduction commands (05 R118)? -/
def State.saveReady (s : State) (t : Nat) (T : Troupe) : Bool :=
  T.setTab.all (fun (e : Nat × SetState) => e.2.chunks.isEmpty && e.2.waiting.isNone) &&
    !s.requests.any (fun (r : Nat × Request) => match r.2.owner with
      | .set u _ _ _ => u == t
      | .cue u => u == t
      | _ => false) &&
    !s.slices.any (fun (e : Nat × Slice) => e.2.atomics.any (fun a => match a.asker with
      | .lane u _ _ => u == t
      | .cue u => u == t)) &&
    (s.coreAt T.place.coreNo).ops.all (fun (e : Nat × Op) => e.2.troupe != t || (s.coreAt T.place.coreNo).parked.contains e.1) &&
    !s.slices.any (fun (e : Nat × Slice) => e.2.nb.queue.any (fun c => c.launch == T.launch && c.troupe == t)) &&
    (match T.place.unit? with
      | some (k, u) => !((s.slice k).unit u).queue.any (fun r => r.troupe == t)
      | none => true)

/-- The partials of a core for a world's live ranges are sent (06 R134, 22 R458). -/
def State.flushPartials (s : State) (core w : Nat) : State :=
  (Tab.keys ((s.coreAt core).partials.filter (fun (p : Nat × Partial) => p.2.world == w))).foldl (fun (s : State) line => s.combine line) s

/-- Put a troupe into its company's context. -/
def SavedCompany.add (c : SavedCompany) (t : Nat) (T : Troupe) (ops : List (Nat × Nat × Op)) : SavedCompany :=
  { c with troupes := c.troupes.set t T, ops := c.ops ++ ops }

/-- The first bytes of troupes of a company are written; a failure ends the launch. -/
def State.writeSections (s : State) (l : Nat) (L : Launch) (c : SavedCompany) : List Nat → State
  | [] => s
  | i :: is =>
    let cap := s.contextCap L.world c.page c.pages
    let va := cap.troupeAt L.desc i
    match s.areaWrite cap (s.sectionsOf l L c i) (granulePieces 66 va 4096) with
    | (s, true) => s.writeSections l L c is
    | (s, false) => s.contextFault l va

/-- A company's header and device sections are written when its last troupe is saved, and the command counts it. -/
def State.sealContext (s : State) (l page : Nat) (c : SavedCompany) (L : Launch) : State :=
  if c.troupes.length != L.desc.troupes then s
  else ((s.uncharge l 1).onPreempt page (fun x => { x with saved := x.saved + 1 })).writeSections l L c (List.range L.desc.troupes)

/-- A halted troupe is saved and leaves its core. -/
def State.saveTroupe (s : State) (t : Nat) (T : Troupe) : State :=
  let l := T.launch
  match s.launches.get? l with
  | none => s
  | some L =>
    let core := T.place.coreNo
    let pages := L.desc.contextPages
    let begun := L.saved.find? (fun c => c.company == T.company)
    let page := match begun with
      | some c => c.page
      | none => L.room.getD T.company 0
    let cap := s.contextCap L.world page pages
    if !s.areaHeld cap then s.contextFault l cap.base
    else
      let ops := ((s.coreAt core).ops.filter (fun (e : Nat × Op) => e.2.troupe == t)).map (fun (e : Nat × Op) => (t, e.1, e.2))
      let c0 : SavedCompany := begun.getD
        { company := T.company, stamp := s.tick, troupes := [], ops := [], pages := pages, page := page
          held := (s.preemptCmd (T.cmd - 1)).op == 1, places := [] }
      let c := c0.add t T ops
      let s := s.flushPartials core L.world
      let s := s.onCore core (fun C => { C with ops := C.ops.filter (fun (e : Nat × Op) => e.2.troupe != t) })
      let s := if begun.isSome then s else
        s.onWorld L.world (fun W => { W with area := { W.area with used := W.area.used + pages } })
      let s := s.onLaunch l (fun L => { L with
        room := L.room.del T.company
        past := L.past.set t (T.place.tag, T.index, T.company)
        saved := if begun.isSome then L.saved.map (fun x => if x.company = T.company then c else x) else L.saved ++ [c] })
      let bs := T.contextBytes L.desc
      let va := cap.troupeAt L.desc T.index + 4096
      match ({ s with troupes := s.troupes.del t } : State).areaWrite cap bs (granulePieces (bs.length / 64 + 2) va bs.length) with
      | (s, true) => s.sealContext l (T.cmd - 1) c L
      | (s, false) => s.contextFault l va

/-- The place that a CORE number of a trap record names (22 Table 22-2). -/
def placeOfTag (c : Nat) : Place := if c < 0x8000 then .core c else .unit ((c - 0x8000) / 32) ((c - 0x8000) % 32)

/-- Commands whose troupes have all been saved, or have ended with their launches, are done. -/
def State.finishPreempts (s : State) : State :=
  (List.range 66).foldl (fun (s : State) page =>
    let c := s.preemptCmd page
    if c.busy && c.going && !s.troupes.any (fun (e : Nat × Troupe) => e.2.cmd == page + 1) then s.preemptDone page 0 else s) s

/-- CONTEXT_SAVE: the troupes of a core, or of a near-bank unit; the cores of a slice in ascending order (22 R460). -/
def execContextSave (c : Nat) (s : State) : Out :=
  let p := placeOfTag c
  let taken (e : Nat × Troupe) : Bool := e.2.cmd != 0 && !(s.launchOf e.2).ending
  let ts := s.troupes.filter (fun (e : Nat × Troupe) => e.2.place == p && taken e)
  let lower := s.troupes.any (fun (e : Nat × Troupe) => taken e && !p.isUnit && !e.2.place.isUnit &&
    e.2.place.slice == p.slice && decide (e.2.place.coreNo < p.coreNo))
  if lower || !ts.all (fun (e : Nat × Troupe) => s.saveReady e.1 e.2) then .next s.finishPreempts
  else .next (ts.foldl (fun (s : State) (e : Nat × Troupe) => s.saveTroupe e.1 e.2) s).finishPreempts

/-! ### Restoring (22 R460, R462) -/

/-- Held operations of a troupe in the order of their positions. -/
def SavedCompany.opsOf (c : SavedCompany) (t : Nat) : List (Nat × Op) :=
  sortOn (fun (e : Nat × Op) => e.2.pos) ((c.ops.filter (fun x => x.1 == t)).map (fun x => x.2))

/-- Held operations take free entries of the new core and the next positions of its order, and the traps that name them follow. -/
def State.restoreOps (s : State) (core t : Nat) : List (Nat × Op) → State
  | [] => s
  | (e, o) :: rest =>
    match (s.coreAt core).freeOp with
    | none => s.restoreOps core t rest
    | some e' =>
      let name (tr : Trap) : Trap := if tr.copy = some e then { tr with copy := some (1000 + e') } else tr
      let s := s.onCore core (fun C => { C with ops := C.ops.set e' { o with pos := C.pos + 1 }, pos := C.pos + 1 })
      (s.onCue t (fun C => { C with
        traps := C.traps.map name, handler := C.handler.map (fun h => { h with trap := name h.trap }) })).restoreOps core t rest

/-- A position of the old core's order that a set waits for, in the new one (08 R193): behind the operations of the troupe that stood up
to it. -/
def newPos (ops : List (Nat × Op)) (base p : Nat) : Nat := base + (ops.filter (fun e => decide (e.2.pos ≤ p))).length

/-- A set of a restored troupe: its threads meet their instructions again, and the positions that they wait for follow. -/
def SetState.resumed (S : SetState) (now : Nat) (ops : List (Nat × Op)) (base : Nat) : SetState :=
  { S with
    threads := S.threads.map (Thread.resumed now)
    answers := S.answers.map (fun (e : Nat × Nat) => if 64 ≤ e.1 && e.1 < 96 then (e.1, newPos ops base e.2) else e) }

/-- The new names of held operations take effect. -/
def Cue.renamed (C : Cue) : Cue :=
  let name (tr : Trap) : Trap := { tr with copy := tr.copy.map (fun e => if 1000 ≤ e then e - 1000 else e) }
  { C with traps := C.traps.map name, handler := C.handler.map (fun h => { h with trap := name h.trap }) }

/-- A troupe of a context stands at its place again, with its contents as the area holds them; `bs` are the bytes of its company. -/
def State.restoreTroupe (s : State) (c : SavedCompany) (bs : List Byte) (t : Nat) (T : Troupe) : State :=
  let p := c.places.getD T.index T.place
  let L := s.launchOf T
  let n := L.desc.contextBytes
  let T := T.loadContext L.desc ((bs.drop (T.index * n)).take n)
  let ops := c.opsOf t
  let base := (s.coreAt p.coreNo).pos
  let T := { T with
    place := p, halted := false, cmd := 0, seat := s.nextId, spill := T.spill.map (fun x => { x with home := p.slice })
    cue := { T.cue with stall := [] }
    setTab := T.setTab.map (fun (e : Nat × SetState) => (e.1, e.2.resumed s.cycle.toNat ops base)) }
  (({ s with troupes := s.troupes.set t T, nextId := s.nextId + 1 } : State).restoreOps p.coreNo t ops).onCue t Cue.renamed

/-- Is there room on each core for the held operations of a context? -/
def State.roomForOps (s : State) (c : SavedCompany) : Bool :=
  c.places.all (fun p => decide ((s.coreAt p.coreNo).ops.length + c.ops.length ≤ 64))

/-- The context of a company does not come back whole: cause 0x72, at the place of its troupe 0 (22 R444, R462). -/
def State.restoreFault (s : State) (l : Nat) (c : SavedCompany) (va : Nat) : State :=
  let tag := ((c.places.head?).map Place.tag).getD 0
  s.lateGone l 0
    { cause := 0x72, addr := va, time := s.now, company := c.company, core := tag, flags := if 0x8000 ≤ tag then 2 ^ 5 else 0 }

/-- CONTEXT_RESTORE: a company with places is restored, or its launch ends (22 R462). -/
def execContextRestore (l company : Nat) (s : State) : Out :=
  match s.launches.get? l with
  | none => .next s
  | some L =>
    match L.saved.find? (fun c => c.company == company && !c.places.isEmpty) with
    | none => .next s
    | some c =>
      let cap := s.contextCap L.world c.page c.pages
      if L.ending || !s.roomForOps c then .next s
      else if !s.areaHeld cap then .next (s.contextFault l cap.base)
      else
        match s.areaRead cap (L.desc.troupes * L.desc.contextBytes) with
        | (s, none) => .next (s.restoreFault l c cap.base)
        | (s, some bs) =>
          if !s.carriesTags l L c bs then .next (s.restoreFault l c cap.base)
          else
            let s := s.onWorld L.world (fun W => { W with area := { W.area with used := W.area.used - c.pages } })
            let s := s.onLaunch l (fun L => { L with saved := L.saved.filter (fun x => x.company != company) })
            .next (c.troupes.foldl (fun (s : State) (e : Nat × Troupe) => s.restoreTroupe c bs e.1 e.2) s)

end Sys2Proof.Machine
end

