-- ==== Sys2Proof/Machine/Quiesce.lean ====
section
/-! DEFINITION. What waits for the quiesce points of a world: frame forms (04 R90), versioned buffers (04 R79, R80, R91), slice commands (24 R476-R478) and the zeroing of frames (04 R74). -/

namespace Sys2Proof.Machine

/-! ### The form of a frame (04 R90) -/

/-- The form command of a slice takes effect. -/
def State.changeForm (s : State) (k : Nat) : State :=
  let c := (s.slice k).form
  let fr := (s.slice k).frame c.frame
  let finish (s : State) (r : Nat) : State := s.onSlice k (fun S => { S with form := { S.form with busy := false, result := r } })
  let mine := (fr.ownersel == 1 && (s.slice k).owner == c.world) || (fr.ownersel == 2 && c.world == 0)
  if fr.striped == c.form then finish s 0
  else if 0 < fr.pinned then finish s 2
  else if !mine then finish s 3
  else
    let s := (s.zeroFrame k c.frame).dropMapped (lineOfFrame k c.frame)
    finish (s.onFrame k c.frame (fun fr => { fr with striped := c.form })) 0

/-! ### Versioned buffers (04 R79, R80, R91) -/

/-- A version command ends with a result. -/
def State.vbufDone (s : State) (w r : Nat) : State :=
  s.onWorld w (fun W => { W with vcmd := { W.vcmd with busy := false, result := r } })

/-- Device pages of a buffer, when each is in DRAM of a slice that the world owns. -/
def State.vbufPages (w tcid base : Nat) : Nat → State → State × Option (List Nat)
  | 0, s => (s, some [])
  | n + 1, s =>
    match State.vbufPages w tcid base n s with
    | (s, some ps) =>
      let page := s.walk w tcid ((base + n) * 4096)
      (s.readTables w tcid ((base + n) * 4096), match page with
        | .ok p =>
          if isDram p.dpa && (s.slice (sliceAt p.dpa)).owner == w && (s.slice (sliceAt p.dpa)).state == 1 then some (ps ++ [p.dpa / 4096])
          else none
        | .error _ => none)
    | (s, none) => (s, none)

/-- Runs of consecutive device pages in one slice: first page and length. -/
def pageRuns (ps : List Nat) : List (Nat × Nat) :=
  ps.foldl (fun (rs : List (Nat × Nat)) p =>
    match rs.getLast? with
    | some (b, n) => if b + n = p && sliceAt (b * 4096) = sliceAt (p * 4096) then rs.dropLast ++ [(b, n + 1)] else rs ++ [(p, 1)]
    | none => [(p, 1)]) []

/-- Does a run meet a window of its slice, or another run? -/
def State.runClash (s : State) (rs : List (Nat × Nat)) : Bool :=
  rs.any (fun r => (s.slice (sliceAt (r.1 * 4096))).vwin.any (fun (e : Nat × Vwin) => decide (0 < e.2.len) &&
    overlaps r.1 (r.1 + r.2) e.2.base (e.2.base + e.2.len))) ||
    (List.range rs.length).any (fun i => (List.range i).any (fun j =>
      overlaps (rs.getD i (0, 0)).1 ((rs.getD i (0, 0)).1 + (rs.getD i (0, 0)).2) (rs.getD j (0, 0)).1
        ((rs.getD j (0, 0)).1 + (rs.getD j (0, 0)).2)))

/-- The lowest free window of a slice's 256 (DESIGN CHOICE, log 62). -/
def Slice.freeVwin (S : Slice) : Option Nat := (List.range 256).find? (fun i => ((S.vwin.get? i).map (·.len)).getD 0 == 0)

/-- Windows for every run, or none when a slice lacks them. -/
def State.writeWindows (s : State) (w buf : Nat) : List (Nat × Nat) → Option State
  | [] => some s
  | (b, n) :: rs =>
    let k := sliceAt (b * 4096)
    match (s.slice k).freeVwin with
    | none => none
    | some i =>
      let x : Vwin := { base := b, len := n, ver := 1, world := w, buf := buf }
      (s.onSlice k (fun S => { S with vwin := S.vwin.set i x })).writeWindows w buf rs

/-- Is a window one of a buffer? One that has been withdrawn has LEN 0. -/
def Vwin.of (x : Vwin) (w buf : Nat) : Bool := x.world == w && x.buf == buf && decide (0 < x.len)

/-- Change the windows of a buffer. -/
def State.onWindows (s : State) (w buf : Nat) (f : Vwin → Vwin) : State :=
  { s with slices := s.slices.map (fun (e : Nat × Slice) =>
      (e.1, { e.2 with vwin := e.2.vwin.map (fun (x : Nat × Vwin) => if x.2.of w buf then (x.1, f x.2) else x) })) }

/-- Declare: of several failures, the RESULT reported is the first of 6, 5, 2, 3, 4 (DESIGN CHOICE, log 62). -/
def State.declareVbuf (s : State) (w : Nat) : State :=
  let c := (s.world w).vcmd
  if c.len = 0 || decide (2 ^ 36 < c.base + c.len) then s.vbufDone w 6
  else if ((s.world w).vbufs.getD c.buf Vbuf0).valid then s.vbufDone w 5
  else
    match State.vbufPages w c.tcid c.base c.len s with
    | (s, none) => s.vbufDone w 2
    | (s, some ps) =>
      let rs := pageRuns ps
      let clash := (s.world w).vbufs.any (fun (e : Nat × Vbuf) => e.2.valid && e.2.tcid == c.tcid &&
        overlaps c.base (c.base + c.len) e.2.base (e.2.base + e.2.len))
      if clash || s.runClash rs then s.vbufDone w 3
      else
        match s.writeWindows w c.buf rs with
        | none => s.vbufDone w 4
        | some s' =>
          let b : Vbuf := { valid := true, base := c.base, tcid := c.tcid, len := c.len, ver := 1 }
          (s'.onWorld w (fun W => { W with vbufs := W.vbufs.set c.buf b })).vbufDone w 0

/-- Advance: after 0xFFFFFFFF the version is 1, and the wrap is logged (04 R80). Lines that homes hold stay there: they are read as they are,
and a dirty one takes the new version as it is written back (DESIGN CHOICE, log 62). -/
def State.advanceVbuf (s : State) (w : Nat) : State :=
  let c := (s.world w).vcmd
  let b := (s.world w).vbufs.getD c.buf Vbuf0
  if !b.valid then s.vbufDone w 5
  else
    let v := if b.ver = 2 ^ 32 - 1 then 1 else b.ver + 1
    let first := s.slices.findSome? (fun (e : Nat × Slice) =>
      (e.2.vwin.find? (fun (x : Nat × Vwin) => x.2.of w c.buf)).map (fun x => x.2.base * 4096))
    let s := match first with
      | some a => if b.ver = 2 ^ 32 - 1 then s.logErr a 11 0 0 else s
      | none => s
    let s := s.onWindows w c.buf (fun x => { x with ver := v })
    (s.onWorld w (fun W => { W with vbufs := W.vbufs.adjust c.buf (fun b => { b with ver := v }) })).vbufDone w 0

/-- Withdraw: every window of the buffer takes LEN 0. -/
def State.withdrawVbuf (s : State) (w : Nat) : State :=
  let c := (s.world w).vcmd
  if !((s.world w).vbufs.getD c.buf Vbuf0).valid then s.vbufDone w 5
  else
    ((s.onWindows w c.buf (fun x => { x with len := 0 })).onWorld w (fun W => { W with
      vbufs := W.vbufs.adjust c.buf (fun b => { b with valid := false }) })).vbufDone w 0

/-- The version command of a world takes effect. -/
def State.vbufCommand (s : State) (w : Nat) : State :=
  match (s.world w).vcmd.op with
  | 0 => s.declareVbuf w
  | 1 => s.advanceVbuf w
  | _ => s.withdrawVbuf w

/-! ### Slices changing hands (24 R477) -/

/-- The slice command ends with a result. -/
def State.sliceDone (s : State) (r : Nat) : State := { s with sliceCmd := { s.sliceCmd with busy := false, result := r } }

/-- OWNED of a world (24 Table 24-1): contained slices are its own still. -/
def State.ownedCount (s : State) (w : Nat) : Nat :=
  (s.slices.filter (fun (e : Nat × Slice) => e.2.owner == w && (e.2.state == 1 || e.2.state == 3))).length

/-- GEN counts a change of hands, and what an ownership change clears is cleared (04 R89, Table 4-6; 05 R121; 15 R362). -/
def State.changeHands (s : State) (k : Nat) : State :=
  let s := s.onSlice k (fun S => { S with
    gen := (S.gen + 1) % 2 ^ 16
    scrub := { S.scrub with
      corrected := 0, uncorrectable := 0, mismatches := 0, poisons := 0, retires := 0, left := 0
      ckpt := S.scrub.ckpt.map (fun (e : Nat × Nat × Nat × Bool × Nat) => (e.1, e.2.1, e.2.2.1, e.2.2.2.1, 0)) }
    nb := { win := [], queue := [], err := 0, done := 0, units := [] } })
  { s with cores := s.cores.map (fun (e : Nat × Core) =>
      if e.1 / 16 = k then (e.1, { e.2 with fullStall := 0, opsDone := 0, tileStall := 0, steps := 0, paced := false }) else e) }

/-- Frames of a slice lose their bytes and their owner, and so do the carved bytes (24 R477 steps 1 and 2). -/
def State.wipeSlice (s : State) (k ownersel : Nat) (all : Bool) : State :=
  let lo := k * 2 ^ 33
  let wiped (fr : Frame) : Frame := { fr with ownersel := ownersel, pinned := 0, pz := true, fresh := [] }
  { s with
    mem := s.mem.filter (fun c => !(decide (lo ≤ c.1) && decide (c.1 < lo + 2 ^ 33)) && !(isCarved c.1 && sliceAt c.1 == k))
    gran := s.gran.filter (fun (e : Nat × Gran) => decide (e.1 < lo / 64) || decide ((lo + 2 ^ 33) / 64 ≤ e.1)) }.onSlice k (fun S => { S with
      frames := if all then (List.range 4096).map (fun f => (f, wiped (S.frame f))) else S.frames.map (fun (e : Nat × Frame) => (e.1, wiped e.2)) })

/-- The release steps (24 R477). The homes that other frames had in the slice move to their own slices, and the outside lines of its
world follow (06 R123). -/
def State.releaseSlice (s : State) (k : Nat) : State :=
  let w := (s.slice k).owner
  let s := s.slices.foldl (fun (s : State) (e : Nat × Slice) =>
    (e.2.homes.filter (fun h => h.2 == k && e.1 != k)).foldl (fun (s : State) h => s.moveHome e.1 h.1 e.1) s) s
  let s := (s.wipeSlice k 0 false).dropMapped (lineOfSlice k)
  let s := s.onSlice k (fun S => { S with owner := 0, state := 2, steps := 0, vwin := [], homes := [], atomics := [], reds := [] })
  (s.changeHands k).rehome w

/-- Is a frame of a slice pinned? -/
def Slice.anyPinned (S : Slice) : Bool := S.frames.any (fun (e : Nat × Frame) => decide (0 < e.2.pinned))

/-- A slice command that names a tag of 65 to 127 ends with RESULT 2 (01 R16; log 50). -/
def State.tagRefused (s : State) : State := (s.badTag s.sliceCmd.world).sliceDone 2

/-- Bind. World 0 reads TSTATE 3, and a device in lock-down refuses every binding: RESULT 3 (22 R446, 24 R469; log 50). Of RESULTs 3 and 6
the first (log 67). -/
def State.bindWorld (s : State) : State :=
  let c := s.sliceCmd
  if 64 < c.world then s.tagRefused
  else if s.tstate c.world != 0 || s.lockedDown then s.sliceDone 3
  else if c.maxsl < c.minsl || decide (64 < c.maxsl) then s.sliceDone 6
  else
    (s.onWorld c.world (fun W => { W with
      trust := { W.trust with tstate := 1, minsl := c.minsl, maxsl := c.maxsl, keys := W.trust.keys + 1, keyed := true, locked := false, s2tab := none }
      budget := { W.budget with pctl := [] } })).sliceDone 0

/-- Unbind: of RESULTs 3 and 8 the first. -/
def State.unbindWorld (s : State) : State :=
  let c := s.sliceCmd
  if 64 < c.world then s.tagRefused
  else if s.tstate c.world != 1 then s.sliceDone 3
  else if s.ownedCount c.world != 0 then s.sliceDone 8
  else (s.onWorld c.world (fun W => { W with trust := { W.trust with tstate := 0, keyed := false, session := false, s2tab := none } })).sliceDone 0

/-- Assign. Of several failures the RESULT is the first of 2, 3, 6, 4 (DESIGN CHOICE, log 67). -/
def State.assignSlice (s : State) : State :=
  let c := s.sliceCmd
  let t := s.tstate c.world
  let S := s.slice c.slice
  if 64 < c.world then s.tagRefused
  else if t = 0 || decide (3 < t) then s.sliceDone 3
  else if c.world != 0 && decide ((s.world c.world).trust.maxsl ≤ s.ownedCount c.world) then s.sliceDone 6
  else if S.state = 1 || S.state = 3 then s.sliceDone 4
  else
    let s :=
      if c.world = 0 then s.onSlice c.slice (fun S => { S with
        frames := (List.range 4096).map (fun f => (f, { S.frame f with ownersel := 2 })) })
      else s.wipeSlice c.slice 1 true
    (((s.onSlice c.slice (fun S => { S with owner := c.world, state := 1 })).changeHands c.slice).rehome c.world).sliceDone 0

/-- Release. Of several failures the RESULT is the first of 2, 4, 6, 5 (DESIGN CHOICE, log 67). -/
def State.releaseCommand (s : State) : State :=
  let c := s.sliceCmd
  let S := s.slice c.slice
  if 64 < c.world then s.tagRefused
  else if S.state != 1 || S.owner != c.world then s.sliceDone 4
  else if c.world != 0 && s.lockedWorld c.world && decide (s.ownedCount c.world ≤ (s.world c.world).trust.minsl) then s.sliceDone 6
  else if S.anyPinned then s.sliceDone 5
  else (s.releaseSlice c.slice).sliceDone 0

/-- Clear containment. -/
def State.clearSlice (s : State) : State :=
  if (s.slice s.sliceCmd.slice).state != 3 then s.sliceDone 4 else (s.releaseSlice s.sliceCmd.slice).sliceDone 0

/-! ### Migration (24 R478) -/

/-- The trust core writes a table entry at its place. -/
def State.putEntry (s : State) (a x : Nat) : State :=
  let s : State := { s with mem := s.mem.writeBytes a (leBytes 8 x) }
  let s := if isDram a then s.bankWrite a else s
  s.expose 0 [a / 128]

/-- Stage-two leaves whose output lies in one slice name another from a table down. -/
def State.moveLeaves (src dest : Nat) : List Nat → Nat → State → State
  | [], _, s => s
  | lvl :: ls, table, s =>
    (List.range 512).foldl (fun (s : State) i =>
      let e := s.seenNat 0 (table + 8 * i) 8
      if !bitAt e 0 || entryBad true lvl e then s
      else if bitAt e 1 then
        let out := nfld e 12 40 * 4096
        if isDram out && sliceAt out == src then s.putEntry (table + 8 * i) (e + dest * 2 ^ 33 - src * 2 ^ 33) else s
      else State.moveLeaves src dest ls (nfld e 12 40 * 4096) s) s

/-- The image of a locked world's stage-two tables follows a migration (07 R151). -/
def State.moveImage (s : State) (w src dest : Nat) : State :=
  let leaf (e : Nat) : Nat :=
    let out := nfld e 12 40 * 4096
    if bitAt e 1 && isDram out && sliceAt out == src then e + dest * 2 ^ 33 - src * 2 ^ 33 else e
  s.onWorld w (fun W => { W with trust := { W.trust with s2tab := W.trust.s2tab.map (fun t => t.map (fun e => (e.1, leaf e.2))) } })

/-- Granules of a slice whose symbols are in error. -/
def State.wornIn (s : State) (k : Nat) : List Nat :=
  (s.gran.filter (fun e => decide (k * 2 ^ 27 ≤ e.1) && decide (e.1 < (k + 1) * 2 ^ 27) && e.2.syms != 0)).map (·.1)

/-- Granules of a slice that fail when they are read: those with a finding, and those that a version window covers. -/
def State.failing (s : State) (w k : Nat) : List (Nat × Nat) :=
  let lo := k * 2 ^ 27
  let seen := (Tab.keys s.gran).filter (fun g => decide (lo ≤ g) && decide (g < lo + 2 ^ 27))
  let win := (s.slice k).vwin.flatMap (fun (e : Nat × Vwin) => (List.range (e.2.len * 64)).map (fun i => e.2.base * 64 + i))
  (addAll seen win).filterMap (fun g => (s.granFault w (g * 64)).map (fun c => (g, c)))

/-- Bytes, sidebands, frames, windows and homes of a slice stand at the same positions of another. A frame that zeroing has
not finished keeps its pending granules (log 31). -/
def State.copySlice (s : State) (w src dest : Nat) : State :=
  let bad := s.failing w src
  let s := (addAll (bad.map (·.1)) (s.wornIn src)).foldl (fun (s : State) g => s.bankRead w (g * 64) 0) s
  let from' := src * 2 ^ 33
  let to' := dest * 2 ^ 33
  let inSrc (a : Nat) : Bool := decide (from' ≤ a) && decide (a < from' + 2 ^ 33)
  let bytes := (s.mem.filter (fun c => inSrc c.1)).map (fun c => (c.1 - from' + to', c.2))
  let mem := Memory.writeTab (s.mem.filter (fun c => !(decide (to' ≤ c.1) && decide (c.1 < to' + 2 ^ 33)))) bytes
  let grans := (s.gran.filter (fun e => inSrc (e.1 * 64))).map (fun e => (e.1 - from' / 64 + to' / 64, e.2))
  let gran0 := s.gran.filter (fun e => !(decide (to' ≤ e.1 * 64) && decide (e.1 * 64 < to' + 2 ^ 33)))
  let gran := grans.foldl (fun (m : Tab Gran) e => Tab.set m e.1 e.2) gran0
  let S := s.slice src
  let s := ({ s with mem := mem, gran := gran } : State).onSlice dest (fun D => { D with
    frames := (List.range 4096).map (fun f =>
      let x := S.frame f
      (f, { D.frame f with striped := x.striped, pz := x.pz, fresh := x.fresh, pinned := 0 }))
    vwin := S.vwin.map (fun e => (e.1, { e.2 with base := e.2.base + dest * 2 ^ 21 - src * 2 ^ 21 }))
    homes := S.homes.filter (fun h => h.2 != src && h.2 != dest) })
  bad.foldl (fun (s : State) (g : Nat × Nat) => s.poison ((g.1 + dest * 2 ^ 27 - src * 2 ^ 27) * 64)) s

/-- Code pages of launches follow a migration (log 12). -/
def State.moveCode (s : State) (w src dest : Nat) : State :=
  let page (e : Nat × Nat) : Nat × Nat :=
    (e.1, if isDram (e.2 * 4096) && sliceAt (e.2 * 4096) == src then e.2 + dest * 2 ^ 21 - src * 2 ^ 21 else e.2)
  { s with launches := s.launches.map (fun (e : Nat × Launch) =>
      if e.2.world = w then (e.1, { e.2 with code := e.2.code.map page, hcode := e.2.hcode.map page }) else e) }

/-- Migrate: every value that the world reads afterwards is the one at the source, dirty lines included. Of several failures the RESULT is
the first of 2, 4, 7, 5 (DESIGN CHOICE, log 67). -/
def State.migrateSlice (s : State) : State :=
  let c := s.sliceCmd
  let S := s.slice c.slice
  let D := s.slice c.dest
  if 64 < c.world then s.tagRefused
  else if S.state != 1 || D.state != 1 || S.owner != c.world || D.owner != c.world || c.slice = c.dest then s.sliceDone 4
  else if D.frames.any (fun (e : Nat × Frame) => !e.2.pz) || D.anyPinned then s.sliceDone 7
  else if S.anyPinned then s.sliceDone 5
  else
    let s := (s.settleLines (lineOfSlice c.slice)).dropMapped (fun l => lineOfSlice c.slice l || lineOfSlice c.dest l)
    let s := (s.copySlice c.world c.slice c.dest).moveCode c.world c.slice c.dest
    let s := if (s.world c.world).trust.s2valid then
        (State.moveLeaves c.slice c.dest [0, 1, 2, 3] ((s.world c.world).trust.s2root * 4096) s).moveImage c.world c.slice c.dest
      else s
    let s := s.onWorld c.world (fun W => { W with trust := { W.trust with s2gen := satN 32 (W.trust.s2gen + 1) } })
    let s := s.dropTlb c.world (fun _ => true)
    (s.releaseSlice c.slice).sliceDone 0

/-- The slice command takes effect. -/
def State.sliceCommand (s : State) : State :=
  match s.sliceCmd.op with
  | 0 => s.bindWorld
  | 1 => s.unbindWorld
  | 2 => s.assignSlice
  | 3 => s.releaseCommand
  | 4 => s.migrateSlice
  | _ => s.clearSlice

/-! ### STOP and function-level reset (24 R471, 25 R491) -/

/-- What a STOP or reset does at its quiesce point, once the launches have completed: slices, keys, and everything that the
world holds. The management world keeps its keys and its state. -/
def State.finishStop (s : State) (w : Nat) : State :=
  let mine := Tab.keys (s.slices.filter (fun (e : Nat × Slice) => e.2.owner == w && (e.2.state == 1 || e.2.state == 3)))
  let s := (Tab.keys (s.world w).leases).foldl (fun (s : State) i => s.freeLease w i) s
  let s := mine.foldl (fun (s : State) k => s.releaseSlice k) s
  let s := (s.dropL1 (fun _ l => l.world == w)).dropTlb w (fun _ => true)
  let s := (List.range 64).foldl (fun (s : State) b => s.onWindows w b (fun x => { x with len := 0 })) s
  let s : State := { s with
    slots := s.slots.filter (fun (e : Nat × Slot) => e.2.world != w)
    s2fNext := s.s2fNext.filter (fun f => f.world != w)
    s2f := if s.s2f.world = w then Flt0 else s.s2f }
  let s := s.nextTwo
  s.onWorld w (fun W => { W with
    leases := [], layouts := [], rngs := [], wobs := [], fltNext := []
    vbufs := W.vbufs.map (fun e => (e.1, { e.2 with valid := false }))
    flt := { W.flt with pend := false }
    lreq := if W.lreq.busy then { W.lreq with busy := false, result := 3 } else W.lreq
    budget := { W.budget with pctl := [] }
    trust := if w = 0 then { W.trust with stopping := false }
      else { W.trust with stopping := false, keys := W.trust.keys + 1, keyed := true, tstate := 1, locked := false, s2tab := none } })

/-- Everything that waits for a quiesce point of a world: moves and carves, then commands. -/
def State.quiesce (s : State) (w : Nat) : State :=
  let s := s.performMoves w
  let forms := Tab.keys (s.slices.filter (fun (e : Nat × Slice) => e.2.form.busy && e.2.form.world == w))
  let s := forms.foldl (fun (s : State) k => s.changeForm k) s
  let s := if (s.world w).vcmd.busy then s.vbufCommand w else s
  let s := if s.commandWorld = some w then s.sliceCommand else s
  if (s.world w).trust.stopping && !s.launches.any (fun (e : Nat × Launch) => e.2.world == w) then s.finishStop w else s

/-- QUIESCE_POINT (24 R476). -/
def execQuiescePoint (w : Nat) (s : State) : Out := .next (if s.worldQuiet w then s.quiesce w else s)

/-- FORM_CHANGE (04 R90). -/
def execFormChange (k : Nat) (s : State) : Out :=
  let c := (s.slice k).form
  .next (if c.busy && s.worldQuiet c.world then (s.performMoves c.world).changeForm k else s)

/-- Is a version command of an operation due? -/
def State.vbufDue (s : State) (w op : Nat) : Bool :=
  (s.world w).vcmd.busy && (s.world w).vcmd.op == op && s.worldQuiet w

/-- VBUF_DECLARE (04 R91). -/
def execVbufDeclare (w : Nat) (s : State) : Out := .next (if s.vbufDue w 0 then (s.performMoves w).declareVbuf w else s)

/-- VBUF_ADVANCE (04 R80, R91). -/
def execVbufAdvance (w : Nat) (s : State) : Out := .next (if s.vbufDue w 1 then (s.performMoves w).advanceVbuf w else s)

/-- VBUF_WITHDRAW (04 R91). -/
def execVbufWithdraw (w : Nat) (s : State) : Out := .next (if s.vbufDue w 2 then (s.performMoves w).withdrawVbuf w else s)

/-- Is the slice command an operation, with its world at a quiesce point? -/
def State.sliceDue (s : State) (op : Nat) : Option Nat :=
  match s.commandWorld with
  | some w => if s.sliceCmd.op = op && s.worldQuiet w then some w else none
  | none => none

/-- SLICE_BIND (24 Table 24-5). -/
def execSliceBind (s : State) : Out :=
  .next (match s.sliceDue 0 with | some w => (s.performMoves w).bindWorld | none => s)

/-- SLICE_UNBIND (24 Table 24-5). -/
def execSliceUnbind (s : State) : Out :=
  .next (match s.sliceDue 1 with | some w => (s.performMoves w).unbindWorld | none => s)

/-- SLICE_ASSIGN (24 Table 24-5). -/
def execSliceAssign (s : State) : Out :=
  .next (match s.sliceDue 2 with | some w => (s.performMoves w).assignSlice | none => s)

/-- SLICE_RELEASE (24 Table 24-5). -/
def execSliceRelease (s : State) : Out :=
  .next (match s.sliceDue 3 with | some w => (s.performMoves w).releaseCommand | none => s)

/-- SLICE_MIGRATE (24 R478). -/
def execSliceMigrate (s : State) : Out :=
  .next (match s.sliceDue 4 with | some w => (s.performMoves w).migrateSlice | none => s)

/-- CLEAR_CONTAINMENT (24 Table 24-5). -/
def execClearContainment (s : State) : Out :=
  .next (match s.sliceDue 5 with | some w => (s.performMoves w).clearSlice | none => s)

/-! ### Zeroing (04 R74) -/

/-- ZEROING_WRITE: a pending granule becomes an encrypted zero; an unassigned slice with every frame zeroed is free
(24 R477). -/
def execZeroingWrite (g : Nat) (s : State) : Out :=
  let a := g * 64
  let k := sliceAt a
  if !isDram a || (s.slice k).state == 3 || !s.pendingZero a then .next s
  else
    let s := s.bankWrite a 4
    let S := s.slice k
    .next (if S.state = 2 && S.frames.length = 4096 && S.frames.all (fun (e : Nat × Frame) => !e.2.pz) then
      s.onSlice k (fun S => { S with state := 0 }) else s)

end Sys2Proof.Machine
end

