-- ==== Sys2Proof/Machine/Interfaces.lean ====
section
/-! DEFINITION. Interfaces of worlds, measurement and firmware (24 R469-R474, R479), resets (24 R471; 25 R490, R491), peer groups
(25 R485, R486), power states (25 R487-R489) and the basic controls (25 R492). -/

namespace Sys2Proof.Machine

/-! ### TDISP (24 R470, R471) -/

/-- Answer a request of the security manager or of an SPDM requester. -/
def State.answer (s : State) (w : Nat) (q : Asked) (error : Option Refused) (digest : Nat) : State :=
  let a : Answer := { world := w, asked := q, error := error, digest := digest }
  { s with answers := s.answers ++ [a] }

/-- The ErrorCode of a refusal that the manual gives (24 R474): Busy is 0x03. -/
def Refused.code : Refused → Option Nat
  | .busy => some 3
  | _ => none

/-- Change the trust core's view of a world. -/
def State.onTrust (s : State) (w : Nat) (f : Trust → Trust) : State := s.onWorld w (fun W => { W with trust := f W.trust })

/-- Is a number a tenant world's tag (01 R16)? -/
def isTenant (w : Nat) : Bool := decide (1 ≤ w) && decide (w ≤ 64)

/-- May the interface of a world be locked? -/
def State.mayLock (s : State) (w : Nat) : Bool :=
  let t := (s.world w).trust
  isTenant w && t.tstate == 1 && !t.stopping && decide (t.minsl ≤ s.ownedCount w) && decide (s.ownedCount w ≤ t.maxsl) && t.s2valid

/-- LOCK_INTERFACE_REQUEST: the first accepted one freezes world 0's entries too (24 R469), and the stage-two tables of what it locks are in
force as they stand (07 R151). A device in lock-down answers no message (22 R446). -/
def execLockInterfaceRequest (w : Nat) (s : State) : Out :=
  if s.lockedDown then .next s
  else if s.mayLock w then
    let s := (if s.frozen then s else s.fixTables 0).fixTables w
    .next ((({ s with frozen := true } : State).onTrust w (fun t => { t with tstate := 2, locked := true, s2gen := 0 })).answer
      w .lock none 0)
  else .next (s.answer w .lock (some .interfaceState) 0)

/-- START_INTERFACE_REQUEST. That the world's streams are keyed before it (24 R475) is the security manager's duty, and no ground of refusal
(log 67). -/
def execStartInterfaceRequest (w : Nat) (s : State) : Out :=
  if s.lockedDown then .next s
  else if isTenant w && s.tstate w == 2 && !(s.world w).trust.stopping then
    .next ((s.onTrust w (fun t => { t with tstate := 3 })).answer w .start none 0)
  else .next (s.answer w .start (some .interfaceState) 0)

/-- Every launch of a world ends, and the rest waits for its quiesce point (24 R471, R476). -/
def State.beginStop (s : State) (w : Nat) : State := (s.endWorld w 0).onTrust w (fun t => { t with stopping := true })

/-- STOP_INTERFACE_REQUEST. -/
def execStopInterfaceRequest (w : Nat) (s : State) : Out :=
  if s.lockedDown then .next s
  else if isTenant w && decide (2 ≤ s.tstate w) then .next ((s.beginStop w).answer w .stop none 0)
  else .next (s.answer w .stop (some .interfaceState) 0)

/-- FUNCTION_LEVEL_RESET of a virtual function that is bound. -/
def execFunctionLevelReset (w : Nat) (s : State) : Out :=
  .next (if isTenant w && s.tstate w != 0 then s.beginStop w else s)

/-- PF_FUNCTION_LEVEL_RESET (25 R491). -/
def execPfFunctionLevelReset (s : State) : Out := .next (s.beginStop 0)

/-- INTERFACE_ERROR: an event that TDISP defines as an error, of a locked or running interface. -/
def execInterfaceError (w : Nat) (s : State) : Out :=
  .next (if isTenant w && (s.tstate w == 2 || s.tstate w == 3) then s.errorWorld w 0 else s)

/-! ### SPDM (24 R472-R474) -/

/-- A world's stage-two tables, as its walks read them, as one number. -/
def State.tablesNumber (s : State) (w : Nat) : Nat :=
  match ((if (s.world w).trust.s2tab.isSome then s else s.fixTables w).world w).trust.s2tab with
  | some t => t.foldl (fun n e => (n * 2 ^ 64 + e.1) * 2 ^ 64 + e.2) 1
  | none => 0

/-- What a measurement index measures (24 Table 24-3), as a number that changes when its content does. -/
def State.measured (s : State) (w index : Nat) : Nat :=
  let t := (s.world w).trust
  match index with
  | 2 => s.image * 2 ^ 16 + t.fwgen
  | 4 => t.minsl * 128 + t.maxsl
  | 5 => s.tablesNumber w * 2 ^ 32 + t.s2gen
  | 6 => t.act
  | _ => 0

/-- May a world ask for an index: management for 1 to 3, a tenant in its session for its own 4 to 6? -/
def State.mayMeasure (s : State) (w index : Nat) : Bool :=
  if w = 0 then decide (1 ≤ index) && decide (index ≤ 3)
  else isTenant w && (s.world w).trust.session && decide (4 ≤ index) && decide (index ≤ 6)

/-- GET_MEASUREMENTS: Busy during an activation window. -/
def execGetMeasurements (w index : Nat) (s : State) : Out :=
  if s.lockedDown then .next s
  else if s.activation.isSome then .next (s.answer w (.measure index) (some .busy) 0)
  else if !s.mayMeasure w index then .next (s.answer w (.measure index) (some .other) 0)
  else .next (s.answer w (.measure index) none (Config.measurement w index (s.measured w index)))

/-- KEY_EXCHANGE: a secured session opens. -/
def execKeyExchange (w : Nat) (s : State) : Out :=
  if s.lockedDown then .next s
  else if s.activation.isSome then .next (s.answer w .exchange (some .busy) 0)
  else if 64 < w then .next (s.answer w .exchange (some .other) 0)
  else .next ((s.onTrust w (fun t => { t with session := true })).answer w .exchange none 0)

/-- FIRMWARE_ACTIVATION: the window opens; dequeue pauses until its end. -/
def execFirmwareActivation (image : Nat) (s : State) : Out :=
  .next (if s.activation.isSome then s else { s with activation := some image })

/-! ### Cold reset and containment (04 R83; 24 R479; 25 R490) -/

/-- What survives every reset of a slice: its retired rows, with the spare rows they took. -/
def Slice.afterReset (S : Slice) : Slice :=
  { Slice0 with scrub := { Slice0.scrub with
      spares := S.scrub.spares, exhausted := S.scrub.exhausted, retired := S.scrub.retired
      left := 8192 - S.scrub.sparesUsed } }

/-- COLD_RESET: the machine stands before bring-up again. Memory outside the device is not reset. -/
def execColdReset (s : State) : Out :=
  let kept := s.slices.filter (fun (e : Nat × Slice) => !e.2.scrub.retired.isEmpty)
  .next { State.reset with
    tick := s.tick
    mem := s.mem.filter (fun c => isOutside c.1)
    slices := kept.map (fun (e : Nat × Slice) => (e.1, e.2.afterReset))
    interrupts := s.interrupts
    answers := s.answers }

/-- CONTAINMENT. A slice keeps its owner; one that is free or that is being zeroed stands contained under OWNER 0 (24 R479; DESIGN CHOICE,
log 63). -/
def execContainment (k : Nat) (s : State) : Out :=
  .next (if k < 64 then s.onSlice k (fun S => { S with state := 3 }) else s)

/-! ### Peer groups (25 R485, R486) -/

/-- GROUP_FORM: FORM starts a new formation. -/
def execGroupForm (g : Nat) (s : State) : Out :=
  .next (if g < 8 && s.takesWrite 0 then s.onGroup g (fun G => { G with
    state := 1, excl := 0, epoch := (G.epoch + 1) % 2 ^ 32, digests := [], absent := [] }) else s)

/-- Members of a group. -/
def Group.memberList (G : Group) : List Nat := (List.range 16).filter (fun m => bitAt G.members m)

/-- The port that a member is reached over (log 7). -/
def Group.portOf (G : Group) (m : Nat) : Nat := 2 + Config.poolPort (G.base + m) % 4

/-- GROUP_FORMED: every member has answered over its port. -/
def execGroupFormed (g : Nat) (s : State) : Out :=
  let G := s.group g
  .next (if G.state = 1 && G.memberList.all (fun m => (s.port (G.portOf m)).up) then
    s.onGroup g (fun G => { G with
      state := 2, digests := G.memberList.map (fun m => (m, Config.peerDigest m s.tick)) })
  else s)

/-- A member is excluded: the group is broken, EXCL names the lowest member that is, and management is told. -/
def State.exclude (s : State) (g m : Nat) : State :=
  (s.onGroup g (fun G => { G with
    state := 3, excl := if G.state = 3 then min G.excl m else m, absent := G.absent.filter (· != m) })).interrupt 0 65

/-- MEMBER_RETURN: an absent member is measured again. -/
def execMemberReturn (g m digest : Nat) (s : State) : Out :=
  let G := s.group g
  if !(G.state == 2 || G.state == 3) || !G.absent.contains m || !(s.port (G.portOf m)).up then .next s
  else if G.digests.get? m = some digest then .next (s.onGroup g (fun G => { G with absent := G.absent.filter (· != m) }))
  else .next (s.exclude g m)

/-- MEMBER_ABSENCE_TIMEOUT: a member absent for more than 100 ms. -/
def execMemberAbsenceTimeout (g m : Nat) (s : State) : Out :=
  let G := s.group g
  .next (if (G.state = 2 || G.state = 3) && G.absent.contains m then s.exclude g m else s)

/-! ### Power (25 R487-R489) -/

/-- PWR_LEVEL_CHANGE. -/
def execPwrLevelChange (k level : Nat) (s : State) : Out :=
  .next (if k < 64 && level < 8 && s.takesWrite 0 then s.onSlice k (fun S => { S with level := level }) else s)

/-- IDLE_REQUEST: a write of IDLE; 3 is ignored. -/
def execIdleRequest (k idle : Nat) (s : State) : Out :=
  .next (if k < 64 && idle < 3 && s.takesWrite 0 then s.onSlice k (fun S => { S with idle := idle }) else s)

/-- Lines homed at a slice: world and line. -/
def State.homedAt (s : State) (k : Nat) : List (Nat × Nat) :=
  ((addAll (Tab.keys s.lines) (Tab.keys s.copies)).map keyLine).filter (fun x => s.home x.1 x.2 == k)

/-- Does nothing that an idle state waits for remain on a slice? -/
def State.sliceIdle (s : State) (k : Nat) : Bool :=
  !s.troupes.any (fun (e : Nat × Troupe) => e.2.place.slice == k) &&
    !s.restoring.any (fun c => c.2.2.places.any (fun p => p.slice == k)) &&
    !s.cores.any (fun (e : Nat × Core) => e.1 / 16 == k && (!e.2.ops.isEmpty || !e.2.misses.isEmpty)) &&
    (s.slice k).nb.queue.isEmpty && (s.slice k).reds.isEmpty && (s.slice k).atomics.isEmpty

/-- The homes of a slice are powered down: dirty lines go back to their targets first, and its L1s are empty. -/
def State.powerDown (s : State) (k : Nat) : State :=
  let s := (s.homedAt k).foldl (fun (s : State) x => s.evictLine x.1 x.2) s
  s.dropL1 (fun c _ => c / 16 == k)

/-- IDLE_ENTER: the state asked for comes into force once nothing remains; I2 waits for lines that drain, and for the link
of a dirty one. -/
def execIdleEnter (k : Nat) (s : State) : Out :=
  let S := s.slice k
  if S.idle = 0 || S.cur = S.idle || !s.sliceIdle k then .next s
  else if S.idle = 2 then
    if (s.homedAt k).any (fun x => s.lineBusy x.1 x.2 || (isOutside (x.2 * 128) && s.linkDown x.1 (x.2 * 128) &&
        ((s.copies.get? (lineKey x.1 x.2)).map (fun c => c.dirty != 0)).getD false)) then .next s
    else .next ((s.powerDown k).onSlice k (fun S => { S with cur := 2 }))
  else .next (s.onSlice k (fun S => { S with cur := S.idle }))

/-- IDLE_EXIT_DONE: an exit that IDLE = 0 began is complete. -/
def execIdleExitDone (k : Nat) (s : State) : Out :=
  .next (if (s.slice k).idle = 0 && (s.slice k).cur != 0 then s.onSlice k (fun S => { S with cur := 0 }) else s)

/-- THERMAL_TRIP: the sensor of a slice reads a temperature: above 105 degrees the slice trips, and above 115 the device locks down (22
R446 action 4). -/
def execThermalTrip (k temp : Nat) (s : State) : Out :=
  if k < 64 then
    let s := s.onSlice k (fun S => { S with trip := S.trip || decide (105 < temp), temp := satN 8 temp })
    .next (if 115 < temp then s.lockDown 0 else s)
  else .next s

/-- THERMAL_RECOVER: the sensor has read a temperature for 1 ms; below 100 degrees the trip is over. -/
def execThermalRecover (k temp : Nat) (s : State) : Out :=
  .next (if k < 64 && temp ≤ 105 then s.onSlice k (fun S => { S with trip := S.trip && decide (100 ≤ temp), temp := temp }) else s)

/-- THERMAL_LOCKDOWN: above 115 degrees (22 R446 action 4). -/
def execThermalLockdown (k temp : Nat) (s : State) : Out :=
  if 115 < temp then execThermalTrip k temp s else .next s

/-! ### Basic controls (25 R492) -/

/-- Change every listed slice. -/
def State.mapSlices (s : State) (f : Slice → Slice) : State :=
  { s with slices := s.slices.map (fun (e : Nat × Slice) => (e.1, f e.2)) }

/-- MSC_BASIC: RETAINW, POOLC and every REQ. -/
def execMscBasic (s : State) : Out :=
  if !s.takesWrite 0 then .next s
  else .next (({ s with ctl := { s.ctl with retainw := 4, poolc := true } } : State).mapSlices (fun S => { S with req := 0 }))

/-- SCHED_BASIC. -/
def execSchedBasic (s : State) : Out :=
  .next (if s.takesWrite 0 then { s with ctl := { s.ctl with quant := 1024, promo := 10 } } else s)

/-- PWR_BASIC: PKGCAP and every LEVEL and IDLE. PWR_CTL takes writes before READY too (25 R490). -/
def execPwrBasic (s : State) : Out :=
  if s.lockedDown then .next s
  else .next (({ s with ctl := { s.ctl with pkgcap := 2960 } } : State).mapSlices (fun S => { S with level := 0, idle := 0 }))

end Sys2Proof.Machine
end

