-- ==== Sys2Proof/Machine/Scrub.lean ====
section
/-! DEFINITION. Checks of granules, hot rows, retirement, patrol and activation windows (04 R77, R78, R82-R88). -/

namespace Sys2Proof.Machine

/-- The copy of a row to its spare is corrected: granules with one or two symbols in error are free of them in the new row (04 R83). -/
def State.correctRow (s : State) (k r : Nat) : State :=
  (s.rowGranules k r).foldl (fun (s : State) a =>
    let g := s.gran.getD (a / 64) Gran0
    if g.syms = 0 || 2 < g.syms then s
    else { s with gran := if { g with syms := 0 } = Gran0 then s.gran.del (a / 64) else s.gran.set (a / 64) { g with syms := 0 } }) s

/-- ROW_RETIREMENT_DONE: the row is copied and remapped, and leaves the hot list. -/
def execRowRetirementDone (k r : Nat) (s : State) : Out :=
  if (s.slice k).scrub.copying != some r then .next s
  else
    let s := (s.correctRow k r).onScrub k (fun x => { x with
      copying := none, retired := addNew x.retired r, retires := satN 32 (x.retires + 1)
      spares := x.spares.set (r % 128) (x.used r + 1)
      left := 8192 - x.sparesUsed - 1
      hot := x.hot.adjust ((r / 16) % 8) (fun l => l.filter (fun h => h.row != r)) })
    .next ((s.logRow k r 6 0).retireRows k)

/-! ### Activation windows (04 R86) -/

/-- ACTIVATION_WINDOW_EXPIRY. -/
def execActivationWindowExpiry (k : Nat) (s : State) : Out :=
  .next (s.onScrub k (fun x => { x with acts := [], throttled := [] }))

/-! ### Errors in the array (04 Table 4-3; log 6) -/

/-- Errors come to lie in a granule: up to 68 symbols, or, above, a ciphertext that does not match its tag. -/
def State.upset (s : State) (a n : Nat) : State :=
  if n = 0 || s.pendingZero a then s
  else
    let g := s.gran.getD (a / 64) Gran0
    let g' : Gran := if n ≤ 68 then { g with syms := n } else { g with bad := true }
    { s with gran := s.gran.set (a / 64) g' }

/-- GRANULE_READ: errors come to lie in a granule of an assigned frame of a slice that is not contained, and the base die reads it; with
bit 7 of `symbols` they stay for a later read to find (04 R73, 24 R479). -/
def execGranuleRead (g symbols : Nat) (s : State) : Out :=
  let a := g * 64
  match s.frameWorld a with
  | none => .next s
  | some w =>
    if !isDram a || (s.slice (sliceAt a)).state == 3 then .next s
    else
      let s := s.upset a (symbols % 128)
      .next (if 128 ≤ symbols then s else s.bankRead w a 0)

/-! ### Scrubs (04 R82, R84, R85) -/

/-- What a scrub finds in the granules of a row that are not pending-zero (log 31). -/
def State.wear (s : State) (k r : Nat) : State :=
  (s.rowGranules k r).foldl (fun (s : State) a => if s.pendingZero a then s else s.upset a (Config.upset s.tick a % 69)) s

/-- Is every granule of a row free of errors? A poisoned one is not (log 65). -/
def State.cleanRow (s : State) (k r : Nat) : Bool :=
  (s.rowGranules k r).all (fun a => s.pendingZero a ||
    ((s.gran.getD (a / 64) Gran0).syms == 0 && !(s.gran.getD (a / 64) Gran0).poison))

/-- A hot scrub of an entry that found its row clean: it leaves after 64 of them at score 0. -/
def HotRow.cooled (h : HotRow) : Option HotRow :=
  if h.score = 0 then (if 64 ≤ h.clean + 1 then none else some { h with clean := h.clean + 1 })
  else some { h with score := h.score - 1, clean := 0 }

/-- HOT_SCRUB. A row with a poisoned granule counts as not clean, and its clean count starts again (DESIGN CHOICE, log 65). -/
def execHotScrub (k r : Nat) (s : State) : Out :=
  let x := (s.slice k).scrub
  let p := (r / 16) % 8
  if !x.hoten || !(x.hot.getD p []).any (fun h => h.row == r) then .next s
  else
    let s := s.wear k r
    let isClean := s.cleanRow k r
    let s := s.readRow k r 2
    .next ((s.onScrub k (fun x => { x with hot := x.hot.adjust p (fun l => l.filterMap (fun h =>
      if h.row != r then some h else if isClean then h.cooled else some { h with clean := 0 })) })).retireRows k)

/-- Does a checkpoint set in force hold a row's frame? -/
def Scrub.inSet (x : Scrub) (f : Nat) : Bool := x.active.any (fun e => decide (e.2.1 ≤ f) && decide (f < e.2.2))

/-- PATROL_VISIT: a row of an assigned frame outside every set in force, or one to catch up with. -/
def execPatrolVisit (k r : Nat) (s : State) : Out :=
  let x := (s.slice k).scrub
  let f := r / 128 / 16
  let late := x.due.contains r
  if 65536 * 128 ≤ r || ((s.slice k).frame f).ownersel = 0 || (s.slice k).state = 3 || (x.inSet f && !late) then .next s
  else .next (((s.wear k r).readRow k r (if late then 3 else 1)).onScrub k (fun x => { x with due := x.due.filter (· != r) }))

/-- Rows of a set that were not read in the period. -/
def Slice.lateRows (S : Slice) (first last : Nat) : List Nat :=
  ((List.range ((last - first) * 2048)).map (fun i => first * 2048 + i)).filter (fun r =>
    (S.frame (r / 2048)).ownersel != 0 && !S.scrub.marked.contains r)

/-- End frame of a declared set (04 Table 4-6). -/
def ckptEnd (first count : Nat) : Nat := min 4096 (first + count)

/-- PATROL_PERIOD_END: the rows of each set that were not read are due, and the sets enabled now are in force. The record of a set names
its first row, and SOURCE 0 (DESIGN CHOICE, log 65). -/
def execPatrolPeriodEnd (k : Nat) (s : State) : Out :=
  let S := s.slice k
  let s := S.scrub.active.foldl (fun (s : State) (e : Nat × Nat × Nat) =>
    let rows := S.lateRows e.2.1 e.2.2
    if rows.isEmpty then s
    else
      (s.onScrub k (fun x => { x with
        due := addAll x.due rows
        ckpt := x.ckpt.adjust e.1 (fun c => (c.1, c.2.1, c.2.2.1, satN 32 (c.2.2.2 + rows.length))) })).logRow k (e.2.1 * 2048) 8 0) s
  .next (s.onScrub k (fun x => { x with
    marked := []
    active := (x.ckpt.filter (fun (e : Nat × Nat × Nat × Bool × Nat) => e.2.2.2.1)).map
      (fun (e : Nat × Nat × Nat × Bool × Nat) => (e.1, e.2.1, ckptEnd e.2.1 e.2.2.1)) }))

end Sys2Proof.Machine
end

