-- ==== Sys2Proof/Machine/Registers.lean ====
section
/-! DEFINITION. Register writes: the BAR0 map (25 Table 25-1) and the RW and WO fields with no row of their own (00 R6). An offset
counts bytes in the function's BAR0, and a write carries the 64 bits at a multiple of 8. -/

namespace Sys2Proof.Machine

/-! ### Command registers

A write stores every RW field (00 R6), also while BUSY is 1, when only its GO is ignored: the command keeps the fields of its GO,
and `later` the words that software reads back and that the next GO starts from. -/

/-- The RW fields of a word of CH_PREEMPT (22 Table 22-8); a world's page has no WORLD. -/
def PreemptCmd.put (admin : Bool) (c : PreemptCmd) (x : Nat) : PreemptCmd :=
  { c with slot := nfld x 0 11, all := bitAt x 11, op := nfld x 12 2, world := if admin then nfld x 14 7 else 0 }

/-- CH_PREEMPT as software sees it. -/
def PreemptCmd.seen (admin : Bool) (c : PreemptCmd) : PreemptCmd :=
  c.later.foldl (fun (c : PreemptCmd) (e : Nat × Nat) => c.put admin e.2) { c with later := [] }

/-- The RW fields of a word of XL_LREQ (07 Table 7-10). -/
def Lreq.put (r : Lreq) (off x : Nat) : Lreq :=
  if off = 0x80 then { r with acc := bitAt x 4, base := nfld x 12 36, tcid := nfld x 48 8 } else { r with len := nfld x 0 32 }

/-- XL_LREQ as software sees it. -/
def Lreq.seen (r : Lreq) : Lreq := r.later.foldl (fun (r : Lreq) (e : Nat × Nat) => r.put e.1 e.2) { r with later := [] }

/-- A write to XL_LREQ (07 R164). -/
def Lreq.write (r : Lreq) (off x : Nat) : Lreq :=
  if r.busy then { r with later := r.later.set off x }
  else
    let r := r.seen.put off x
    if off = 0x80 && bitAt x 0 then { r with busy := true, result := 1 } else r

/-- The RW fields of NB_FORM (04 Table 4-8). -/
def FormCmd.put (c : FormCmd) (x : Nat) : FormCmd := { c with frame := nfld x 0 12, form := bitAt x 12 }

/-- NB_FORM as software sees it. -/
def FormCmd.seen (c : FormCmd) : FormCmd := c.later.foldl (fun (c : FormCmd) (e : Nat × Nat) => c.put e.2) { c with later := [] }

/-- A write of a world to NB_FORM (04 R90). -/
def FormCmd.write (c : FormCmd) (w x : Nat) : FormCmd :=
  if c.busy then { c with later := [(0, x)] }
  else
    let c := c.seen.put x
    if bitAt x 13 then { c with busy := true, result := 1, world := w } else c

/-- The RW fields of a word of SEC_VBUF_CMD (04 Table 4-9). -/
def VbufCmd.put (c : VbufCmd) (off x : Nat) : VbufCmd :=
  if off = 0x200 then { c with op := nfld x 0 2, buf := nfld x 2 6, tcid := nfld x 16 8 }
  else if off = 0x208 then { c with base := nfld x 0 36 }
  else { c with len := nfld x 0 32 }

/-- SEC_VBUF_CMD as software sees it. -/
def VbufCmd.seen (c : VbufCmd) : VbufCmd :=
  c.later.foldl (fun (c : VbufCmd) (e : Nat × Nat) => c.put e.1 e.2) { c with later := [] }

/-- A write to SEC_VBUF_CMD; GO with OP 3 starts nothing (04 R91). -/
def VbufCmd.write (c : VbufCmd) (off x : Nat) : VbufCmd :=
  if c.busy then { c with later := c.later.set off x }
  else
    let c := c.seen.put off x
    if off = 0x200 && bitAt x 8 && nfld x 0 2 != 3 then { c with busy := true, result := 1 } else c

/-- The RW fields of SEC_SLICE_CMD (24 Table 24-4). -/
def SliceCmd.put (c : SliceCmd) (x : Nat) : SliceCmd :=
  { c with
    op := nfld x 0 3, slice := nfld x 4 6, dest := nfld x 10 6, world := nfld x 16 7, minsl := nfld x 23 7, maxsl := nfld x 30 7 }

/-- SEC_SLICE_CMD as software sees it. -/
def SliceCmd.seen (c : SliceCmd) : SliceCmd := c.later.foldl (fun (c : SliceCmd) (e : Nat × Nat) => c.put e.2) { c with later := [] }

/-- A write to SEC_SLICE_CMD; GO with OP 6 or 7 starts nothing (24 Table 24-4). -/
def SliceCmd.write (c : SliceCmd) (x : Nat) : SliceCmd :=
  if c.busy then { c with later := [(0, x)] }
  else
    let c := c.seen.put x
    if bitAt x 37 && nfld x 0 3 < 6 then { c with busy := true, result := 1 } else c

/-! ### World pages -/

/-- The CH_ page of a world: CH_GANG, CH_PREEMPT, CH_CTXAREA and CH_PCTL, of which an EVENT of 10 to 255 alone is ignored (21 Table 21-2;
22 Tables 22-8, 22-10; 24 Table 24-6). -/
def State.writeCh (s : State) (w off x : Nat) : State :=
  let W := s.world w
  if off = 0x100 then
    if W.gang.busy then s
    else s.onWorld w (fun W => { W with gang := { W.gang with list := nfld x 7 41, count := nfld x 48 16 } })
  else if off = 0x108 then
    if W.gang.busy then s
    else s.onWorld w (fun W => { W with gang := { W.gang with gang := nfld x 0 20, op := bitAt x 32, busy := true, result := 1 } })
  else if off = 0x310 then s.onWorld w (fun W => { W with area := { W.area with base := nfld x 12 36 } })
  else if off = 0x318 then
    if W.area.used != 0 then s else s.onWorld w (fun W => { W with area := { W.area with len := nfld x 0 32 } })
  else if 0x3000 ≤ off && off < 0x3100 then
    let j := (off - 0x3000) / 16
    let e := W.budget.pctl.getD j (0, false, 0)
    let put (y : Nat × Bool × Nat) : State := s.onWorld w (fun W => { W with
      budget := { W.budget with pctl := W.budget.pctl.set j y } })
    if off % 16 = 8 then put (e.1, e.2.1, x)
    else put (if 10 ≤ nfld x 0 8 then e.1 else nfld x 0 8, bitAt x 8, e.2.2)
  else s

/-- CH_PREEMPT of a page: a write with GO = 1 while BUSY is 1 is ignored (22 R457), and GO with OP 3 starts nothing
(Table 22-8). -/
def State.writePreempt (s : State) (page x : Nat) : State :=
  s.onPreempt page (fun c =>
    if c.busy then if bitAt x 21 then c else { c with later := [(0, x)] }
    else
      let c := (c.seen (page == 65)).put (page == 65) x
      if bitAt x 21 && nfld x 12 2 != 3 then { c with busy := true, result := 1, saved := 0, going := false } else c)

/-- The XL_ page of a world: XL_LREQ, XL_CTX, XL_HOT_CTL and XL_LEASE.REL (07 Tables 7-3, 7-5, 7-8, 7-10). LOG2SZ below 4 and a
BASE that is not 4096-aligned are stored as written, since Table 7-8 states no ignored write for them: a ring of 2^LOG2SZ records
at BASE (DESIGN CHOICE, log 64). -/
def State.writeXl (s : State) (w off x : Nat) : State :=
  let onHot (f : HotCtl → HotCtl) : State := s.onWorld w (fun W => { W with hot := f W.hot })
  if off = 0x80 || off = 0x88 then s.onWorld w (fun W => { W with lreq := W.lreq.write off x })
  else if 0x100 ≤ off && off < 0x900 then
    let e := nfld x 0 1 + nfld x 12 40 * 4096
    s.onWorld w (fun W => { W with ctx := W.ctx.set ((off - 0x100) / 8) e })
  else if off = 0xA00 then
    onHot (fun h => { h with
      en := bitAt x 0
      log2n := if 6 ≤ nfld x 1 5 && nfld x 1 5 ≤ 20 then nfld x 1 5 else h.log2n
      log2sz := nfld x 6 4 })
  else if off = 0xA08 then onHot (fun h => { h with base := x })
  else if off = 0xA10 then onHot (fun h => { h with tail := nfld x 32 32 })
  else if 0x1000 ≤ off && off < 0x2000 && off % 16 = 0 && bitAt x 4 then
    let i := (off - 0x1000) / 16
    s.onWorld w (fun W => { W with leases := W.leases.adjust i (fun l => { l with rel := true }) })
  else s

/-- The MSC_ page of a world: MSC_POOL_CTL.MAXOUT, which the management world alone writes (06 Table 6-9). -/
def State.writeMsc (s : State) (w off x : Nat) : State :=
  if off = 0 && w = 0 && nfld x 0 12 != 0 then
    s.onWorld w (fun W => { W with maxout := nfld x 0 12, wins := W.wins.map (min (nfld x 0 12)) })
  else s

/-- The TRAP_ page of a world: TRAP_HCODE (22 Table 22-4). -/
def State.writeTrap (s : State) (w off x : Nat) : State :=
  if off = 0 then s.onWorld w (fun W => { W with trap := { W.trap with valid := bitAt x 0, code := nfld x 12 36 } })
  else if off = 8 then s.onWorld w (fun W => { W with trap := { W.trap with desc := nfld x 0 32 } })
  else s

/-- Does a world own a slice (25 R481)? -/
def State.owns (s : State) (w k : Nat) : Bool :=
  (s.slice k).owner == w && ((s.slice k).state == 1 || (s.slice k).state == 3)

/-- The NB_ block of a slice: NB_SCRUB_CTL for management, NB_CKPT and NB_FORM for the owner (04 Tables 4-5, 4-6, 4-8). NB_CKPT.COUNT is
stored as written and bounded where it is used, a set whose EN is cleared stays in force up to the end of the period, and a lower THRESH or
a new RETEN acts at the next correction, hot scrub or finished retirement (DESIGN CHOICE, log 78). -/
def State.writeNb (s : State) (w k off x : Nat) : State :=
  if off = 0x100 then
    if w != 0 then s
    else s.onScrub k (fun c => { c with
      period := if 1 ≤ nfld x 0 8 && nfld x 0 8 ≤ 168 then nfld x 0 8 else c.period
      thresh := if 16 ≤ nfld x 8 8 then nfld x 8 8 else c.thresh
      hoten := bitAt x 16, reten := bitAt x 17 })
  else if !s.owns w k then s
  else if 0x200 ≤ off && off < 0x280 && off % 16 = 0 then
    let j := (off - 0x200) / 16
    s.onScrub k (fun c => { c with
      ckpt := c.ckpt.set j (nfld x 0 12, nfld x 16 13, bitAt x 29, (c.ckpt.getD j (0, 0, false, 0)).2.2.2) })
  else if off = 0x340 then
    s.onSlice k (fun S => { S with form := S.form.write w x })
  else s

/-- The SEC_ page of a world: SEC_VBUF_CMD (04 Table 4-9). -/
def State.writeSec (s : State) (w off x : Nat) : State :=
  if off = 0x200 || off = 0x208 || off = 0x210 then s.onWorld w (fun W => { W with vcmd := W.vcmd.write off x }) else s

/-! ### Management pages -/

/-- The management CH_ page: CH_SCHED_CTL and CH_WBUD (20 Tables 20-3, 20-5). -/
def State.writeChAdmin (s : State) (off x : Nat) : State :=
  if off = 0x80 then
    { s with ctl := { s.ctl with
      quant := if 32 ≤ nfld x 0 11 then nfld x 0 11 else s.ctl.quant
      promo := if nfld x 16 8 = 0 then s.ctl.promo else nfld x 16 8 } }
  else if off = 0x300 then s.writePreempt 65 x
  else if 0x2000 ≤ off && off < 0x2000 + 32 * 65 && off % 32 = 0 then
    s.onWorld ((off - 0x2000) / 32) (fun W => { W with
      budget := { W.budget with core := nfld x 0 17, pwr := nfld x 17 15, bw := nfld x 32 14 } })
  else s

/-- The management XL_ page: XL_S2ROOT, whose VALID and ROOT the lock freezes (07 Table 7-4). -/
def State.writeXlAdmin (s : State) (off x : Nat) : State :=
  if 0x100 ≤ off && off < 0x100 + 8 * 65 then
    let w := (off - 0x100) / 8
    let s := if bitAt x 1 then s.onTrust w (fun t => { t with s2inv := true }) else s
    if s.lockedWorld w then s else s.onTrust w (fun t => { t with s2valid := bitAt x 0, s2root := nfld x 12 40 })
  else s

/-- An action table with the fields of a write that are not reserved values (22 R445). -/
def actWrite (act x : Nat) : Nat :=
  (List.range 6).foldl (fun a c => if nfld x (3 * c) 3 ≤ 4 then nput a (3 * c) 3 (nfld x (3 * c) 3) else a) act

/-- The management SEC_ page: SEC_SLICE_CMD and SEC_ACT before lock (24 Table 24-4, 22 Table 22-3). -/
def State.writeSecAdmin (s : State) (off x : Nat) : State :=
  if off = 0x300 then
    { s with sliceCmd := s.sliceCmd.write x }
  else if 0x3000 ≤ off && off < 0x3000 + 8 * 65 then
    let w := (off - 0x3000) / 8
    if s.lockedWorld w then s else s.onTrust w (fun t => { t with act := actWrite t.act x })
  else s

/-- The MSC_ global page: MSC_CTL and MSC_CARVE.REQ (06 Tables 6-2, 6-3). -/
def State.writeMscAdmin (s : State) (off x : Nat) : State :=
  if off = 0 then
    { s with ctl := { s.ctl with
      retainw := if nfld x 0 4 ≤ 8 then nfld x 0 4 else s.ctl.retainw, poolc := bitAt x 4 } }
  else if 0x100 ≤ off && off < 0x300 && nfld x 8 4 ≤ 8 then s.onSlice ((off - 0x100) / 8) (fun S => { S with req := nfld x 8 4 })
  else s

/-- The LNK_ block: MEMBERS, BASE and LEN of a group (25 Table 25-3). -/
def State.writeLnk (s : State) (off x : Nat) : State :=
  if 0x400 ≤ off && off < 0x500 then
    let g := (off - 0x400) / 32
    match off % 32 with
    | 0 => s.onGroup g (fun G => { G with members := nfld x 0 16 })
    | 8 => s.onGroup g (fun G => { G with base := nfld x 0 40 })
    | 16 => s.onGroup g (fun G => { G with len := nfld x 0 32 })
    | _ => s
  else s

/-- The PWR_ block: PKGCAP (25 Table 25-5). -/
def State.writePwr (s : State) (off x : Nat) : State :=
  if off = 0 && 100 ≤ nfld x 0 12 && nfld x 0 12 ≤ 2960 then { s with ctl := { s.ctl with pkgcap := nfld x 0 12 } } else s

/-! ### The map -/

/-- Are a function's writes served: READY but for PWR_CTL (25 R490), no lock-down (22 R446), no ERROR (24 R471)? -/
def State.servesWrites (s : State) (w off : Nat) : Bool :=
  decide (w ≤ 64) && (s.takesWrite w || (w == 0 && off == 0x1810000 && !s.lockedDown))

/-- A write at an offset of a function's BAR0 (25 Table 25-1). -/
def State.writeAt (s : State) (w off x : Nat) : State :=
  if off = 0x300 then s.writePreempt w x
  else if off < 0x40000 then s.writeCh w off x
  else if off < 0x50000 then s.writeXl w (off - 0x40000) x
  else if off < 0x60000 then s.writeMsc w (off - 0x50000) x
  else if off < 0x70000 then s.writeTrap w (off - 0x60000) x
  else if off < 0x400000 then s
  else if off < 0x800000 then s.writeNb w ((off - 0x400000) / 0x10000) (off % 0x10000) x
  else if off < 0xC00000 then s.writeSec w (off - 0x800000) x
  else if w != 0 then s
  else if off < 0xC40000 then s.writeChAdmin (off - 0xC00000) x
  else if off < 0xC50000 then s.writeXlAdmin (off - 0xC40000) x
  else if off < 0x1000000 then s
  else if off < 0x1400000 then s.writeSecAdmin (off - 0x1000000) x
  else if off < 0x1800000 then s.writeMscAdmin (off - 0x1400000) x
  else if off < 0x1810000 then s.writeLnk (off - 0x1800000) x
  else if off < 0x1820000 then s.writePwr (off - 0x1810000) x
  else s

/-- REGISTER_WRITE (00 R6; 25 R481, R490). -/
def execRegisterWrite (w off : Nat) (v : DWord) (s : State) : Out :=
  .next (if off % 8 = 0 && s.servesWrites w off then s.writeAt w off v.toNat else s)

end Sys2Proof.Machine
end

