-- ==== Sys2Proof/Machine/Dispatch.lean ====
section
/-! DEFINITION. One arm for each constructor of Instr. -/

namespace Sys2Proof.Machine

/-- The meaning of an instruction. -/
def exec (i : Instr) (s : State) : Host.Outcome State Fault Refusal :=
  match i with
  | .add d a b g m => Sys2Proof.Machine.execAdd d a b g m s
  | .sub d a b g m => Sys2Proof.Machine.execSub d a b g m s
  | .mul d a b g => Sys2Proof.Machine.execMul d a b g s
  | .mulhi d a b g m => Sys2Proof.Machine.execMulhi d a b g m s
  | .mad d a b g m => Sys2Proof.Machine.execMad d a b g m s
  | .div d a b g m => Sys2Proof.Machine.execDiv d a b g m s
  | .rem d a b g m => Sys2Proof.Machine.execRem d a b g m s
  | .min d a b g m => Sys2Proof.Machine.execMin d a b g m s
  | .max d a b g m => Sys2Proof.Machine.execMax d a b g m s
  | .abs d a g => Sys2Proof.Machine.execAbs d a g s
  | .neg d a g => Sys2Proof.Machine.execNeg d a g s
  | .and d a b g => Sys2Proof.Machine.execAnd d a b g s
  | .or d a b g => Sys2Proof.Machine.execOr d a b g s
  | .xor d a b g => Sys2Proof.Machine.execXor d a b g s
  | .andn d a b g => Sys2Proof.Machine.execAndn d a b g s
  | .shl d a b g m => Sys2Proof.Machine.execShl d a b g m s
  | .shr d a b g m => Sys2Proof.Machine.execShr d a b g m s
  | .rot d a b g => Sys2Proof.Machine.execRot d a b g s
  | .bfx d a b g m => Sys2Proof.Machine.execBfx d a b g m s
  | .bfi d a b g => Sys2Proof.Machine.execBfi d a b g s
  | .popc d a g => Sys2Proof.Machine.execPopc d a g s
  | .clz d a g => Sys2Proof.Machine.execClz d a g s
  | .brev d a g => Sys2Proof.Machine.execBrev d a g s
  | .perm d a b g => Sys2Proof.Machine.execPerm d a b g s
  | .adds d a b g m => Sys2Proof.Machine.execAdds d a b g m s
  | .addi d a iv g => Sys2Proof.Machine.execAddi d a iv g s
  | .andi d a iv g => Sys2Proof.Machine.execAndi d a iv g s
  | .ori d a iv g => Sys2Proof.Machine.execOri d a iv g s
  | .xori d a iv g => Sys2Proof.Machine.execXori d a iv g s
  | .shli d a iv g => Sys2Proof.Machine.execShli d a iv g s
  | .shri d a iv g => Sys2Proof.Machine.execShri d a iv g s
  | .cmp p a b c k => Sys2Proof.Machine.execCmp p a b c k s
  | .sel d a b g => Sys2Proof.Machine.execSel d a b g s
  | .mov d a g => Sys2Proof.Machine.execMov d a g s
  | .movi d iv => Sys2Proof.Machine.execMovi d iv s
  | .movu d b => Sys2Proof.Machine.execMovu d b s
  | .ldc d iv => Sys2Proof.Machine.execLdc d iv s
  | .pset p a b c k => Sys2Proof.Machine.execPset p a b c k s
  | .cvti d a c g => Sys2Proof.Machine.execCvti d a c g s
  | .fadd d a b g => Sys2Proof.Machine.execFadd d a b g s
  | .fsub d a b g => Sys2Proof.Machine.execFsub d a b g s
  | .fmul d a b g => Sys2Proof.Machine.execFmul d a b g s
  | .ffma d a b g => Sys2Proof.Machine.execFfma d a b g s
  | .fmin d a b g => Sys2Proof.Machine.execFmin d a b g s
  | .fmax d a b g => Sys2Proof.Machine.execFmax d a b g s
  | .fcmp p a b c k => Sys2Proof.Machine.execFcmp p a b c k s
  | .fclass d a g => Sys2Proof.Machine.execFclass d a g s
  | .frint d a g => Sys2Proof.Machine.execFrint d a g s
  | .fcvt d a c g => Sys2Proof.Machine.execFcvt d a c g s
  | .ficvt d a c g => Sys2Proof.Machine.execFicvt d a c g s
  | .ifcvt d a c g => Sys2Proof.Machine.execIfcvt d a c g s
  | .hadd2 d a b g m => Sys2Proof.Machine.execHadd2 d a b g m s
  | .hmul2 d a b g m => Sys2Proof.Machine.execHmul2 d a b g m s
  | .hfma2 d a b g m => Sys2Proof.Machine.execHfma2 d a b g m s
  | .hmax2 d a b g m => Sys2Proof.Machine.execHmax2 d a b g m s
  | .rcp d a h g => Sys2Proof.Machine.execRcp d a h g s
  | .rsqrt d a h g => Sys2Proof.Machine.execRsqrt d a h g s
  | .sqrt d a h g => Sys2Proof.Machine.execSqrt d a h g s
  | .ex2 d a h g => Sys2Proof.Machine.execEx2 d a h g s
  | .lg2 d a h g => Sys2Proof.Machine.execLg2 d a h g s
  | .sinpi d a h g => Sys2Proof.Machine.execSinpi d a h g s
  | .cospi d a h g => Sys2Proof.Machine.execCospi d a h g s
  | .tanh d a h g => Sys2Proof.Machine.execTanh d a h g s
  | .rngs a g => Sys2Proof.Machine.execRngs a g s
  | .rng d g => Sys2Proof.Machine.execRng d g s
  | .dot4 d a b g m => Sys2Proof.Machine.execDot4 d a b g m s
  | .sysr d iv => Sys2Proof.Machine.execSysr d iv s
  | .ballot d a g => Sys2Proof.Machine.execBallot d a g s
  | .vany p a c k => Sys2Proof.Machine.execVany p a c k s
  | .vall p a c k => Sys2Proof.Machine.execVall p a c k s
  | .shfl d a b g => Sys2Proof.Machine.execShfl d a b g s
  | .sred d a c g => Sys2Proof.Machine.execSred d a c g s
  | .sscan d a c g => Sys2Proof.Machine.execSscan d a c g s
  | .qswp d a b g => Sys2Proof.Machine.execQswp d a b g s
  | .qbcast d a b g => Sys2Proof.Machine.execQbcast d a b g s
  | .matchLanes d a b g => Sys2Proof.Machine.execMatchLanes d a b g s
  | .elect p c k => Sys2Proof.Machine.execElect p c k s
  | .ld d a h g m => Sys2Proof.Machine.execLd d a h g m s
  | .st d a g m => Sys2Proof.Machine.execSt d a g m s
  | .lds d a h g m => Sys2Proof.Machine.execLds d a h g m s
  | .sts d a g m => Sys2Proof.Machine.execSts d a g m s
  | .amo d a h g m => Sys2Proof.Machine.execAmo d a h g m s
  | .red d a g m => Sys2Proof.Machine.execRed d a g m s
  | .wait d a g b m => Sys2Proof.Machine.execWait d a g b m s
  | .fence g => Sys2Proof.Machine.execFence g s
  | .txBeg o => Sys2Proof.Machine.execTxBeg o s
  | .txEnd p k => Sys2Proof.Machine.execTxEnd p k s
  | .txAbort iv g => Sys2Proof.Machine.execTxAbort iv g s
  | .barArrive d a h g => Sys2Proof.Machine.execBarArrive d a h g s
  | .barWait d a g => Sys2Proof.Machine.execBarWait d a g s
  | .seal d a g => Sys2Proof.Machine.execSeal d a g s
  | .cflush a g n => Sys2Proof.Machine.execCflush a g n s
  | .cinv a g n => Sys2Proof.Machine.execCinv a g n s
  | .cpyIn d a g m => Sys2Proof.Machine.execCpyIn d a g m s
  | .cpyOut d a g m => Sys2Proof.Machine.execCpyOut d a g m s
  | .feClr a g n => Sys2Proof.Machine.execFeClr a g n s
  | .feSet a g n => Sys2Proof.Machine.execFeSet a g n s
  | .feTest p a c k => Sys2Proof.Machine.execFeTest p a c k s
  | .rsbDrain g => Sys2Proof.Machine.execRsbDrain g s
  | .bsum a g => Sys2Proof.Machine.execBsum a g s
  | .mma t a b f => Sys2Proof.Machine.execMma t a b f s
  | .mloop t a f => Sys2Proof.Machine.execMloop t a f s
  | .mld t a q => Sys2Proof.Machine.execMld t a q s
  | .mrd t a h q => Sys2Proof.Machine.execMrd t a h q s
  | .mclr t => Sys2Proof.Machine.execMclr t s
  | .mcvt t a b f => Sys2Proof.Machine.execMcvt t a b f s
  | .bra p b o => Sys2Proof.Machine.execBra p b o s
  | .brx a g => Sys2Proof.Machine.execBrx a g s
  | .call o => Sys2Proof.Machine.execCall o s
  | .ret a g => Sys2Proof.Machine.execRet a g s
  | .join g => Sys2Proof.Machine.execJoin g s
  | .exit g => Sys2Proof.Machine.execExit g s
  | .yield g => Sys2Proof.Machine.execYield g s
  | .nop g => Sys2Proof.Machine.execNop g s
  | .trap a iv g => Sys2Proof.Machine.execTrap a iv g s
  | .rett => Sys2Proof.Machine.execRett s
  | .brk iv g => Sys2Proof.Machine.execBrk iv g s
  | .sysw d iv => Sys2Proof.Machine.execSysw d iv s
  | .nld d a h g m => Sys2Proof.Machine.execNld d a h g m s
  | .nst d a g m => Sys2Proof.Machine.execNst d a g m s
  | .nmac d a h g m => Sys2Proof.Machine.execNmac d a h g m s
  | .hint k p => Sys2Proof.Machine.execHint k p s
  | .illegalInstruction reason => Sys2Proof.Machine.execIllegalInstruction reason s
  | .sadd d a b => Sys2Proof.Machine.execSadd d a b s
  | .ssub d a b => Sys2Proof.Machine.execSsub d a b s
  | .smul d a b => Sys2Proof.Machine.execSmul d a b s
  | .smulhi d a b => Sys2Proof.Machine.execSmulhi d a b s
  | .sdiv d a b => Sys2Proof.Machine.execSdiv d a b s
  | .srem d a b => Sys2Proof.Machine.execSrem d a b s
  | .smin d a b => Sys2Proof.Machine.execSmin d a b s
  | .smax d a b => Sys2Proof.Machine.execSmax d a b s
  | .sand d a b => Sys2Proof.Machine.execSand d a b s
  | .sor d a b => Sys2Proof.Machine.execSor d a b s
  | .sxor d a b => Sys2Proof.Machine.execSxor d a b s
  | .sandn d a b => Sys2Proof.Machine.execSandn d a b s
  | .sshl d a b => Sys2Proof.Machine.execSshl d a b s
  | .sshr d a b => Sys2Proof.Machine.execSshr d a b s
  | .ssra d a b => Sys2Proof.Machine.execSsra d a b s
  | .sbfx d a b => Sys2Proof.Machine.execSbfx d a b s
  | .sbfi d a b => Sys2Proof.Machine.execSbfi d a b s
  | .scmp d a b => Sys2Proof.Machine.execScmp d a b s
  | .ssel d a b => Sys2Proof.Machine.execSsel d a b s
  | .sclz d a => Sys2Proof.Machine.execSclz d a s
  | .saddi d a iv => Sys2Proof.Machine.execSaddi d a iv s
  | .sli d iv => Sys2Proof.Machine.execSli d iv s
  | .slui d iv => Sys2Proof.Machine.execSlui d iv s
  | .smov d a => Sys2Proof.Machine.execSmov d a s
  | .sldc d iv => Sys2Proof.Machine.execSldc d iv s
  | .cueSysr d iv => Sys2Proof.Machine.execCueSysr d iv s
  | .sld d a o h => Sys2Proof.Machine.execSld d a o h s
  | .sst d a o => Sys2Proof.Machine.execSst d a o s
  | .samo d a o h => Sys2Proof.Machine.execSamo d a o h s
  | .sfence => Sys2Proof.Machine.execSfence s
  | .swait d a o => Sys2Proof.Machine.execSwait d a o s
  | .sseal a b => Sys2Proof.Machine.execSseal a b s
  | .qfill m p a b => Sys2Proof.Machine.execQfill m p a b s
  | .qdrain m p a b => Sys2Proof.Machine.execQdrain m p a b s
  | .qstat d b => Sys2Proof.Machine.execQstat d b s
  | .tcpyIn a b => Sys2Proof.Machine.execTcpyIn a b s
  | .tcpyOut a b => Sys2Proof.Machine.execTcpyOut a b s
  | .tlay a b => Sys2Proof.Machine.execTlay a b s
  | .sbra c b o => Sys2Proof.Machine.execSbra c b o s
  | .sjmp o => Sys2Proof.Machine.execSjmp o s
  | .scall o => Sys2Proof.Machine.execScall o s
  | .sret a => Sys2Proof.Machine.execSret a s
  | .sexit => Sys2Proof.Machine.execSexit s
  | .syield => Sys2Proof.Machine.execSyield s
  | .strap d iv => Sys2Proof.Machine.execStrap d iv s
  | .srett => Sys2Proof.Machine.execSrett s
  | .cueSysw d iv => Sys2Proof.Machine.execCueSysw d iv s
  | .cueBsum a => Sys2Proof.Machine.execCueBsum a s
  | .lset f a => Sys2Proof.Machine.execLset f a s
  | .lcancel a => Sys2Proof.Machine.execLcancel a s
  | .lrepeat => Sys2Proof.Machine.execLrepeat s
  | .lgo => Sys2Proof.Machine.execLgo s
  | .prologueCountLimit launch => Sys2Proof.Machine.execPrologueCountLimit launch s
  | .registerWrite world off value => Sys2Proof.Machine.execRegisterWrite world off value s
  | .doorbell world slot value => Sys2Proof.Machine.execDoorbell world slot value s
  | .gangMap world => Sys2Proof.Machine.execGangMap world s
  | .gangUnmap world => Sys2Proof.Machine.execGangUnmap world s
  | .preemptRequeue page => Sys2Proof.Machine.execPreemptRequeue page s
  | .preemptHold page => Sys2Proof.Machine.execPreemptHold page s
  | .releaseHeld page => Sys2Proof.Machine.execReleaseHeld page s
  | .contextSave core => Sys2Proof.Machine.execContextSave core s
  | .contextRestore launch company => Sys2Proof.Machine.execContextRestore launch company s
  | .vbufDeclare world => Sys2Proof.Machine.execVbufDeclare world s
  | .vbufAdvance world => Sys2Proof.Machine.execVbufAdvance world s
  | .vbufWithdraw world => Sys2Proof.Machine.execVbufWithdraw world s
  | .formChange slice => Sys2Proof.Machine.execFormChange slice s
  | .quiescePoint world => Sys2Proof.Machine.execQuiescePoint world s
  | .mscBasic => Sys2Proof.Machine.execMscBasic s
  | .schedBasic => Sys2Proof.Machine.execSchedBasic s
  | .pwrBasic => Sys2Proof.Machine.execPwrBasic s
  | .s2Invalidate world => Sys2Proof.Machine.execS2Invalidate world s
  | .faultRetry world => Sys2Proof.Machine.execFaultRetry world s
  | .faultAbort world => Sys2Proof.Machine.execFaultAbort world s
  | .s2FaultRetry => Sys2Proof.Machine.execS2FaultRetry s
  | .s2FaultDeny => Sys2Proof.Machine.execS2FaultDeny s
  | .leaseRelease world index => Sys2Proof.Machine.execLeaseRelease world index s
  | .leaseReclaim world index => Sys2Proof.Machine.execLeaseReclaim world index s
  | .driverLeaseRequest world => Sys2Proof.Machine.execDriverLeaseRequest world s
  | .leaseGrant world index => Sys2Proof.Machine.execLeaseGrant world index s
  | .sliceBind => Sys2Proof.Machine.execSliceBind s
  | .sliceUnbind => Sys2Proof.Machine.execSliceUnbind s
  | .sliceAssign => Sys2Proof.Machine.execSliceAssign s
  | .sliceRelease => Sys2Proof.Machine.execSliceRelease s
  | .sliceMigrate => Sys2Proof.Machine.execSliceMigrate s
  | .clearContainment => Sys2Proof.Machine.execClearContainment s
  | .zeroingWrite granule => Sys2Proof.Machine.execZeroingWrite granule s
  | .lockInterfaceRequest world => Sys2Proof.Machine.execLockInterfaceRequest world s
  | .startInterfaceRequest world => Sys2Proof.Machine.execStartInterfaceRequest world s
  | .stopInterfaceRequest world => Sys2Proof.Machine.execStopInterfaceRequest world s
  | .functionLevelReset world => Sys2Proof.Machine.execFunctionLevelReset world s
  | .pfFunctionLevelReset => Sys2Proof.Machine.execPfFunctionLevelReset s
  | .interfaceError world => Sys2Proof.Machine.execInterfaceError world s
  | .getMeasurements world index => Sys2Proof.Machine.execGetMeasurements world index s
  | .keyExchange world => Sys2Proof.Machine.execKeyExchange world s
  | .ideKm port stream => Sys2Proof.Machine.execIdeKm port stream s
  | .firmwareActivation image => Sys2Proof.Machine.execFirmwareActivation image s
  | .activationWindowEnd => Sys2Proof.Machine.execActivationWindowEnd s
  | .coldReset => Sys2Proof.Machine.execColdReset s
  | .linkDown port => Sys2Proof.Machine.execLinkDown port s
  | .linkUp port => Sys2Proof.Machine.execLinkUp port s
  | .hostReset => Sys2Proof.Machine.execHostReset s
  | .hostMemAccess write dpa value => Sys2Proof.Machine.execHostMemAccess write dpa value s
  | .backInvalidate line => Sys2Proof.Machine.execBackInvalidate line s
  | .cxlMemResponse world port devLoad => Sys2Proof.Machine.execCxlMemResponse world port devLoad s
  | .ideCheckPass port => Sys2Proof.Machine.execIdeCheckPass port s
  | .ideCheckFail port stream => Sys2Proof.Machine.execIdeCheckFail port stream s
  | .groupForm group => Sys2Proof.Machine.execGroupForm group s
  | .groupFormed group => Sys2Proof.Machine.execGroupFormed group s
  | .memberReturn group member digest => Sys2Proof.Machine.execMemberReturn group member digest s
  | .memberAbsenceTimeout group member => Sys2Proof.Machine.execMemberAbsenceTimeout group member s
  | .pwrLevelChange slice level => Sys2Proof.Machine.execPwrLevelChange slice level s
  | .idleRequest slice idle => Sys2Proof.Machine.execIdleRequest slice idle s
  | .idleEnter slice => Sys2Proof.Machine.execIdleEnter slice s
  | .idleExitDone slice => Sys2Proof.Machine.execIdleExitDone slice s
  | .thermalTrip slice temp => Sys2Proof.Machine.execThermalTrip slice temp s
  | .thermalRecover slice temp => Sys2Proof.Machine.execThermalRecover slice temp s
  | .thermalLockdown slice temp => Sys2Proof.Machine.execThermalLockdown slice temp s
  | .containment slice => Sys2Proof.Machine.execContainment slice s
  | .launchDequeue slot => Sys2Proof.Machine.execLaunchDequeue slot s
  | .dependencyMet launch => Sys2Proof.Machine.execDependencyMet launch s
  | .launchAdmission launch => Sys2Proof.Machine.execLaunchAdmission launch s
  | .placementDecision world => Sys2Proof.Machine.execPlacementDecision world s
  | .stagingCopy troupe => Sys2Proof.Machine.execStagingCopy troupe s
  | .troupeStart troupe => Sys2Proof.Machine.execTroupeStart troupe s
  | .gridRunEnd launch => Sys2Proof.Machine.execGridRunEnd launch s
  | .priorityPromotion slot => Sys2Proof.Machine.execPriorityPromotion slot s
  | .pacingWindow world units scratch => Sys2Proof.Machine.execPacingWindow world units scratch s
  | .bundlerRound core => Sys2Proof.Machine.execBundlerRound core s
  | .cueIssue core => Sys2Proof.Machine.execCueIssue core s
  | .threadAged troupe set lane => Sys2Proof.Machine.execThreadAged troupe set lane s
  | .joinTimeout troupe set => Sys2Proof.Machine.execJoinTimeout troupe set s
  | .yieldExpiry troupe set => Sys2Proof.Machine.execYieldExpiry troupe set s
  | .nbSetIssue slice unit => Sys2Proof.Machine.execNbSetIssue slice unit s
  | .chunkGrantRequest troupe set => Sys2Proof.Machine.execChunkGrantRequest troupe set s
  | .signatureReceived core troupe set => Sys2Proof.Machine.execSignatureReceived core troupe set s
  | .commitPoint troupe set => Sys2Proof.Machine.execCommitPoint troupe set s
  | .storeDrain troupe set => Sys2Proof.Machine.execStoreDrain troupe set s
  | .homeAtomicPerform slice => Sys2Proof.Machine.execHomeAtomicPerform slice s
  | .redApply slice => Sys2Proof.Machine.execRedApply slice s
  | .partialSend core line => Sys2Proof.Machine.execPartialSend core line s
  | .sealedLineEvict core line => Sys2Proof.Machine.execSealedLineEvict core line s
  | .l1MissFill core index upset => Sys2Proof.Machine.execL1MissFill core index upset s
  | .mscEvict world line upset => Sys2Proof.Machine.execMscEvict world line upset s
  | .granuleRead granule symbols => Sys2Proof.Machine.execGranuleRead granule symbols s
  | .rowRetirementDone slice row => Sys2Proof.Machine.execRowRetirementDone slice row s
  | .patrolVisit slice row => Sys2Proof.Machine.execPatrolVisit slice row s
  | .hotScrub slice row => Sys2Proof.Machine.execHotScrub slice row s
  | .patrolPeriodEnd slice => Sys2Proof.Machine.execPatrolPeriodEnd slice s
  | .activationWindowExpiry slice => Sys2Proof.Machine.execActivationWindowExpiry slice s
  | .hotnessRecord cluster world => Sys2Proof.Machine.execHotnessRecord cluster world s
  | .systemWaitPoll troupe set => Sys2Proof.Machine.execSystemWaitPoll troupe set s
  | .tcpyTransfer core entry row => Sys2Proof.Machine.execTcpyTransfer core entry row s
  | .laneCopyTransfer core entry lane => Sys2Proof.Machine.execLaneCopyTransfer core entry lane s
  | .copyComplete core entry => Sys2Proof.Machine.execCopyComplete core entry s
  | .mloopRun core entry => Sys2Proof.Machine.execMloopRun core entry s
  | .mcvtRun core entry => Sys2Proof.Machine.execMcvtRun core entry s
  | .tileOpRetire core entry => Sys2Proof.Machine.execTileOpRetire core entry s
  | .redCmdExecute slice => Sys2Proof.Machine.execRedCmdExecute slice s
  | .nbAccessReturn slice unit => Sys2Proof.Machine.execNbAccessReturn slice unit s
  | .trapTaken troupe set => Sys2Proof.Machine.execTrapTaken troupe set s
  | .asyncTrapArrival troupe set => Sys2Proof.Machine.execAsyncTrapArrival troupe set s
  | .linkCompletion request status => Sys2Proof.Machine.execLinkCompletion request status s

end Sys2Proof.Machine
end

