-- ==== Sys2Proof/Machine/Step.lean ====
section
/-! DEFINITION. One step of the machine: the word of the issue in progress, else the next step of bring-up, else the turn at
the head of the agenda, else the turn that the free schedule names, once what has become ready is so. -/

namespace Sys2Proof.Machine

/-- A trap of the fetch itself, or nothing to fetch for. -/
def orIdle (s : State) : Option State → Host.Outcome State Fault Refusal
  | some t => .next t
  | none => .next s.endIssue

/-- Fetch the next word of the issue in progress and run it. -/
def fetchStep (s : State) (u : Issue) : Host.Outcome State Fault Refusal :=
  match s.codeOf u.agent with
  | none => .next s.endIssue
  | some c =>
    if c.desc.inCode u.word then
      match s.fetchBad c u.word with
      | some cause => orIdle s (s.unread u u.word cause)
      | none => exec (decodeAt (s.decodeCtx u) (s.codeWord c u.word)) (s.fetched c u.word 4)
    else orIdle s (s.runOff u)

/-- Take a turn: a step of the device, or the start of an agent's issue, in an even cycle where its core is paced (20 R421); a prologue that
has counted 256 instructions meets its limit instead (16 R386). -/
def takeTurn (s : State) : Turn → Host.Outcome State Fault Refusal
  | .event i => if isTurn i then exec i s else .next s
  | .issue (.prologue l) =>
    match s.launches.get? l with
    | some L => if 256 ≤ L.count then exec (.prologueCountLimit l) s else .next (s.begin (.prologue l))
    | none => .next s
  | .issue (.step f) => .next (if s.troupeTurn f.troupe then (s.first [.settle f]).begin (.step f) else { s with agenda := passOn s.agenda })
  | .issue (.cue t) => .next (if s.troupeTurn t then s.begin (.cue t) else s)
  | .settle f => .next (s.settleFigure f)
  | .spare _ => .next s
  | .cues c => execCueIssue c s

/-- One step. -/
def step (s : State) : Host.Outcome State Fault Refusal :=
  let t := s.pass
  match t.cur with
  | some u => fetchStep t u
  | none =>
    if t.bringUp < 6 then .next t.bringUpStep
    else
      match t.agenda with
      | a :: rest => takeTurn { t with agenda := rest } a
      | [] =>
        let a := Config.schedule s.tick
        if a.free then takeTurn t.rouse a else .next t.rouse

/-- The state with a word stored where the next step fetches its instruction. -/
def State.withFetchWord (s : State) (nbits w : Nat) : State := s.placeWord (w % 2 ^ nbits)

end Sys2Proof.Machine
end

