-- ==== Sys2Proof/Safety.lean ====
section
/-! DEFINITION. What a safe run is, and the words in which claims speak of one instruction: where it issues, what a result
is, and what it leaves alone. -/

namespace Sys2Proof

/-- A state that a run may stand in: canonical memory. -/
def Safe (s : Machine.State) : Prop := s.mem.wf = true

/-- A step that neither faults nor is refused. -/
def StepsOn (s : Machine.State) : Prop := ∃ t, Machine.step s = .next t

namespace Machine

/-! ### The step stream -/

/-- Instruction `i` of the step stream issues at `s` and takes effect in the context `c` (20 R415). -/
def Issues (s : State) (i : Instr) (c : Ctx) : Prop := stepGo s i = some (.go c)

/-- Register `r` holds `x`: at once, or in the window that a lookahead count of `ahead` opens (02 R35). -/
def Holds (th : Thread) (ahead r : Nat) (x : Word) : Prop :=
  if ahead = 0 then th.get r = x
  else ∃ w, th.win.getLast? = some w ∧ w.left = ahead ∧ w.req = none ∧ w.dst.get? r = some x

/-- A window that ends with the next instruction holds a result for register `r` (02 R35). -/
def Ripe (th : Thread) (r : Nat) : Prop :=
  ∃ w ∈ th.win, w.left ≤ 1 ∧ w.req = none ∧ (w.dst.get? r).isSome = true

/-- A set without the names of its physical registers, its own and its open chunk's checkpoint's (09 R199, R201), which no value
depends on. -/
def SetState.bare (S : SetState) : SetState :=
  { S with names := Names0, chunk := S.chunk.map (fun k => { k with names := Names0 }) }

/-- A troupe without those names. -/
def Troupe.bare (T : Troupe) : Troupe := { T with setTab := T.setTab.map (fun (e : Nat × SetState) => (e.1, e.2.bare)) }

/-- The state without those names: a register that is renamed, or spilled for another, keeps its value. -/
def State.bare (s : State) : State := { s with troupes := s.troupes.map (fun (e : Nat × Troupe) => (e.1, e.2.bare)) }

/-- Between `s` and `t` nothing of the machine changes but set `c.k` of troupe `c.t`, which becomes `S`, the issue, which
ends, names of physical registers, a unit's count of its issues, and the values of performance counters. -/
structure OnlySet (s : State) (c : Ctx) (S : SetState) (t : State) : Prop where
  set : (t.setAt? c.t c.k).map SetState.bare = some S.bare
  troupe : (t.troupes.get? c.t).map Troupe.bare = (s.troupes.get? c.t).map (fun T => (T.onSet c.k (fun _ => S)).bare)
  others : ∀ n, n ≠ c.t → (t.troupes.get? n).map Troupe.bare = (s.troupes.get? n).map Troupe.bare
  counters : ∀ w, { t.world w with budget := { (t.world w).budget with pctl := (s.world w).budget.pctl } } = s.world w
  cur : t.cur = none
  rest : { t with troupes := s.troupes, worlds := s.worlds, cur := s.cur } = c.counted s

/-- The lanes of a set after an instruction that gives `res` in each active lane, and predicates, generator and clock `own`. -/
structure Lanes (c : Ctx) (i : Instr) (S : SetState) (res : Nat → List (Nat × Word))
    (own : Nat → Word × Word × DWord) : Prop where
  idle : ∀ j, inMask c.mask j = false → S.lane j = c.S.lane j
  next : ∀ j, inMask c.mask j = true → (S.lane j).pc = c.next ∧ (S.lane j).live = (c.S.lane j).live ∧
    (S.lane j).hold = .ready ∧ (S.lane j).aged = false ∧ (S.lane j).since = c.now
  results : ∀ j, inMask c.act j = true → ∀ e ∈ res j, e.1 < 120 → Holds (S.lane j) i.ahead e.1 e.2
  keeps : ∀ j r, inMask c.mask j = true → (inMask c.act j = true → ∀ e ∈ res j, e.1 ≠ r) → ¬ Ripe (c.S.lane j) r →
    (S.lane j).get r = (c.S.lane j).get r
  owns : ∀ j, inMask c.mask j = true →
    ((S.lane j).p, (S.lane j).gen, (S.lane j).clk) =
      if inMask c.act j then own j else ((c.S.lane j).p, (c.S.lane j).gen, (c.S.lane j).clk)

/-- Predicates, generator and clock as they stand. -/
def Ctx.old (c : Ctx) (j : Nat) : Word × Word × DWord := ((c.S.lane j).p, (c.S.lane j).gen, (c.S.lane j).clk)

/-- The chunk after an instruction that reads and writes registers only: unchanged, unless it has counted 1024 instructions
without a store, when it closes; a wait or a barrier instruction that is complete has opened the next one (10 Table 10-1). -/
def KeepsChunk (c : Ctx) (i : Instr) (S : SetState) : Prop :=
  match c.S.chunk with
  | some k => k.count ≠ 1024 ∨ k.stored = true ∨ k.tx.isSome = true → S.chunk = some k ∧ S.closing = c.S.closing
  | none => S.closing = c.S.closing ∧
    (opensNext i = false ∨ c.act = 0 ∨ c.T.place.isUnit = true → S.chunk = none) ∧
    (opensNext i = true → c.act ≠ 0 → c.T.place.isUnit = false →
      ∃ k, S.chunk = some k ∧ k.pc = c.issue.group ∧ k.first = c.next ∧ k.count = 1 ∧ k.start = S.threads)

/-- The queue ports after an instruction of a chunk (09 R203-R205): a push port ends with the pushed words, and every other
port keeps its words, since a popped entry stays until the chunk commits. -/
def PortsAfter (c : Ctx) (i : Instr) (S : SetState) (res : Nat → List (Nat × Word)) : Prop :=
  (∀ q, pushOf i = some q → q < c.S.ports.length →
    ((S.port q).getLast?.map (·.words)) =
      some ((List.range 32).map (fun j => if inMask c.act j then (Tab.get? (res j) (120 + q)).getD 0 else 0))) ∧
  (∀ q, pushOf i ≠ some q → (S.port q).map (·.words) = (c.S.port q).map (·.words))

/-- Between `s1` and `t` instruction `i` has its effect: each active lane gets the results `res` and the values `own`, the figure goes on
with the next word, and nothing else changes. -/
def Effect (s1 t : State) (i : Instr) (c : Ctx) (res : Nat → List (Nat × Word)) (own : Nat → Word × Word × DWord) : Prop :=
  ∃ S, OnlySet s1 c S t ∧ Lanes c i S res own ∧ KeepsChunk c i S ∧ (c.S.chunk.isSome = true → PortsAfter c i S res) ∧
    { S with threads := c.S.threads, ports := c.S.ports, chunk := c.S.chunk, closing := c.S.closing } = c.S

/-- Instruction `i` completes at `s`, on top of its own effects `s1` on the machine and `c.S` on its set. -/
def CompletesFrom (s s1 : State) (i : Instr) (c : Ctx) (res : Nat → List (Nat × Word))
    (own : Nat → Word × Word × DWord) : Prop := ∃ t, exec i s = .next t ∧ Effect s1 t i c res own

/-- Instruction `i` completes in `c`, and its lanes' results are all that it changes. -/
def Completes (s : State) (i : Instr) (c : Ctx) (res : Nat → List (Nat × Word)) (own : Nat → Word × Word × DWord) : Prop :=
  CompletesFrom s s i c res own

/-- The same for an instruction that writes registers only. -/
def Gives (s : State) (i : Instr) (c : Ctx) (res : Nat → List (Nat × Word)) : Prop := Completes s i c res c.old

/-- One 32-bit result. -/
def one (d : BitVec 7) (x : Word) : List (Nat × Word) := [(d.toNat, x)]

/-- A 64-bit result in a register pair, low word first (13 R297). -/
def two (d : BitVec 7) (x : DWord) : List (Nat × Word) := [(d.toNat, x.truncate 32), (d.toNat + 1, (x >>> 32).truncate 32)]

end Machine
end Sys2Proof
end

