-- ==== Sys2Proof/Certificates/Slice0/Obligations.lean ====
section
/-! DEFINITION. The statements for the provers. Each says what the spec's rules say of the machine, in terms of `exec`, `step`,
`decode` and `State.reset`; the rules cited stand in OBLIGATIONS.json. -/

namespace Sys2Proof.Machine

/-! ### Words of the claims -/

/-- An FP32 magnitude code is a positive real rounded once by round_ne (12 R280, R288): codes of dyadic numbers below it lie no higher, and
codes of those above it no lower. -/
def Rounds (code : Nat) (v : ℝ) : Prop :=
  ∀ (m : Nat) (e : Int), ((m : ℝ) * 2 ^ e ≤ v → fp32.near (.num false m e) ≤ code) ∧ (v ≤ (m : ℝ) * 2 ^ e → code ≤ fp32.near (.num false m e))

/-- The lesser of two words, compared unsigned or signed (13 Table 13-1). -/
def lesser (signed : Bool) (x y : Word) : Word :=
  if (if signed then decide (x.toInt ≤ y.toInt) else decide (x.toNat ≤ y.toNat)) then x else y

/-- The greater of two words. -/
def greater (signed : Bool) (x y : Word) : Word :=
  if (if signed then decide (x.toInt ≤ y.toInt) else decide (x.toNat ≤ y.toNat)) then y else x

/-- The two words of a 64-bit product of extended operands (13 Table 13-1, mulhi). -/
def product (signed : Bool) (x y : Word) : DWord :=
  if signed then x.signExtend 64 * y.signExtend 64 else x.zeroExtend 64 * y.zeroExtend 64

/-- `a + b` clamped (13 Table 13-1, adds). -/
def clampedSum (signed : Bool) (x y : Word) : Word :=
  if signed then BitVec.ofInt 32 (max (-(2 ^ 31)) (min (2 ^ 31 - 1) (x.toInt + y.toInt)))
  else BitVec.ofNat 32 (min (2 ^ 32 - 1) (x.toNat + y.toNat))

/-- Quotient and remainder of 13 R301. -/
def quotient (signed : Bool) (x y : Word) : Word :=
  if y = 0 then 0xFFFFFFFF
  else if signed then (if x = 0x80000000 ∧ y = 0xFFFFFFFF then 0x80000000 else x.sdiv y) else x / y

/-- The remainder. -/
def remainder (signed : Bool) (x y : Word) : Word :=
  if y = 0 then x
  else if signed then (if x = 0x80000000 ∧ y = 0xFFFFFFFF then 0 else x.srem y) else x % y

/-- Lanes that flag DIV0. -/
def Ctx.zeroDivisors (c : Ctx) (b : BitVec 7) : Word := maskOf (fun j => inMask c.act j && c.rd j b == 0)

/-- Lanes that flag DIVOVF. -/
def Ctx.overflows (c : Ctx) (signed : Bool) (a b : BitVec 7) : Word :=
  maskOf (fun j => inMask c.act j && signed && c.rd j a == 0x80000000 && c.rd j b == 0xFFFFFFFF)

/-- The field rule's extract (13 R299): a signed field is the residue nearest to zero. -/
def bitField (signed : Bool) (x y : Word) : Word :=
  let pos := min (y.toNat % 256) 32
  let len := min (y.toNat / 256 % 256) 32
  if signed then BitVec.ofInt 32 (Int.bmod (x.toInt / 2 ^ pos) (2 ^ len)) else BitVec.ofNat 32 (x.toNat / 2 ^ pos % 2 ^ len)

/-- The field rule's insert (13 R299), bit by bit. -/
def inserted (old x y : Word) : Word :=
  let pos := min (y.toNat % 256) 32
  let len := min (y.toNat / 256 % 256) 32
  maskOf (fun k => if pos ≤ k ∧ k < pos + len then x.getLsbD (k - pos) else old.getLsbD k)

/-- Result byte `k` of the byte rule (13 R300). -/
def chosenByte (sel x y : Word) (k : Nat) : Byte :=
  let n := (sel >>> (4 * k)).truncate 4
  let t : Byte := ((y ++ x : DWord) >>> (8 * (n.toNat % 8))).truncate 8
  if n.msb then (if t.msb then 0xFF else 0) else t

/-- Condition of cmp (02 Table 2-2), on integers. -/
def intHolds (c : Nat) (x y : Word) : Bool :=
  match c with
  | 0x0 => decide (x.toNat = y.toNat)
  | 0x1 => decide (x.toNat ≠ y.toNat)
  | 0x2 => decide (x.toInt < y.toInt)
  | 0x3 => decide (x.toInt ≤ y.toInt)
  | 0x4 => decide (x.toInt > y.toInt)
  | 0x5 => decide (x.toInt ≥ y.toInt)
  | 0x6 => decide (x.toNat < y.toNat)
  | 0x7 => decide (x.toNat ≤ y.toNat)
  | 0x8 => decide (x.toNat > y.toNat)
  | 0x9 => decide (x.toNat ≥ y.toNat)
  | 0xA => (List.range 32).any (fun k => x.getLsbD k && y.getLsbD k)
  | _ => (List.range 32).all (fun k => !(x.getLsbD k && y.getLsbD k))

/-- The predicates of a thread after a computed bit has entered `p` under `comb` (02 R31); a write to p0 is discarded
(02 R29). -/
def Thread.predsAfter (th : Thread) (p : BitVec 5) (k : BitVec 2) (b : Bool) : Word :=
  maskOf (fun n =>
    if n = p.toNat ∧ n ≠ 0 then
      (if k = 0 then b else if k = 1 then th.p.getLsbD n && b else th.p.getLsbD n || b)
    else th.p.getLsbD n)

/-- Lane values after an instruction that computes one predicate bit. -/
def Ctx.predBit (c : Ctx) (p : BitVec 5) (k : BitVec 2) (b : Nat → Bool) (j : Nat) : Word × Word × DWord :=
  ((c.S.lane j).predsAfter p k (b j), (c.S.lane j).gen, (c.S.lane j).clk)

/-- An instruction that computes one predicate bit per live thread completes. -/
def Decides (s : State) (i : Instr) (c : Ctx) (p : BitVec 5) (k : BitVec 2) (b : Nat → Bool) : Prop :=
  Completes s i c (fun _ => []) (c.predBit p k b)

/-- An imm8 field with its IMM hint, if the group has one: 8 or 30 bits (02 R39). -/
def Ctx.wideImm (c : Ctx) (signed : Bool) (i : BitVec 8) : Word :=
  match Hints.get c.issue.hints 0 with
  | some p =>
    let x : BitVec 30 := BitVec.ofNat 22 p ++ i
    if signed then x.signExtend 32 else x.zeroExtend 32
  | none => if signed then i.signExtend 32 else i.zeroExtend 32

/-- An integer clamped to a range. -/
def clamped (lo hi x : Int) : Word := BitVec.ofInt 32 (max lo (min hi x))

end Sys2Proof.Machine

open Sys2Proof Sys2Proof.Machine

/-! ### Integer instructions -/

/-- 13 R297, Table 13-1: sums, differences, products, negation and magnitude in each active lane, modulo 2^32, or modulo 2^64
over register pairs with m = 1; nothing else of the machine changes. -/
def Sys2Proof.Claims.IntegerArithmetic : Prop :=
  ∀ (s : State) (c : Ctx) (d a b : BitVec 7) (g : BitVec 3),
    (Issues s (.add d a b g 0) c →
      Gives s (.add d a b g 0) c (fun j => one d (BitVec.ofNat 32 ((c.rd j a).toNat + (c.rd j b).toNat)))) ∧
    (Issues s (.add d a b g 1) c → Gives s (.add d a b g 1) c (fun j => two d (c.rd2 j a + c.rd2 j b))) ∧
    (Issues s (.sub d a b g 0) c →
      Gives s (.sub d a b g 0) c (fun j => one d (BitVec.ofInt 32 ((c.rd j a).toNat - (c.rd j b).toNat)))) ∧
    (Issues s (.sub d a b g 1) c → Gives s (.sub d a b g 1) c (fun j => two d (c.rd2 j a - c.rd2 j b))) ∧
    (Issues s (.mul d a b g) c →
      Gives s (.mul d a b g) c (fun j => one d (BitVec.ofNat 32 ((c.rd j a).toNat * (c.rd j b).toNat)))) ∧
    (Issues s (.mad d a b g 0) c →
      Gives s (.mad d a b g 0) c
        (fun j => one d (BitVec.ofNat 32 ((c.rd j a).toNat * (c.rd j b).toNat + (c.rd j d).toNat)))) ∧
    (Issues s (.mad d a b g 1) c →
      Gives s (.mad d a b g 1) c
        (fun j => two d (BitVec.ofNat 64 ((c.rd j a).toNat * (c.rd j b).toNat + (c.rd2 j d).toNat)))) ∧
    (Issues s (.abs d a g) c → Gives s (.abs d a g) c (fun j => one d (BitVec.ofNat 32 (c.rd j a).toInt.natAbs))) ∧
    (Issues s (.neg d a g) c → Gives s (.neg d a g) c (fun j => one d (BitVec.ofInt 32 (-(c.rd j a).toInt))))

/-- 13 R297, Table 13-1: the high word of a product, the lesser and the greater of two words and the clamped sum, unsigned
with m = 0 and signed with m = 1. -/
def Sys2Proof.Claims.SignedAndUnsignedForms : Prop :=
  ∀ (s : State) (c : Ctx) (d a b : BitVec 7) (g : BitVec 3) (m : BitVec 1),
    (Issues s (.mulhi d a b g m) c →
      Gives s (.mulhi d a b g m) c (fun j => one d ((product (m == 1) (c.rd j a) (c.rd j b) >>> 32).truncate 32))) ∧
    (Issues s (.min d a b g m) c → Gives s (.min d a b g m) c (fun j => one d (lesser (m == 1) (c.rd j a) (c.rd j b)))) ∧
    (Issues s (.max d a b g m) c → Gives s (.max d a b g m) c (fun j => one d (greater (m == 1) (c.rd j a) (c.rd j b)))) ∧
    (Issues s (.adds d a b g m) c →
      Gives s (.adds d a b g m) c (fun j => one d (clampedSum (m == 1) (c.rd j a) (c.rd j b))))

/-- 13 R297, Table 13-1: the bitwise operations bit by bit, rotation, and the counts of one bits and leading zeros. -/
def Sys2Proof.Claims.BitwiseAndCounts : Prop :=
  ∀ (s : State) (c : Ctx) (d a b : BitVec 7) (g : BitVec 3),
    let bits (f : Bool → Bool → Bool) (j : Nat) :=
      one d (maskOf (fun k => f ((c.rd j a).getLsbD k) ((c.rd j b).getLsbD k)))
    (Issues s (.and d a b g) c → Gives s (.and d a b g) c (bits (fun x y => x && y))) ∧
    (Issues s (.or d a b g) c → Gives s (.or d a b g) c (bits (fun x y => x || y))) ∧
    (Issues s (.xor d a b g) c → Gives s (.xor d a b g) c (bits (fun x y => x != y))) ∧
    (Issues s (.andn d a b g) c → Gives s (.andn d a b g) c (bits (fun x y => x && !y))) ∧
    (Issues s (.rot d a b g) c →
      Gives s (.rot d a b g) c (fun j =>
        let n := (c.rd j b).toNat % 32
        one d (((c.rd j a) <<< n) ||| ((c.rd j a) >>> (32 - n))))) ∧
    (Issues s (.popc d a g) c →
      Gives s (.popc d a g) c (fun j =>
        one d (BitVec.ofNat 32 ((List.range 32).map (fun k => if (c.rd j a).getLsbD k then 1 else 0)).sum))) ∧
    (Issues s (.clz d a g) c →
      Gives s (.clz d a g) c (fun j =>
        one d (BitVec.ofNat 32 (if c.rd j a = 0 then 32 else 31 - Nat.log2 (c.rd j a).toNat)))) ∧
    (Issues s (.brev d a g) c →
      Gives s (.brev d a g) c (fun j => one d (maskOf (fun k => (c.rd j a).getLsbD (31 - k)))))

/-- Integer arithmetic, signed and unsigned forms, bitwise operations and counts complete with the results of Table 13-1. -/
def Obligations.IntegerOperations : Prop :=
  Sys2Proof.Claims.IntegerArithmetic ∧
  Sys2Proof.Claims.SignedAndUnsignedForms ∧
  Sys2Proof.Claims.BitwiseAndCounts

/-- 13 R298, the shift rule: the count is the whole of b, and a count of the width or more shifts every bit out. -/
def Sys2Proof.Claims.ShiftRule : Prop :=
  ∀ (s : State) (c : Ctx) (d a b : BitVec 7) (g : BitVec 3),
    (Issues s (.shl d a b g 0) c →
      Gives s (.shl d a b g 0) c (fun j =>
        one d (if (c.rd j b).toNat < 32 then BitVec.ofNat 32 ((c.rd j a).toNat * 2 ^ (c.rd j b).toNat) else 0))) ∧
    (Issues s (.shl d a b g 1) c →
      Gives s (.shl d a b g 1) c (fun j =>
        two d (if (c.rd j b).toNat < 64 then BitVec.ofNat 64 ((c.rd2 j a).toNat * 2 ^ (c.rd j b).toNat) else 0))) ∧
    (Issues s (.shr d a b g 0) c →
      Gives s (.shr d a b g 0) c (fun j =>
        one d (if (c.rd j b).toNat < 32 then BitVec.ofNat 32 ((c.rd j a).toNat / 2 ^ (c.rd j b).toNat) else 0))) ∧
    (Issues s (.shr d a b g 1) c →
      Gives s (.shr d a b g 1) c (fun j =>
        one d (if (c.rd j b).toNat < 32 then BitVec.ofInt 32 ((c.rd j a).toInt / 2 ^ (c.rd j b).toNat)
          else if (c.rd j a).toInt < 0 then 0xFFFFFFFF else 0)))

/-- 13 R299, the field rule. -/
def Sys2Proof.Claims.FieldRule : Prop :=
  ∀ (s : State) (c : Ctx) (d a b : BitVec 7) (g : BitVec 3),
    (∀ m : BitVec 1, Issues s (.bfx d a b g m) c →
      Gives s (.bfx d a b g m) c (fun j => one d (bitField (m == 1) (c.rd j a) (c.rd j b)))) ∧
    (Issues s (.bfi d a b g) c →
      Gives s (.bfi d a b g) c (fun j => one d (inserted (c.rd j d) (c.rd j a) (c.rd j b))))

/-- 13 R300, the byte rule: each result byte is the byte of b:a that its selector names, or that byte's sign. -/
def Sys2Proof.Claims.ByteRule : Prop :=
  ∀ (s : State) (c : Ctx) (d a b : BitVec 7) (g : BitVec 3), Issues s (.perm d a b g) c →
    Gives s (.perm d a b g) c (fun j =>
      let k := chosenByte (c.rd j d) (c.rd j a) (c.rd j b)
      one d (k 3 ++ k 2 ++ k 1 ++ k 0))

/-- shl, shr, bfx, bfi and perm complete with the results of the shift, field and byte rules. -/
def Obligations.ShiftFieldAndByteRules : Prop :=
  Sys2Proof.Claims.ShiftRule ∧
  Sys2Proof.Claims.FieldRule ∧
  Sys2Proof.Claims.ByteRule

/-- 13 R301, the division rule: with no flagged lane's trap enabled every active lane writes its own result; else the
instruction raises one precise trap, cause 0x08 before 0x09, whose mask holds the flagged lanes, and no lane writes. -/
def Obligations.DivisionRule : Prop :=
  ∀ (s : State) (c : Ctx) (d a b : BitVec 7) (g : BitVec 3) (m : BitVec 1),
    let z := c.zeroDivisors b
    let o := c.overflows (m == 1) a b
    let quiet := (c.amask.getLsbD 0 = false ∨ z = 0) ∧ (c.amask.getLsbD 1 = false ∨ o = 0)
    (Issues s (.div d a b g m) c → quiet →
      Gives s (.div d a b g m) c (fun j => one d (quotient (m == 1) (c.rd j a) (c.rd j b)))) ∧
    (Issues s (.rem d a b g m) c → quiet →
      Gives s (.rem d a b g m) c (fun j => one d (remainder (m == 1) (c.rd j a) (c.rd j b)))) ∧
    (∀ i, i = .div d a b g m ∨ i = .rem d a b g m → Issues s i c →
      (c.amask.getLsbD 0 = true → z ≠ 0 → exec i s = .next (s.raise c z 0x08 0 0 0)) ∧
      (c.amask.getLsbD 0 = false ∨ z = 0 → c.amask.getLsbD 1 = true → o ≠ 0 →
        exec i s = .next (s.raise c o 0x09 0 0 0))) ∧
    (∀ (L : Launch) (l company index : Nat) (p : Place), (L.troupe l company index p).amask = 0)

/-- 13 R302, Table 13-2: the immediate forms, with the IMM hint that addi, andi, ori and xori accept. -/
def Obligations.ImmediateForms : Prop :=
  ∀ (s : State) (c : Ctx) (d a : BitVec 7) (i : BitVec 8) (g : BitVec 3),
    (Issues s (.addi d a i g) c → Gives s (.addi d a i g) c (fun j => one d (c.rd j a + c.wideImm true i))) ∧
    (Issues s (.andi d a i g) c → Gives s (.andi d a i g) c (fun j => one d (c.rd j a &&& c.wideImm false i))) ∧
    (Issues s (.ori d a i g) c → Gives s (.ori d a i g) c (fun j => one d (c.rd j a ||| c.wideImm false i))) ∧
    (Issues s (.xori d a i g) c → Gives s (.xori d a i g) c (fun j => one d (c.rd j a ^^^ c.wideImm false i))) ∧
    (Issues s (.shli d a i g) c →
      Gives s (.shli d a i g) c (fun j => one d (BitVec.ofNat 32 ((c.rd j a).toNat * 2 ^ i.toNat)))) ∧
    (Issues s (.shri d a i g) c →
      Gives s (.shri d a i g) c (fun j => one d (BitVec.ofNat 32 ((c.rd j a).toNat / 2 ^ i.toNat))))

/-- 13 R303, R304 with 02 R31: compares and truth tables combine one bit into a predicate of every live thread of the figure;
a write to p0 is discarded, and no register changes. -/
def Obligations.ComparesAndPredicates : Prop :=
  ∀ (s : State) (c : Ctx) (p : BitVec 5) (n : BitVec 4) (k : BitVec 2),
    (∀ a b : BitVec 7, Issues s (.cmp p a b n k) c →
      Decides s (.cmp p a b n k) c p k (fun j => intHolds n.toNat (c.rd j a) (c.rd j b))) ∧
    (∀ a b : BitVec 5, Issues s (.pset p a b n k) c →
      Decides s (.pset p a b n k) c p k (fun j =>
        n.getLsbD (2 * (if (c.S.lane j).pred a.toNat then 1 else 0) + (if (c.S.lane j).pred b.toNat then 1 else 0))))

/-- 13 R305, R306 with 02 R44: select, moves and literals. A literal outside the code and literal sections is an illegal
instruction of reason 0x0B, met as the word is decoded, before it gathers or waits (02 R53); one whose page or granule fails takes that
cause as a fetch does (04 R78), and one that is read is fetched through its home. -/
def Sys2Proof.Claims.SelectAndMoves : Prop :=
  ∀ (s : State) (c : Ctx) (d : BitVec 7),
    (∀ (a b : BitVec 7) (g : BitVec 3), Issues s (.sel d a b g) c →
      Gives s (.sel d a b g) c (fun j =>
        one d (if guardOf c.issue.hints g.toNat (c.S.lane j) then c.rd j a else c.rd j b))) ∧
    (∀ (a : BitVec 7) (g : BitVec 3), Issues s (.mov d a g) c → Gives s (.mov d a g) c (fun j => one d (c.rd j a))) ∧
    (∀ i : BitVec 18, Issues s (.movi d i) c →
      Gives s (.movi d i) c (fun _ => one d (match Hints.get c.issue.hints 0 with
        | some p => ((BitVec.ofNat 22 p ++ i : BitVec 40)).truncate 32
        | none => i.signExtend 32))) ∧
    (∀ n : BitVec 9, Issues s (.movu d n) c →
      Gives s (.movu d n) c (fun _ => one d ((c.T.first.getD n.toNat 0).truncate 32))) ∧
    (∀ (i : BitVec 18) (code : Code), Issues s (.ldc d i) c → s.codeOf c.issue.agent = some code →
      let off : Int := c.issue.word + 4 * immS c.issue.hints 18 i.toNat
      (0 ≤ off ∧ code.desc.inObject off.toNat 4 = true → s.fetchBad code off.toNat = none →
        ∃ t, exec (.ldc d i) s = .next (t.fetched code off.toNat 4) ∧
          Effect s t (.ldc d i) c (fun _ => one d (s.codeWord code off.toNat)) c.old) ∧
      (off < 0 ∨ code.desc.inObject off.toNat 4 = false →
        exec (.ldc d i) s = .next (s.raise { c with issue := s.groupEnd c.issue } c.mask 0x01 0x0B 0 0))) ∧
    (∀ (i : BitVec 18) (f : Figure) (u : Issue) (code : Code), s.figure? = some (f, u) → s.codeOf u.agent = some code →
      let off : Int := u.word + 4 * immS u.hints 18 i.toNat
      (off < 0 ∨ code.desc.inObject off.toNat 4 = false →
        exec (.ldc d i) s = .next ((s.raiseAny 0x01 0x0B 0).getD s.endIssue)) ∧
      (∀ cause, 0 ≤ off ∧ code.desc.inObject off.toNat 4 = true → s.fetchBad code off.toNat = some cause →
        exec (.ldc d i) s = .next ((s.unread u off.toNat cause).getD s.endIssue)))

/-- 13 R307, Table 13-3: every width conversion, saturating when it narrows. -/
def Sys2Proof.Claims.WidthConversions : Prop :=
  ∀ (s : State) (c : Ctx) (d a : BitVec 7) (g : BitVec 3),
    let gives (n : BitVec 7) (f : Word → Word) : Prop :=
      Issues s (.cvti d a n g) c → Gives s (.cvti d a n g) c (fun j => one d (f (c.rd j a)))
    gives 0x00 (fun x => (x.truncate 8).signExtend 32) ∧
    gives 0x01 (fun x => (x.truncate 16).signExtend 32) ∧
    gives 0x02 (fun x => (x.truncate 8).zeroExtend 32) ∧
    gives 0x03 (fun x => (x.truncate 16).zeroExtend 32) ∧
    (Issues s (.cvti d a 0x04 g) c → Gives s (.cvti d a 0x04 g) c (fun j => two d ((c.rd j a).signExtend 64))) ∧
    (Issues s (.cvti d a 0x05 g) c → Gives s (.cvti d a 0x05 g) c (fun j => two d ((c.rd j a).zeroExtend 64))) ∧
    gives 0x06 (fun x => clamped (-128) 127 x.toInt) ∧
    gives 0x07 (fun x => clamped (-32768) 32767 x.toInt) ∧
    gives 0x08 (fun x => clamped 0 255 x.toInt) ∧
    gives 0x09 (fun x => clamped 0 65535 x.toInt) ∧
    gives 0x0A (fun x => clamped 0 255 x.toNat) ∧
    gives 0x0B (fun x => clamped 0 65535 x.toNat) ∧
    (Issues s (.cvti d a 0x0C g) c →
      Gives s (.cvti d a 0x0C g) c (fun j => one d (clamped (-(2 ^ 31)) (2 ^ 31 - 1) (c.rd2 j a).toInt))) ∧
    (Issues s (.cvti d a 0x0D g) c →
      Gives s (.cvti d a 0x0D g) c (fun j => one d (clamped 0 (2 ^ 32 - 1) (c.rd2 j a).toNat))) ∧
    gives 0x0E (fun x => clamped 0 (2 ^ 31 - 1) x.toNat) ∧
    gives 0x0F (fun x => if x.toInt < 0 then 0 else x)

/-- sel, the moves, the literals and the width conversions complete with their results. -/
def Obligations.MovesAndConversions : Prop :=
  Sys2Proof.Claims.SelectAndMoves ∧
  Sys2Proof.Claims.WidthConversions

/-! ### Floating point -/

namespace Sys2Proof.Machine

/-- Lane values after an instruction that rounds `n` elements: under `.rs` the generator has taken `n` steps (14 R319). -/
def Ctx.stepped (c : Ctx) (n j : Nat) : Word × Word × DWord :=
  ((c.S.lane j).p, if c.mode = 4 then c.random j (n - 1) else (c.S.lane j).gen, (c.S.lane j).clk)

/-- A rounded FP32 instruction gives the sum of its terms, formed exactly and rounded once. -/
def RoundsSum (s : State) (i : Instr) (c : Ctx) (d : BitVec 7) (terms : Nat → List Fp) : Prop :=
  Issues s i c →
    Completes s i c
      (fun j => one d (BitVec.ofNat 32 (fp32.round c.mode c.sat (c.random j 0) (Fp.sum (c.mode == 3) (terms j)))))
      (c.stepped 1)

/-- A packed instruction does the same for each 16-bit element of its format. -/
def RoundsPair (s : State) (i : Instr) (c : Ctx) (d : BitVec 7) (F : Fmt) (terms : Nat → Nat → List Fp) : Prop :=
  Issues s i c →
    Completes s i c
      (fun j =>
        let e (k : Nat) := F.round c.mode c.sat (c.random j k) (Fp.sum (c.mode == 3) (terms j k))
        one d (BitVec.ofNat 32 (e 0 + 2 ^ 16 * e 1)))
      (c.stepped 2)

/-- Is `x` below `y` for fmin and fmax, where −0 is below +0 (14 R324)? -/
def floatBelow (F : Fmt) (x y : Nat) : Bool :=
  (F.value x).compare (F.value y) == some .lt ||
    ((F.value x).compare (F.value y) == some .eq && decide (F.sign ≤ x % (2 * F.sign)) && decide (y % (2 * F.sign) < F.sign))

/-- fmin or fmax of two codes (14 R324). -/
def floatPick (F : Fmt) (most : Bool) (x y : Nat) : Nat :=
  if F.value x = .nan ∧ F.value y = .nan then F.nan.getD 0
  else if F.value x = .nan then y
  else if F.value y = .nan then x
  else if most then (if floatBelow F x y then y else x)
  else (if floatBelow F y x then y else x)

/-- A condition of fcmp (02 Table 2-2) on the outcome of a comparison. -/
def floatHolds (c : Nat) (o : Option Ordering) : Bool :=
  match c with
  | 0x0 => o = some .eq
  | 0x1 => o = none ∨ o = some .lt ∨ o = some .gt
  | 0x2 => o = some .lt
  | 0x3 => o = some .lt ∨ o = some .eq
  | 0x4 => o = some .gt
  | 0x5 => o = some .gt ∨ o = some .eq
  | 0x6 => o = none ∨ o = some .lt
  | 0x7 => o = none ∨ o = some .lt ∨ o = some .eq
  | 0x8 => o = none ∨ o = some .gt
  | 0x9 => o = none ∨ o = some .gt ∨ o = some .eq
  | 0xA => o ≠ none
  | _ => o = none

/-- The class bit of an FP32 word (14 Table 14-3), from its sign, exponent and fraction. -/
def classBit (x : Word) : Nat :=
  let e := (x >>> 23).truncate 8
  let f := x.truncate 23
  if e = 0xFF then (if f = 0 then (if x.msb then 0 else 7) else (if x.msb then 9 else 8))
  else if e = 0 then (if f = 0 then (if x.msb then 3 else 4) else (if x.msb then 2 else 5))
  else (if x.msb then 1 else 6)

/-- The floating format of an fcvt kind (14 Table 14-4). -/
def formatOf (kind : Nat) : Fmt := [bf16, fp16, e4m3, e5m2, e2m1].getD (kind % 5) fp32

end Sys2Proof.Machine

/-- 14 R323: fadd, fsub, fmul and ffma form the exact sum of their terms and round it once, under the mode and the saturation of
the ROUND hint; under `.rs` the generator takes one step. -/
def Sys2Proof.Claims.FloatArithmetic : Prop :=
  ∀ (s : State) (c : Ctx) (d a b : BitVec 7) (g : BitVec 3),
    let x (j : Nat) := f32 (c.rd j a)
    let y (j : Nat) := f32 (c.rd j b)
    RoundsSum s (.fadd d a b g) c d (fun j => [x j, y j]) ∧
    RoundsSum s (.fsub d a b g) c d (fun j => [x j, (y j).neg]) ∧
    RoundsSum s (.fmul d a b g) c d (fun j => [(x j).mul (y j)]) ∧
    RoundsSum s (.ffma d a b g) c d (fun j => [(x j).mul (y j), f32 (c.rd j d)])

/-- 14 R327, R328: the packed forms do the same for each element, rounding once into the element's own format; hmax2 takes the
greater. -/
def Sys2Proof.Claims.PackedArithmetic : Prop :=
  ∀ (s : State) (c : Ctx) (d a b : BitVec 7) (g : BitVec 3) (m : BitVec 1),
    let F := if m = 1 then fp16 else bf16
    let at' (r : BitVec 7) (j k : Nat) : Fp := F.value ((c.rd j r).toNat / 2 ^ (16 * k) % 2 ^ 16)
    RoundsPair s (.hadd2 d a b g m) c d F (fun j k => [at' a j k, at' b j k]) ∧
    RoundsPair s (.hmul2 d a b g m) c d F (fun j k => [(at' a j k).mul (at' b j k)]) ∧
    RoundsPair s (.hfma2 d a b g m) c d F (fun j k => [(at' a j k).mul (at' b j k), at' d j k]) ∧
    (Issues s (.hmax2 d a b g m) c →
      Gives s (.hmax2 d a b g m) c (fun j =>
        let e (k : Nat) := floatPick F true ((c.rd j a).toNat / 2 ^ (16 * k) % 2 ^ 16) ((c.rd j b).toNat / 2 ^ (16 * k) % 2 ^ 16)
        one d (BitVec.ofNat 32 (e 0 + 2 ^ 16 * e 1))))

/-- FP32 and packed 16-bit arithmetic round the exact result once. -/
def Obligations.FloatAndPackedArithmetic : Prop :=
  Sys2Proof.Claims.FloatArithmetic ∧
  Sys2Proof.Claims.PackedArithmetic

/-- 14 R324-R326, R329: fmin and fmax return an operand unchanged, fcmp compares by value, fclass sets one bit, and frint keeps
zeros, infinities and integral values, makes a NaN canonical, and rounds any other value to a whole number of units. -/
def Sys2Proof.Claims.FloatSelectAndClassify : Prop :=
  ∀ (s : State) (c : Ctx) (d a b : BitVec 7) (g : BitVec 3),
    (Issues s (.fmin d a b g) c →
      Gives s (.fmin d a b g) c (fun j =>
        one d (BitVec.ofNat 32 (floatPick fp32 false (c.rd j a).toNat (c.rd j b).toNat)))) ∧
    (Issues s (.fmax d a b g) c →
      Gives s (.fmax d a b g) c (fun j =>
        one d (BitVec.ofNat 32 (floatPick fp32 true (c.rd j a).toNat (c.rd j b).toNat)))) ∧
    (∀ (p : BitVec 5) (n : BitVec 4) (k : BitVec 2), Issues s (.fcmp p a b n k) c →
      Decides s (.fcmp p a b n k) c p k (fun j => floatHolds n.toNat ((f32 (c.rd j a)).compare (f32 (c.rd j b))))) ∧
    (Issues s (.fclass d a g) c →
      Gives s (.fclass d a g) c (fun j => one d (BitVec.ofNat 32 (2 ^ classBit (c.rd j a))))) ∧
    (Issues s (.frint d a g) c →
      Completes s (.frint d a g) c (fun j =>
        one d (match f32 (c.rd j a) with
          | .nan => 0x7FC00000
          | .inf _ => c.rd j a
          | .num n m e =>
            if 0 ≤ e ∨ m = 0 then c.rd j a
            else BitVec.ofNat 32 (fp32.near (.num n (roundUnits c.mode n (c.random j 0) m e 0) 0)))) (c.stepped 1))

/-- 14 R330-R333: conversions between floating formats, to integers and from integers. A widening fcvt takes no ROUND hint; a
narrowing one writes one element and keeps every other bit of vd. -/
def Sys2Proof.Claims.FloatConversions : Prop :=
  ∀ (s : State) (c : Ctx) (d a : BitVec 7) (n : BitVec 7) (g : BitVec 3),
    let kind := n.toNat % 16
    let k := n.toNat / 16
    let F := formatOf kind
    let w := F.bits
    (Issues s (.fcvt d a n g) c → kind < 5 → c.mode ≠ 4 →
      Gives s (.fcvt d a n g) c (fun j =>
        one d (BitVec.ofNat 32 (fp32.near (F.value ((c.rd j a).toNat / 2 ^ (w * k) % 2 ^ w)))))) ∧
    (Issues s (.fcvt d a n g) c → 5 ≤ kind → kind < 10 → w * k + w ≤ 32 →
      Completes s (.fcvt d a n g) c (fun j =>
        let code := BitVec.ofNat 32 (F.narrow c.mode c.sat (c.random j 0) (f32 (c.rd j a)))
        one d (maskOf (fun b =>
          if w * k ≤ b ∧ b < w * k + w then code.getLsbD (b - w * k) else (c.rd j d).getLsbD b))) (c.stepped 1)) ∧
    (Issues s (.ficvt d a n g) c →
      Completes s (.ficvt d a n g) c (fun j =>
        let x (lo hi : Int) := toInteger c.mode (c.random j 0) lo hi (f32 (c.rd j a))
        match n.toNat with
        | 0 => one d (BitVec.ofInt 32 (x (-(2 ^ 31)) (2 ^ 31 - 1)))
        | 1 => one d (BitVec.ofInt 32 (x 0 (2 ^ 32 - 1)))
        | 2 => two d (BitVec.ofInt 64 (x (-(2 ^ 63)) (2 ^ 63 - 1)))
        | 3 => two d (BitVec.ofInt 64 (x 0 (2 ^ 64 - 1)))
        | 4 => one d (BitVec.ofInt 32 (x (-128) 127))
        | 5 => one d (BitVec.ofInt 32 (x 0 255))
        | 6 => one d (BitVec.ofInt 32 (x (-32768) 32767))
        | _ => one d (BitVec.ofInt 32 (x 0 65535))) (c.stepped 1)) ∧
    (Issues s (.ifcvt d a n g) c →
      Completes s (.ifcvt d a n g) c (fun j =>
        let x : Int := match n.toNat with
          | 0 => (c.rd j a).toInt
          | 1 => (c.rd j a).toNat
          | 2 => (c.rd2 j a).toInt
          | _ => (c.rd2 j a).toNat
        one d (BitVec.ofNat 32 (fp32.round c.mode false (c.random j 0) (.num (decide (x < 0)) x.natAbs 0)))) (c.stepped 1))

/-- fmin, fmax, fcmp, fclass, frint and the conversions give their results. -/
def Obligations.FloatSelectionsAndConversions : Prop :=
  Sys2Proof.Claims.FloatSelectAndClassify ∧
  Sys2Proof.Claims.FloatConversions

/-- 14 R334 with 12 R288, R289: the eight special functions give their function of the FP32 value, at once or in the window that
the lookahead count opens. -/
def Sys2Proof.Claims.SpecialFunctions : Prop :=
  ∀ (s : State) (c : Ctx) (d a : BitVec 7) (h : BitVec 4) (g : BitVec 3),
    let gives (i : Instr) (f : Fp → Nat) : Prop :=
      Issues s i c → Gives s i c (fun j => one d (BitVec.ofNat 32 (f (f32 (c.rd j a)))))
    gives (.rcp d a h g) rcpF ∧ gives (.rsqrt d a h g) rsqrtF ∧ gives (.sqrt d a h g) sqrtF ∧ gives (.ex2 d a h g) ex2F ∧
    gives (.lg2 d a h g) lg2F ∧ gives (.sinpi d a h g) sinpiF ∧ gives (.cospi d a h g) cospiF ∧ gives (.tanh d a h g) tanhF

/-- 12 R289, Table 12-5: the results of the special functions at special inputs: NaN, zeros and infinities, negative numbers under a root or
a logarithm, a reciprocal or a power of two beyond the format, the logarithm of 1, and multiples of one half; and at whole powers of two and
small integers, where the exact value is a power of two. -/
def Sys2Proof.Claims.SpecialFunctionInputs : Prop :=
  (∀ f ∈ [rcpF, rsqrtF, sqrtF, ex2F, lg2F, sinpiF, cospiF, tanhF], f .nan = 0x7FC00000) ∧
  (∀ (n : Bool) (e : Int),
    let sign := if n then 0x80000000 else 0
    rcpF (.num n 0 e) = sign + 0x7F800000 ∧ rcpF (.inf n) = sign ∧ rsqrtF (.num n 0 e) = sign + 0x7F800000 ∧
    sqrtF (.num n 0 e) = sign ∧ lg2F (.num n 0 e) = 0xFF800000 ∧ sinpiF (.num n 0 e) = sign ∧
    sinpiF (.inf n) = 0x7FC00000 ∧ cospiF (.inf n) = 0x7FC00000 ∧ tanhF (.num n 0 e) = sign ∧
    tanhF (.inf n) = sign + 0x3F800000) ∧
  (∀ (m : Nat) (e : Int), m ≠ 0 →
    rsqrtF (.num true m e) = 0x7FC00000 ∧ sqrtF (.num true m e) = 0x7FC00000 ∧ lg2F (.num true m e) = 0x7FC00000) ∧
  rsqrtF (.inf false) = 0 ∧ sqrtF (.inf false) = 0x7F800000 ∧ lg2F (.inf false) = 0x7F800000 ∧ lg2F (.inf true) = 0x7FC00000 ∧
  rsqrtF (.inf true) = 0x7FC00000 ∧ sqrtF (.inf true) = 0x7FC00000 ∧ ex2F (.inf true) = 0 ∧ ex2F (.inf false) = 0x7F800000 ∧
  (∀ (n : Bool) (m : Nat), 0 < m → m < 2 ^ 21 → rcpF (.num n m (-149)) = (if n then 0x80000000 else 0) + 0x7F800000) ∧
  (∀ (m : Nat) (e : Int), 2 ^ 23 ≤ m → m < 2 ^ 24 → (-16 ≤ e → ex2F (.num false m e) = 0x7F800000) ∧
    (-15 ≤ e → ex2F (.num true m e) = 0)) ∧
  (∀ (n : Bool) (m : Nat), 0 < m → m < 256 → ex2F (.num n m 0) = fp32.near (.num false 1 (if n then -(m : Int) else m))) ∧
  (∀ (b : Nat) (e : Int), lg2F (.num false (2 ^ b) e) = fp32.near (ofInteger (b + e))) ∧
  (∀ b : Nat, lg2F (.num false (2 ^ b) (-(b : Int))) = 0) ∧
  (∀ (m : Nat) (e : Int), m ≠ 0 → 0 ≤ e → ∀ n : Bool, sinpiF (.num n m e) = if n then 0x80000000 else 0) ∧
  (∀ (m : Nat) (n : Bool),
    cospiF (.num n (2 * m) 0) = 0x3F800000 ∧ cospiF (.num n (2 * m + 1) 0) = 0xBF800000 ∧
      cospiF (.num n (2 * m + 1) (-1)) = 0)

/-- 12 R280, R288: rcp, sqrt and rsqrt give, for every finite positive FP32 value, the exact value rounded once by round_ne, and rcp is odd. -/
def Sys2Proof.Claims.AlgebraicRounding : Prop :=
  ∀ (m : Nat) (e : Int), 0 < m → m < 2 ^ 24 →
    let x : ℝ := (m : ℝ) * 2 ^ e
    Rounds (rcpF (.num false m e)) x⁻¹ ∧ Rounds (sqrtF (.num false m e)) (Real.sqrt x) ∧ Rounds (rsqrtF (.num false m e)) (Real.sqrt x)⁻¹ ∧
    rcpF (.num true m e) = 0x80000000 + rcpF (.num false m e)

/-- The special functions complete, give their results at special inputs, and rcp, sqrt and rsqrt are correctly rounded. -/
def Obligations.SpecialFunctionResults : Prop :=
  Sys2Proof.Claims.SpecialFunctions ∧
  Sys2Proof.Claims.SpecialFunctionInputs ∧
  Sys2Proof.Claims.AlgebraicRounding

/-- 12 R280, R288: the other five special functions settle their result between two dyadic numbers that enclose the exact value, and where
both ends round to one code at a precision that they try, that code is the exact value rounded once by round_ne. The enclosures are those of
powers of two, logarithms, π, sines, cosines and exponentials. -/
def Obligations.TranscendentalRounding : Prop :=
  let encloses (S : Span) (v : ℝ) : Prop := (S.lo : ℝ) ≤ v * 2 ^ S.p ∧ v * 2 ^ S.p ≤ (S.hi : ℝ)
  let code (neg : Bool) (n p : Nat) : Nat := fp32.near (.num neg n (-(p : Int)))
  let power (q w r : Nat) : Span :=
    { lo := exBits false q w r (2 ^ (q + 1)) (2 ^ q), hi := exBits true q w r (2 ^ (q + 1)) (2 ^ q), p := q }
  let logarithm (q m : Nat) : Span :=
    let y := m * 2 ^ (3 * q - Nat.log2 m)
    { lo := lgBits false (3 * q) q y 0, hi := lgBits true (3 * q) q y 0 + 1, p := q }
  (∀ (f : Nat → Span) (v : ℝ) (qs : List Nat), (∀ q ∈ qs, encloses (f q) v) →
    (∃ q ∈ qs, code false (f q).lo (f q).p = code false (f q).hi (f q).p) →
    Rounds (settle false f qs) v ∧ settle true f qs = 0x80000000 + settle false f qs) ∧
  (∀ q w r : Nat, r < 2 ^ w → encloses (power q w r) ((2 : ℝ) ^ ((r : ℝ) / 2 ^ w))) ∧
  (∀ q m : Nat, 0 < m → m ≠ 2 ^ Nat.log2 m → Nat.log2 m ≤ 3 * q →
    encloses (logarithm q m) (Real.logb 2 ((m : ℝ) / 2 ^ Nat.log2 m))) ∧
  (∀ p : Nat, 0 < p → encloses (piSpan p) Real.pi) ∧
  (∀ w r q : Nat, 0 < r → 2 * r < 2 ^ w → 80 ≤ q → encloses (trigSpan true w r q) (Real.sin (Real.pi * r / 2 ^ w)) ∧
    encloses (trigSpan false w r q) (Real.cos (Real.pi * r / 2 ^ w))) ∧
  (∀ p y : Nat, 160 ≤ p → y ≤ 32 * 2 ^ p → |(expTerms p y p 0 (2 ^ p) : ℝ) - 2 ^ p * Real.exp ((y : ℝ) / 2 ^ p)| ≤ 2 ^ 48) ∧
  (∀ (m w k r : Nat), 0 < m → m = k * 2 ^ w + r → 0 < r → r < 2 ^ w → Nat.log2 m < 8 + w → w ≤ Nat.log2 m + 30 →
    ex2F (.num false m (-(w : Int))) = settle false (fun q => { power q w r with
      lo := (power q w r).lo * 2 ^ k, hi := (power q w r).hi * 2 ^ k }) precisions) ∧
  (∀ (m : Nat) (e : Int), 0 < m → m ≠ 2 ^ Nat.log2 m →
    let k := (Nat.log2 m : Int) + e
    (0 ≤ k → lg2F (.num false m e) = settle false (fun q =>
      { logarithm q m with lo := k.toNat * 2 ^ q + (logarithm q m).lo, hi := k.toNat * 2 ^ q + (logarithm q m).hi }) precisions) ∧
    (k < 0 → lg2F (.num false m e) = settle true (fun q =>
      { logarithm q m with lo := (-k).toNat * 2 ^ q - (logarithm q m).hi, hi := (-k).toNat * 2 ^ q - (logarithm q m).lo }) precisions)) ∧
  (∀ (n : Bool) (m w : Nat), 0 < w → 0 < m % 2 ^ w → 2 * (m % 2 ^ w) < 2 ^ w →
    sinpiF (.num n m (-(w : Int))) = settle (n != decide (2 ^ w ≤ m % 2 ^ (w + 1))) (trigSpan true w (m % 2 ^ w)) precisions ∧
    (w ≤ 60 → cospiF (.num n m (-(w : Int))) = settle (decide (2 ^ w ≤ m % 2 ^ (w + 1))) (trigSpan false w (m % 2 ^ w)) precisions)) ∧
  (∀ (n : Bool) (m : Nat) (e : Int), 0 < m → m < 2 ^ 24 → -13 ≤ (Nat.log2 m : Int) + e → (Nat.log2 m : Int) + e < 4 →
    let x (q : Nat) : Nat := expTerms (2 * q) (m * 2 ^ (e + 2 * q + 1).toNat) (2 * q) 0 (2 ^ (2 * q))
    let tangent (q : Nat) : Span :=
      { lo := (x q - 2 ^ 48 - 2 ^ (2 * q)) * 2 ^ (2 * q) / (x q + 2 ^ 48 + 2 ^ (2 * q))
        hi := (x q + 2 ^ 48 - 2 ^ (2 * q)) * 2 ^ (2 * q) / (x q - 2 ^ 48 + 2 ^ (2 * q)) + 1, p := 2 * q }
    tanhF (.num n m e) = settle n tangent precisions ∧ ∀ q, 80 ≤ q → encloses (tangent q) (Real.tanh ((m : ℝ) * 2 ^ e)))

/-- 12 R280, Table 12-2: rounding `m` units of `2 ^ e` to units of `2 ^ (e + k)` gives a nearest multiple, the even one at a tie;
toward zero and the directed modes give the multiple on their side. -/
def Sys2Proof.Claims.RoundingModes : Prop :=
  ∀ (neg : Bool) (g : Word) (m k : Nat) (e : Int), 0 < k →
    let t (mode : Nat) := roundUnits mode neg g m e (e + k)
    (2 * (t 0 * 2 ^ k) ≤ 2 * m + 2 ^ k ∧ 2 * m ≤ 2 * (t 0 * 2 ^ k) + 2 ^ k) ∧
    ((2 * (t 0 * 2 ^ k) = 2 * m + 2 ^ k ∨ 2 * m = 2 * (t 0 * 2 ^ k) + 2 ^ k) → t 0 % 2 = 0) ∧
    (t 1 * 2 ^ k ≤ m ∧ m < (t 1 + 1) * 2 ^ k) ∧
    (∀ mode, mode = 2 ∨ mode = 3 →
      if neg = decide (mode = 3) then m ≤ t mode * 2 ^ k ∧ t mode * 2 ^ k < m + 2 ^ k
      else t mode * 2 ^ k ≤ m ∧ m < (t mode + 1) * 2 ^ k) ∧
    (t 4 = m / 2 ^ k ∨ t 4 = m / 2 ^ k + 1)

/-- 12 R274, R280: in each of the six formats, rounding the value of a code gives the code back, in every mode: an exact result is
never changed. -/
def Sys2Proof.Claims.ExactResultsUnchanged : Prop :=
  ∀ F ∈ [fp32, bf16, fp16, e4m3, e5m2, e2m1], ∀ (code mode : Nat) (sat : Bool) (g : Word) (n : Bool) (m : Nat) (e : Int),
    code < 2 ^ F.bits → F.value code = .num n m e → F.round mode sat g (.num n m e) = code

/-- 12 R285, R287, 14 R336: rng steps the generator of each active lane and returns its output; rngs seeds it, and never
with 0. -/
def Sys2Proof.Claims.Generator : Prop :=
  ∀ (s : State) (c : Ctx) (d a : BitVec 7) (g : BitVec 3),
    let step (x : Word) : Word :=
      let x1 := x ^^^ (x <<< 13)
      let x2 := x1 ^^^ (x1 >>> 17)
      x2 ^^^ (x2 <<< 5)
    (Issues s (.rng d g) c →
      Completes s (.rng d g) c (fun j => one d (step (c.S.lane j).gen))
        (fun j => ((c.S.lane j).p, step (c.S.lane j).gen, (c.S.lane j).clk))) ∧
    (Issues s (.rngs a g) c →
      Completes s (.rngs a g) c (fun _ => [])
        (fun j =>
          let x := c.rd j a + 0x9E3779B9 * BitVec.ofNat 32 (globalIndex c.T (s.launchOf c.T).desc.troupes c.k j + 1)
          ((c.S.lane j).p, if x = 0 then 1 else x, (c.S.lane j).clk)))

/-- Rounding gives a nearest or directed multiple, and leaves every representable value as it is; rng and rngs step and seed the generator of each active lane. -/
def Obligations.RoundingIsCorrect : Prop :=
  Sys2Proof.Claims.RoundingModes ∧
  Sys2Proof.Claims.ExactResultsUnchanged ∧
  Sys2Proof.Claims.Generator

/-- 14 R337: dot4 adds the four products of bytes, signed or unsigned, to its accumulator modulo 2^32. -/
def Obligations.DotProduct : Prop :=
  ∀ (s : State) (c : Ctx) (d a b : BitVec 7) (g : BitVec 3) (m : BitVec 1), Issues s (.dot4 d a b g m) c →
    Gives s (.dot4 d a b g m) c (fun j =>
      let ext (x : Word) (k : Nat) : Word :=
        let t : Byte := (x >>> (8 * k)).truncate 8
        if m = 1 then t.signExtend 32 else t.zeroExtend 32
      let p (k : Nat) := ext (c.rd j a) k * ext (c.rd j b) k
      one d (c.rd j d + p 0 + p 1 + p 2 + p 3))

/-! ### Cross-lane instructions and special values -/

namespace Sys2Proof.Machine

/-- A node of the tree of 12 R291 over leaves that may be absent, `n` levels above the leaves: its two halves combine, and an
absent half leaves the other. -/
def treeNode {α : Type} (f : α → α → α) (leaf : Nat → Option α) : Nat → Nat → Option α
  | 0, i => leaf i
  | n + 1, i =>
    match treeNode f leaf n (2 * i), treeNode f leaf n (2 * i + 1) with
    | some x, some y => some (f x y)
    | some x, none => some x
    | none, y => y

/-- The leaf of lane `j` for sred and sscan: a register, or a pair for code 0x0B. -/
def Ctx.leafOf (c : Ctx) (code : Nat) (a : BitVec 7) (j : Nat) : DWord :=
  if code = 11 then c.rd2 j a else (c.rd j a).zeroExtend 64

/-- The tree's value over the active lanes that satisfy `here`: the identity of Table 13-5 without one, and a floating NaN
made canonical. -/
def Ctx.reduced (c : Ctx) (code : Nat) (a : BitVec 7) (here : Nat → Bool) : DWord :=
  canonical code ((treeNode (nodeOp code)
    (fun i => if inMask c.act i && here i then some (c.leafOf code a i) else none) 5 0).getD (nodeId code))

/-- Register `a` of lane `k` when it is a live lane, else lane `j`'s own (13 R313, R314). -/
def Ctx.partner (c : Ctx) (j k : Nat) (a : BitVec 7) : Word :=
  if k ≤ 31 ∧ inMask c.S.live k = true then c.rd k a else c.rd j a

/-- The vote terms of the live lanes (13 R312). -/
def Ctx.votes (c : Ctx) (a : BitVec 5) (n : BitVec 4) : List Bool :=
  ((List.range 32).filter (inMask c.S.live)).map (fun k => (c.S.lane k).pred a.toNat != n.getLsbD 0)

end Sys2Proof.Machine

/-- 13 R311, R312: ballot, the votes and the election, over the live lanes of the whole set. -/
def Obligations.BallotsAndVotes : Prop :=
  ∀ (s : State) (c : Ctx) (p : BitVec 5) (k : BitVec 2),
    (∀ (d : BitVec 7) (a : BitVec 5) (g : BitVec 3), Issues s (.ballot d a g) c →
      Gives s (.ballot d a g) c (fun _ =>
        one d (maskOf (fun j => inMask c.act j && (c.S.lane j).pred a.toNat)))) ∧
    (∀ (a : BitVec 5) (n : BitVec 4), Issues s (.vany p a n k) c →
      Decides s (.vany p a n k) c p k (fun _ => (c.votes a n).any (fun b => b))) ∧
    (∀ (a : BitVec 5) (n : BitVec 4), Issues s (.vall p a n k) c →
      Decides s (.vall p a n k) c p k (fun _ => (c.votes a n).all (fun b => b))) ∧
    (Issues s (.elect p 0 k) c →
      Decides s (.elect p 0 k) c p k (fun j =>
        inMask c.S.live j && (List.range j).all (fun i => !inMask c.S.live i))) ∧
    (Issues s (.elect p 1 k) c →
      Decides s (.elect p 1 k) c p k (fun j =>
        inMask c.S.live j && (List.range 32).all (fun i => i ≤ j || !inMask c.S.live i)))

/-- 13 R313: shfl gives each active lane the register of the lane it names when that lane is live, else its own, as read at
issue. -/
def Obligations.Shuffle : Prop :=
  ∀ (s : State) (c : Ctx) (d a b : BitVec 7) (g : BitVec 3), Issues s (.shfl d a b g) c →
    Gives s (.shfl d a b g) c (fun j => one d (c.partner j (c.rd j b).toNat a))

/-- 13 R314, R315: the quad exchanges and the match mask. -/
def Sys2Proof.Claims.QuadsAndMatches : Prop :=
  ∀ (s : State) (c : Ctx) (d a b : BitVec 7) (g : BitVec 3),
    (b.toNat < 3 → Issues s (.qswp d a b g) c →
      Gives s (.qswp d a b g) c (fun j => one d (c.partner j (j ^^^ (b.toNat + 1)) a))) ∧
    (b.toNat < 4 → Issues s (.qbcast d a b g) c →
      Gives s (.qbcast d a b g) c (fun j => one d (c.partner j (4 * (j / 4) + b.toNat) a))) ∧
    (Issues s (.matchLanes d a 0 g) c →
      Gives s (.matchLanes d a 0 g) c (fun j =>
        one d (maskOf (fun k => inMask c.act k && c.rd k a == c.rd j a)))) ∧
    (Issues s (.matchLanes d a 1 g) c →
      Gives s (.matchLanes d a 1 g) c (fun j =>
        one d (maskOf (fun k => inMask c.act k && c.rd2 k a == c.rd2 j a))))

/-- 13 R316 with 12 R291: reductions and scans combine the active lanes along the fixed tree; an inclusive scan leaves out the
lanes above, an exclusive one the lane itself too. -/
def Sys2Proof.Claims.TreeReductions : Prop :=
  ∀ (s : State) (c : Ctx) (d a n : BitVec 7) (g : BitVec 3),
    let out (code : Nat) (x : DWord) := if code = 11 then two d x else one d (x.truncate 32)
    (Issues s (.sred d a n g) c →
      Gives s (.sred d a n g) c (fun _ => out n.toNat (c.reduced n.toNat a (fun _ => true)))) ∧
    (n.toNat < 64 → Issues s (.sscan d a n g) c →
      Gives s (.sscan d a n g) c (fun j => out n.toNat (c.reduced n.toNat a (fun i => i ≤ j)))) ∧
    (64 ≤ n.toNat → Issues s (.sscan d a n g) c →
      Gives s (.sscan d a n g) c (fun j => out (n.toNat - 64) (c.reduced (n.toNat - 64) a (fun i => i < j))))

/-- Quad exchanges, match masks, tree reductions and scans give their results. -/
def Obligations.QuadsMatchesAndTrees : Prop :=
  Sys2Proof.Claims.QuadsAndMatches ∧
  Sys2Proof.Claims.TreeReductions

/-- 13 R308, R309, Table 13-4: special values of the step stream. Reading the clock latches the whole count in the thread. -/
def Obligations.SpecialValues : Prop :=
  ∀ (s : State) (c : Ctx) (d : BitVec 7),
    let gives (n : BitVec 18) (f : Nat → Nat) : Prop :=
      Issues s (.sysr d n) c → Gives s (.sysr d n) c (fun j => one d (BitVec.ofNat 32 (f j)))
    let L := s.launchOf c.T
    gives 0x00 (fun j => j) ∧ gives 0x01 (fun j => j / 4) ∧ gives 0x02 (fun j => j % 4) ∧ gives 0x03 (fun _ => c.k) ∧
    gives 0x04 (fun _ => c.T.index) ∧ gives 0x05 (fun _ => c.T.company) ∧
    gives 0x06 (fun _ => L.coord c.T.company 0) ∧ gives 0x07 (fun _ => L.coord c.T.company 1) ∧
    gives 0x08 (fun _ => L.coord c.T.company 2) ∧
    gives 0x09 (fun j => ((c.T.company * L.desc.troupes + c.T.index) * c.T.sets + c.k) * 32 + j) ∧
    gives 0x0A (fun j => if isHelper L c.T c.k j then 1 else 0) ∧ gives 0x10 (fun _ => c.T.sets) ∧
    gives 0x11 (fun _ => L.desc.troupes) ∧ gives 0x12 (fun _ => L.extent 0) ∧ gives 0x13 (fun _ => L.extent 1) ∧
    gives 0x14 (fun _ => L.extent 2) ∧ gives 0x18 (fun j => 2 ^ j) ∧
    gives 0x19 (fun j => 2 ^ j - 1) ∧ gives 0x1A (fun j => 2 ^ (j + 1) - 1) ∧ gives 0x1B (fun j => 2 ^ 32 - 2 ^ (j + 1)) ∧
    gives 0x1C (fun j => 2 ^ 32 - 2 ^ j) ∧ gives 0x1D (fun _ => c.S.live.toNat) ∧
    gives 0x20 (fun _ => if c.T.place.isUnit then 0 else c.S.txCode) ∧
    (Issues s (.sysr d 0x40) c →
      Completes s (.sysr d 0x40) c (fun _ => one d (s.cycle.truncate 32))
        (fun j => ((c.S.lane j).p, (c.S.lane j).gen, s.cycle))) ∧
    gives 0x41 (fun j => (c.S.lane j).clk.toNat / 2 ^ 32) ∧ gives 0x42 (fun _ => c.T.place.tag) ∧
    gives 0x43 (fun _ => c.T.place.slice) ∧ gives 0x44 (fun _ => L.world)

/-! ### Memory instructions -/

namespace Sys2Proof.Machine

/-- Does a read or an atomic go to its target: not that of a line of a live range (06 R135)? -/
def Ctx.farLane (s : State) (c : Ctx) (j : Nat) (a : BitVec 7) : Bool :=
  s.far (s.launchOf c.T) (isSystem c.issue.hints) (c.va j a) (s.dpaOf (s.launchOf c.T) (c.va j a))

/-- Does a lane of a load find its line in its L1: not past it by a bypass hint, nor in a live range, nor in a group that is not up (06
R135; 07 R146; 25 R485)? -/
def Ctx.inL1 (s : State) (c : Ctx) (j : Nat) (a : BitVec 7) : Bool :=
  let L := s.launchOf c.T
  (cacheOf c.issue.hints).1 != 3 && !s.live L.world L.tcid (c.va j a) (s.dpaOf L (c.va j a)) &&
    !s.groupDown (s.dpaOf L (c.va j a)) && (s.coreAt c.T.place.coreNo).hits L.world L.tcid (c.va j a) false

/-- May an active lane of a load read now (07 R145, R146, R149; 11 R245, R246)? At its target once the answer has come without
an error; else from a live range, a line that its L1 holds, past its L1 where the CACHE hint asks it, or at a bank once its miss
has ended in an error; and nothing that it reads fails. -/
def Ctx.readable (s : State) (c : Ctx) (j : Nat) (a : BitVec 7) : Prop :=
  let L := s.launchOf c.T
  let C := s.coreAt c.T.place.coreNo
  let va := c.va j a
  let dpa := s.dpaOf L va
  if Ctx.farLane s c j a then ∃ x, c.S.answers.get? j = some x ∧ answerBad x = none
  else
    (Ctx.inL1 s c j a = true ∨ s.live L.world L.tcid va dpa = true ∨
      (2 ≤ (cacheOf c.issue.hints).1 ∧ (isOutside dpa = false ∨ (s.copies.get? (lineKey L.world (dpa / 128))).isSome = true)) ∨
      (isOutside dpa = false ∧ (C.missErr L.world L.tcid va).isSome = true)) ∧
    (Ctx.inL1 s c j a = true ∨
      ((isOutside dpa = true → C.missErr L.world L.tcid va = none) ∧ s.readFault L.world dpa = none))

/-- The machine once the homes have served a load's reads (06 R122, R134), under the MSC policy of its hint. -/
def Ctx.homesRead (s : State) (c : Ctx) (a : BitVec 7) (n : Nat) : State :=
  let L := s.launchOf c.T
  (s.onCore c.T.place.coreNo (fun C => C.clearErrs L.world L.tcid (c.lanes.map (fun j => c.va j a / 128)))).homeReads L.world
    ((c.lanes.filter (fun j => !Ctx.farLane s c j a && !Ctx.inL1 s c j a)).map (fun j => (s.dpaOf L (c.va j a), n)))
    (cacheOf c.issue.hints).2

/-- The machine as a load leaves it but for its set: the homes have served its reads, and the accesses that reach the L1 are counted
for hotness samples (07 R162). -/
def Ctx.afterLoad (s : State) (c : Ctx) (a : BitVec 7) (n : Nat) : State :=
  (Ctx.homesRead s c a n).samples c 0 ((c.lanes.filter (fun j => !Ctx.farLane s c j a)).map (fun j => c.va j a)) false

/-- Byte `i` that lane `j` loads: its own chunk's latest store there, else the committed value, or its target's answer
(10 R215, R233; 11 R246). -/
def Ctx.loaded (s : State) (c : Ctx) (a : BitVec 7) (n j i : Nat) : Byte :=
  let L := s.launchOf c.T
  let x := s.dpaOf L (c.va j a) + i
  if Ctx.farLane s c j a then
    (c.S.chunk.bind (fun k => storeByte k.stores x (if k.tx.isSome then some j else none))).getD
      (BitVec.ofNat 8 (byteOf (c.S.answers.getD j 0) i))
  else (Ctx.afterLoad s c a n).loadByte c.S L.world j x

/-- The set after a load's read signature, transaction lines and unverified data (10 R216, R232, R234). -/
def Ctx.afterReads (s : State) (c : Ctx) (a : BitVec 7) : SetState :=
  let L := s.launchOf c.T
  let line (j : Nat) := s.dpaOf L (c.va j a) / 128
  let signed := c.lanes.filter (fun j =>
    (cacheOf c.issue.hints).1 != 1 && s.sealState L.world L.tcid (c.va j a) != 1)
  (c.S.forget c.lanes).reading (signed.map line) (c.lanes.map (fun j => (j, line j))) 
    (s.unvOf L.world (addAll [] (c.lanes.map line)))

/-- The scratchpad place of a lane's access. -/
def Ctx.padAt (s : State) (c : Ctx) (j : Nat) (a : BitVec 7) (n : Nat) : Nat × Nat := s.spadOf c (c.sp j a) n

end Sys2Proof.Machine

/-- 11 R240, R243 with 07 R157, R158: an active lane that fails a check of its access stops the whole instruction with one
precise trap, of cause 0x20 when some lane fails its lease check, else of the lowest failing lane, whose mask holds every failing
lane; nothing of the instruction takes effect. -/
def Sys2Proof.Claims.AccessesAreChecked : Prop :=
  ∀ (s : State) (c : Ctx) (d a : BitVec 7) (h : BitVec 4) (g : BitVec 3) (m : BitVec 4) (k : Word) (f : LaneBad),
    let L := s.launchOf c.T
    let va (j : Nat) := c.va j a
    let traps (i : Instr) (lanes : List Nat) (check : Nat → Option LaneBad) : Prop :=
      Issues s i c → report (lanes.filterMap check) = some (k, f) →
        exec i s = .next (s.raise c k f.cause f.reason f.addr f.info)
    traps (.ld d a h g m) c.lanes (fun j => s.laneBad L .load j (va j) (widthOf m.toNat)) ∧
    traps (.st d a g m) (s.doers c) (fun j => s.writeBad L j (va j) (widthOf m.toNat)) ∧
    traps (.amo d a h g m) (s.doers c) (fun j =>
      s.atomicBad L (Ctx.farLane s c j a) (amoCode m.toNat).1 j (va j) (amoCode m.toNat).2) ∧
    traps (.red d a g m) (s.doers c) (fun j =>
      let op := (redCode m.toNat).1
      let w := (redCode m.toNat).2
      match (s.world L.world).rangeAt L.tcid (va j) with
      | some r =>
        let R := (s.world L.world).rngs.getD r Rng0
        (s.laneBad L .store j (va j) w).orElse (fun _ =>
          if rangeTakes R.fmt m.toNat = true ∧ va j % R.width = 0 then none
          else some { lane := j, cause := 0x2C, reason := 0, addr := va j, info := 0 })
      | none => s.atomicBad L (Ctx.farLane s c j a) op j (va j) w) ∧
    traps (.lds d a h g m) c.lanes (fun j => s.spadBad c j (c.sp j a) (widthOf m.toNat)) ∧
    traps (.sts d a g m) (s.doers c) (fun j => s.spadBad c j (c.sp j a) (widthOf m.toNat)) ∧
    (∀ fs : List LaneBad, report fs = some (k, f) →
      f ∈ fs ∧ ((∃ x ∈ fs, x.cause = 0x20) → f.cause = 0x20) ∧
      (∀ x ∈ fs, (x.cause = 0x20 ∨ f.cause ≠ 0x20) → f.lane ≤ x.lane) ∧
      (∀ i, i < 32 → (inMask k i = true ↔ ∃ x ∈ fs, x.lane = i ∧ (x.cause = 0x20 ∨ f.cause ≠ 0x20))))

/-- 07 R157, Table 7-6 and 11 R240: the checks of one lane's memory access, in order: the lease, alignment, W, COW, P, a
compute-capable page, an address beyond the carve. An access passes when, and only when, all of them do. A write meets a sealed buffer after them
(06 R137), and an atomic an operation that its target does not take last (11 R251). -/
def Sys2Proof.Claims.CheckOrder : Prop :=
  ∀ (s : State) (L : Launch) (k : Kind) (j va w : Nat), k = .load ∨ k = .store →
    (∀ e, s.leaseOf L k va = .error e → s.laneBad L k j va w = some { lane := j, cause := e.1, reason := e.2, addr := va, info := 0 }) ∧
    (∀ l, s.leaseOf L k va = .ok l →
      let p := l.page va
      let x := p.dpa + va % 4096
      let bad (cause : Nat) : Option LaneBad := some { lane := j, cause := cause, reason := 0, addr := va, info := 0 }
      s.laneBad L k j va w =
        if va % w ≠ 0 then bad 0x29
        else if k = .store ∧ p.w = false then bad 0x22
        else if k = .store ∧ p.cow = true then bad 0x23
        else if p.p = true then bad 0x21
        else if s.computeCapable x = true then bad 0x39
        else if s.beyondCarve x = true then bad 0x3A
        else none) ∧
    s.writeBad L j va w = (match s.laneBad L .store j va w with
      | some b => some b
      | none => if s.sealState L.world L.tcid va = 1 then some { lane := j, cause := 0x2D, reason := 1, addr := va, info := 0 }
        else none) ∧
    (∀ (far : Bool) (op : Nat), s.atomicBad L far op j va w = (match s.writeBad L j va w with
      | some b => some b
      | none => if far = true then (farAtomicBad op (s.dpaOf L va)).map (fun r =>
          { lane := j, cause := 0x2A, reason := r, addr := va, info := 0 }) else none))

/-- A failing lane stops a memory access with one precise trap, by the checks in their order. -/
def Obligations.MemoryChecks : Prop :=
  Sys2Proof.Claims.AccessesAreChecked ∧
  Sys2Proof.Claims.CheckOrder

/-- 11 R243, R245, R246: a load whose lanes pass their checks and can read completes: each active lane's register group gets the
bytes at its address, extended as mod says; the homes take and serve the lines it reads, and give up others (06 R122). -/
def Sys2Proof.Claims.LoadsComplete : Prop :=
  ∀ (s : State) (c : Ctx) (d a : BitVec 7) (h : BitVec 4) (g : BitVec 3) (m : BitVec 4),
    let n := widthOf m.toNat
    Issues s (.ld d a h g m) c →
    (∀ j, inMask c.act j = true → s.laneBad (s.launchOf c.T) .load j (c.va j a) n = none ∧ Ctx.readable s c j a) →
    (Ctx.homesRead s c a n).lostChunk c = false →
    CompletesFrom s (Ctx.afterLoad s c a n) (.ld d a h g m) { c with S := Ctx.afterReads s c a }
      (fun j => loadRegs m.toNat d.toNat ((List.range n).map (Ctx.loaded s c a n j))) c.old

/-- 11 R243-R247: a store whose lanes pass their checks puts its bytes, at the addresses its lanes compute, at the end of its chunk's store
queue, those for link targets also at the end of what goes out there, and marks their lines; no byte of memory and no register changes until
the chunk commits and drains. -/
def Sys2Proof.Claims.StoresComplete : Prop :=
  ∀ (s : State) (c : Ctx) (d a : BitVec 7) (g : BitVec 3) (m : BitVec 4),
    let L := s.launchOf c.T
    let n := widthOf m.toNat
    let lanes := s.doers c
    let dpa (j : Nat) := s.dpaOf L (c.va j a)
    let writes := addAll ((c.S.chunk.map (·.writes)).getD []) (addAll [] (lanes.map (fun j => dpa j / 128)))
    let store (j : Nat) : Store :=
      { dpa := dpa j, va := c.va j a, bytes := c.storeBytes m.toNat j d, lane := j
        sys := s.atTarget (isSystem c.issue.hints) (dpa j), rel := isSystem c.issue.hints && isRelease c.issue.hints
        l1 := (cacheOf c.issue.hints).1, msc := (cacheOf c.issue.hints).2 }
    let vas := lanes.map (fun j => c.va j a)
    Issues s (.st d a g m) c →
    (∀ j ∈ lanes, s.laneBad L .store j (c.va j a) n = none ∧ s.sealState L.world L.tcid (c.va j a) = 0) →
    writes.length ≤ 128 →
    CompletesFrom s ((s.samples c 1 vas true).writeMisses c vas) (.st d a g m)
      { c with S := c.S.onChunk (fun k =>
          ({ k with
              stored := true, writes := writes, stores := k.stores ++ lanes.map store
              outs := k.outs ++ ((lanes.map store).filter (fun (x : Store) => x.sys)).map Eff.store }).touch
            (lanes.map (fun j => (j, dpa j / 128, true)))) }
      (fun _ => []) c.old

/-- Loads give the bytes of their addresses; stores put theirs into the chunk. -/
def Obligations.LoadsAndStores : Prop :=
  Sys2Proof.Claims.LoadsComplete ∧
  Sys2Proof.Claims.StoresComplete

/-- 11 R243, R244 with 08 R168, R171: scratchpad loads and stores. A lane whose line is empty stalls the instruction, which closes its chunk
(10 R214); the bytes of a store wait in its chunk. -/
def Obligations.ScratchpadAccesses : Prop :=
  ∀ (s : State) (c : Ctx) (d a : BitVec 7) (h : BitVec 4) (g : BitVec 3) (m : BitVec 4),
    let n := widthOf m.toNat
    let pad (j : Nat) := Ctx.padAt s c j a n
    let empty := c.lanes.filter (fun j => !(s.lineSeen c.S (pad j).1 ((pad j).2 / 128)).1)
    let wake (j : Nat) : Wake := .line (pad j).1 ((pad j).2 / 128)
    let uses (lanes : List Nat) (any : Bool) := lanes.map (fun j => ((pad j).1, (pad j).2, (pad j).2 + n, any))
    (Issues s (.lds d a h g m) c →
      (∀ j, inMask c.act j = true → s.spadBad c j (c.sp j a) n = none) → s.pending c (meetsAny (uses c.lanes false)) = false →
      (empty = [] → CompletesFrom s s (.lds d a h g m)
        { c with S := c.S.onChunk (fun k =>
            ({ k with spReads := addAll k.spReads (c.lanes.map (fun j => ((pad j).1, (pad j).2 / 128))) }).touch
              (c.lanes.map (fun j => (j, padKey (pad j).1 ((pad j).2 / 128), false)))) }
        (fun j => loadRegs m.toNat d.toNat
          ((List.range n).map (fun b => s.loadSpad c.S j (pad j).1 ((pad j).2 + b)))) c.old) ∧
      (empty ≠ [] → exec (.lds d a h g m) s = .next (s.stall c.t c.k c.mask (majorOf (.lds d a h g m)) (fun j =>
        if (Instr.lds d a h g m).namesPort = true then addAll [] (empty.map wake) else if j ∈ empty then [wake j] else [])))) ∧
    (Issues s (.sts d a g m) c →
      (∀ j ∈ s.doers c, s.spadBad c j (c.sp j a) n = none) → s.pending c (meetsAny (uses (s.doers c) true)) = false →
      CompletesFrom s s (.sts d a g m)
        { c with S := c.S.onChunk (fun k =>
            ({ k with
                stored := true
                spStores := k.spStores ++ (s.doers c).map (fun j =>
                  ({ troupe := (pad j).1, off := (pad j).2, bytes := c.storeBytes m.toNat j d, lane := j } : SpStore))
                spWrites := addAll k.spWrites ((s.doers c).map (fun j => ((pad j).1, (pad j).2 / 128))) }).touch
              ((s.doers c).map (fun j => (j, padKey (pad j).1 ((pad j).2 / 128), true)))) }
        (fun _ => []) c.old)

/-- 11 R249, R251, 06 R129: an atomic whose lanes pass their checks sends one operation per lane, in lane order, to its home or
its target, and its lanes wait for the old values; an atomic that no lane performs completes at once. -/
def Sys2Proof.Claims.AtomicsIssue : Prop :=
  ∀ (s : State) (c : Ctx) (d a : BitVec 7) (h : BitVec 4) (g : BitVec 3) (m : BitVec 4),
    let i : Instr := .amo d a h g m
    let L := s.launchOf c.T
    let op := (amoCode m.toNat).1
    let w := (amoCode m.toNat).2
    let lanes := s.doers c
    let dpa (j : Nat) := s.dpaOf L (c.va j a)
    let nears := lanes.filter (fun j => !Ctx.farLane s c j a)
    let ask (t : State) (j : Nat) : State :=
      let x := c.atomArgs op w j d
      if Ctx.farLane s c j a then t.send (.atomic op w x.1 x.2) (.set c.t c.k j c.issue.group) L.world (dpa j) c.T.launch (c.va j a)
      else
        t.enqueue
          { seq := 0, asker := .lane c.t c.k j, world := L.world, tcid := L.tcid, va := c.va j a, dpa := dpa j, op := op
            width := w, cmp := x.1, val := x.2 }
    let vas := nears.map (fun j => c.va j a)
    Issues s i c →
    (∀ j ∈ lanes, s.laneBad L .store j (c.va j a) w = none ∧ s.sealState L.world L.tcid (c.va j a) = 0 ∧
      (Ctx.farLane s c j a = true → farAtomicBad op (dpa j) = none)) →
    (lanes = [] → Gives s i c (fun _ => [])) ∧
    (lanes ≠ [] →
      (∀ j ∈ nears, s.queued (s.home L.world (dpa j / 128)) + nears.length ≤ 128 ∧
        s.redsHeld s.drains (s.home L.world (dpa j / 128)) = false) →
      (isSystem c.issue.hints = true ∨ nears ≠ lanes → isRelease c.issue.hints = true → s.acked c.t c.k = true) →
      exec i s = .next ((lanes.foldl ask ((s.samples c 2 vas true).writeMisses c vas)).await c i lanes d.toNat w (fun j => c.va j a)))

/-- 11 R250, R251, 06 R132: a reduction waits in its chunk until the commit, with its value, its order and the live range it
contributes to, one for a target or with release order, and those behind it, among what goes out in order; no memory changes. -/
def Sys2Proof.Claims.ReductionsBuffer : Prop :=
  ∀ (s : State) (c : Ctx) (d a : BitVec 7) (g : BitVec 3) (m : BitVec 4),
    let L := s.launchOf c.T
    let op := (redCode m.toNat).1
    let w := (redCode m.toNat).2
    let lanes := s.doers c
    let va (j : Nat) := c.va j a
    let dpa (j : Nat) := s.dpaOf L (va j)
    let range (j : Nat) := (s.world L.world).rangeAt L.tcid (va j)
    let far (j : Nat) : Bool := (range j).isNone && s.atTarget (isSystem c.issue.hints) (dpa j)
    let reds := lanes.map (fun j =>
      ({ lane := j, dpa := dpa j, va := va j, op := op, width := w, val := (c.atomArgs op w j d).2, sys := far j
         rel := (isSystem c.issue.hints || far j) && isRelease c.issue.hints, range := range j } : Red))
    let vas := (lanes.filter (fun j => !far j)).map va
    Issues s (.red d a g m) c →
    (∀ j ∈ lanes, s.laneBad L .store j (va j) w = none ∧ s.sealState L.world L.tcid (va j) = 0 ∧
      match range j with
      | some r =>
        let R := (s.world L.world).rngs.getD r Rng0
        rangeTakes R.fmt m.toNat = true ∧ va j % R.width = 0
      | none => far j = true → farAtomicBad op (dpa j) = none) →
    CompletesFrom s ((s.samples c 3 vas true).writeMisses c vas) (.red d a g m)
      { c with S := c.S.onChunk (fun k =>
          ({ k with reds := k.reds ++ reds, outs := k.outs ++
              (reds.filter (fun (r : Red) => r.range.isNone && (r.sys || r.rel || k.outs.any Eff.nearRed))).map Eff.red }).touch
            (lanes.map (fun j => (j, dpa j / 128, true)))) }
      (fun _ => []) c.old

/-- Atomics go to their homes or targets; reductions wait for the commit. -/
def Obligations.AtomicsAndReductions : Prop :=
  Sys2Proof.Claims.AtomicsIssue ∧
  Sys2Proof.Claims.ReductionsBuffer

/-! ### Synchronisation, transactions and buffers -/

namespace Sys2Proof.Machine

/-- The machine once the homes have served the words of a memory wait (06 R122, R134). -/
def Ctx.wordsRead (s : State) (c : Ctx) (a : BitVec 7) : State :=
  let L := s.launchOf c.T
  s.homeReads L.world ((c.lanes.filter (fun j => !Ctx.farLane s c j a)).map (fun j => (s.dpaOf L (c.va j a), 4))) 0

/-- The word that lane `j` of a memory wait meets, if it may be taken: the committed one, once its integrity check has ended
(10 R232), or its target's answer (11 R254). -/
def Ctx.waitWord (s : State) (c : Ctx) (a : BitVec 7) (j : Nat) : Option Nat :=
  let L := s.launchOf c.T
  if s.anyUnverified L.world [s.dpaOf L (c.va j a) / 128] then none
  else if Ctx.farLane s c j a then c.S.answers.get? j
  else some ((Ctx.wordsRead s c a).seenNat L.world (s.dpaOf L (c.va j a)) 4)

/-- Arrivals at barrier objects, in lane order (11 R259): the state, and each lane's generation. -/
def arrivals (s : State) (w : Nat) (dpa : Nat → Nat) : List Nat → State × Tab Nat
  | [] => (s, [])
  | j :: js =>
    let p := s.arrive w (dpa j)
    let q := arrivals p.1 w dpa js
    (q.1, (j, p.2) :: q.2)

/-- Do seals take effect one after the other, none of them failing (06 R137)? -/
def sealsPass (w tcid l : Nat) : State → List (Nat × Nat) → Prop
  | _, [] => True
  | s, e :: es => ∃ t, s.sealNow w tcid l e.1 e.2 = .ok t ∧ sealsPass w tcid l t es

end Sys2Proof.Machine

/-- 11 R253, R254: a wait. Lanes whose word meets the condition go on; the others keep their place, and all of them do while one
fails where the instruction names a queue port, since one issue then serves the set (09 R202, R203). Words in memory are the committed
ones, and a target's where the lane reads there; words in scratchpad are read once their line is full. -/
def Sys2Proof.Claims.WaitsComplete : Prop :=
  ∀ (s : State) (c : Ctx) (d a : BitVec 7) (g : BitVec 3) (m : BitVec 3),
    let L := s.launchOf c.T
    let far (j : Nat) : Bool := Ctx.farLane s c j a
    let meets (j x : Nat) : Bool := waitCond m.toNat (BitVec.ofNat 32 x) (c.rd j d)
    let no := notYet (.wait d a g 0 m) c.lanes (fun j => (Ctx.waitWord s c a j).any (meets j))
    let pad (j : Nat) := Ctx.padAt s c j a 4
    let word (j : Nat) : Nat := leNat ((List.range 4).map (fun b => s.loadSpad c.S j (pad j).1 ((pad j).2 + b)))
    let stay := notYet (.wait d a g 1 m) c.lanes (fun j => s.lineFull (pad j).1 (pad j).2 && meets j (word j))
    (Issues s (.wait d a g 0 m) c →
      (∀ j, inMask c.act j = true → s.laneBad L .load j (c.va j a) 4 = none ∧
        (if far j then ∃ x, c.S.answers.get? j = some x ∧ answerBad x = none
         else s.readFault L.world (s.dpaOf L (c.va j a)) = none)) →
      no.length < c.lanes.length ∨ no = [] →
      CompletesFrom s (Ctx.wordsRead s c a) (.wait d a g 0 m)
        (({ c with S := c.S.forget (c.lanes.filter far) } : Ctx).without no (fun j =>
          if far j then .poll else .until [.word (s.dpaOf L (c.va j a)) m.toNat (c.rd j d)]))
        (fun _ => []) c.old) ∧
    (Issues s (.wait d a g 1 m) c →
      (∀ j, inMask c.act j = true → s.spadBad c j (c.sp j a) 4 = none) →
      stay.length < c.lanes.length ∨ stay = [] →
      CompletesFrom s s (.wait d a g 1 m)
        (c.without stay (fun j => .until [.pad (pad j).1 (pad j).2 m.toNat (c.rd j d)])) (fun _ => []) c.old)

/-- 11 R256, R258 with 05 R110: a fence completes once, at system scope on a core, the set's link requests are acknowledged and
its chunks have drained, and, on a near-bank unit with release order, its stores have reached their banks. It changes no value. -/
def Sys2Proof.Claims.FencesComplete : Prop :=
  ∀ (s : State) (c : Ctx) (g : BitVec 3), Issues s (.fence g) c →
    (c.act ≠ 0 →
      (c.T.place.isUnit = true →
        s.nbStores c.t c.k c.T = false ∨ ((scopeOf c.issue.hints).2 ≠ 0 ∧ isRelease c.issue.hints = false)) ∧
      (c.T.place.isUnit = false → isSystem c.issue.hints = true → s.acked c.t c.k = true)) →
    Gives s (.fence g) c (fun _ => [])

/-- wait and fence complete when their conditions hold. -/
def Obligations.WaitsAndFences : Prop :=
  Sys2Proof.Claims.WaitsComplete ∧
  Sys2Proof.Claims.FencesComplete

/-- 11 R258-R261: barrier objects. Arrivals take effect in lane order and each gives its lane the generation; a wait lets go the
lanes whose object has left their generation, and moves the objects to the sync stores of their homes (06 R128). -/
def Sys2Proof.Claims.BarriersComplete : Prop :=
  ∀ (s : State) (c : Ctx) (d a : BitVec 7) (h : BitVec 4) (g : BitVec 3),
    let L := s.launchOf c.T
    let dpa (j : Nat) := s.dpaOf L (c.va j a)
    let lanes := s.doers c
    let s0 := s.homeReads L.world (lanes.map (fun j => (dpa j, 32))) 0
    let s1 := c.lanes.foldl (fun t j => t.toSync L.world (dpa j / 128)) (s.homeReads L.world (c.lanes.map (fun j => (dpa j + 8, 4))) 0)
    let p := arrivals s0 L.world dpa lanes
    let no := notYet (.barWait d a g) c.lanes (fun j => BitVec.ofNat 32 (s1.seenNat L.world (dpa j + 8) 4) != c.rd j d)
    (Issues s (.barArrive d a h g) c →
      (∀ j ∈ lanes, s.barBad L .store j (c.va j a) = none ∧
        s0.sealState L.world L.tcid (c.va j a) = 0 ∧
        s0.barInvalid L.world (dpa j) = false ∧ s0.lineBusy L.world (dpa j / 128) = false) →
      (lanes ≠ [] →
        (c.T.place.isUnit = true → s0.nbStores c.t c.k c.T = false) ∧ (∀ x ∈ s0.drains, ¬ (x.troupe = c.t ∧ x.set = c.k)) ∧
        (isSystem c.issue.hints = true ∧ isRelease c.issue.hints = true → s0.acked c.t c.k = true)) →
      CompletesFrom s p.1 (.barArrive d a h g) c
        (fun j => if lanes.contains j then [(d.toNat, BitVec.ofNat 32 (Tab.getD p.2 j 0))] else []) c.old) ∧
    (Issues s (.barWait d a g) c →
      (∀ j, inMask c.act j = true → s.barBad L .load j (c.va j a) = none) →
      no.length < c.lanes.length ∨ no = [] →
      CompletesFrom s s1 (.barWait d a g)
        (c.without no (fun j => .until [.word (dpa j + 8) 1 (c.rd j d)])) (fun _ => []) c.old)

/-- 11 R258, R259: an arrival adds 1 to COUNT and answers the generation; at EXPECTED it sets COUNT to 0 and adds 1 to GEN. Its
home writes those twelve bytes, and no other byte changes there. -/
def Sys2Proof.Claims.ArrivalWrites : Prop :=
  ∀ (s : State) (w a : Nat),
    let count := s.seenNat w a 4
    let expected := s.seenNat w (a + 4) 4
    let gen := s.seenNat w (a + 8) 4
    let last : Bool := count + 1 == expected
    s.arrive w a =
      ((((s.homeWrite w (runTab a (leBytes 4 (if last then 0 else count + 1) ++ leBytes 4 expected ++
        leBytes 4 (if last then (gen + 1) % 2 ^ 32 else gen % 2 ^ 32)))).1).expose w [a / 128]).toSync w (a / 128), gen)

/-- Barrier arrivals and waits, and the words that they write. -/
def Obligations.Barriers : Prop :=
  Sys2Proof.Claims.BarriersComplete ∧
  Sys2Proof.Claims.ArrivalWrites

/-! ### Transactions, seals and cache lines -/

/-- 11 R262-R265, 10 R233-R235: a transaction begins with its fallback target recorded and tx.code 0; at its end the stores and reductions
of the winning lanes stay, what is left commits as one transaction still, and each active lane's predicate takes whether it lost; an abort
takes the fallback with its code. Outside a transaction the end and the abort trap. -/
def Sys2Proof.Claims.Transactions : Prop :=
  ∀ (s : State) (c : Ctx) (o : BitVec 19) (p : BitVec 5) (k : BitVec 2) (i : BitVec 8) (g : BitVec 3),
    let win := txWinners ((c.S.chunk.map (·.touched)).getD []) c.lanes
    let S := c.S.onChunk (fun q =>
      let sts := q.stores.filter (fun e => win.contains e.lane)
      let sps := q.spStores.filter (fun e => win.contains e.lane)
      { q with
        stores := sts, spStores := sps
        reds := q.reds.filter (fun r => win.contains r.lane), outs := q.outs.filter (Eff.ofLanes win)
        writes := q.writes.filter (fun l => sts.any (fun e => e.dpa / 128 == l))
        spWrites := q.spWrites.filter (fun e => sps.any (fun x => x.troupe == e.1 && x.off / 128 == e.2) ||
          q.fe.any (fun x => x.troupe == e.1 && x.line == e.2)) })
    (Issues s (.txBeg o) c →
      CompletesFrom s s (.txBeg o)
        { c with S := { c.S with
            txCode := 0
            chunk := c.S.chunk.map (fun q => { q with tx := some (wrap 32 (sbTarget c.issue o)) }) } } (fun _ => []) c.old) ∧
    (Issues s (.txEnd p k) c →
      (c.S.inTx = false → exec (.txEnd p k) s = .next (s.raise c c.mask 0x62 0 0 0)) ∧
      (c.S.inTx = true → ∃ t R,
        exec (.txEnd p k) s = .next t ∧ OnlySet s c (SetState.close R) t ∧
        Lanes { c with S := S } (.txEnd p k) R (fun _ => [])
          (fun j => (((c.S.lane j).predsAfter p k (!win.contains j)), (c.S.lane j).gen, (c.S.lane j).clk)) ∧
        KeepsChunk { c with S := S } (.txEnd p k) R)) ∧
    (Issues s (.txAbort i g) c →
      (c.act = 0 → Gives s (.txAbort i g) c (fun _ => [])) ∧
      (c.act ≠ 0 → c.S.inTx = true → exec (.txAbort i g) s = .next (s.fallback c.t c.k 0x01 i.toNat).endIssue) ∧
      (c.act ≠ 0 → c.S.inTx = false → exec (.txAbort i g) s = .next (s.raise c c.act 0x62 0 0 0)))

/-- 10 R235, 11 R265: a fallback discards the chunk, gives `tx.code` the kind and the code, and sends every live thread to the
target; after kinds 0x02 and 0x08 with the checkpoint's registers, else with its registers as they stand. -/
def Sys2Proof.Claims.FallbackRule : Prop :=
  ∀ (S : SetState) (q : Chunk) (x kind code : Nat), S.chunk = some q → q.tx = some x →
    (S.fallback kind code).txCode = kind * 256 + code % 256 ∧ (S.fallback kind code).chunk = none ∧
    ∀ j, let th := if kind = 2 ∨ kind = 8 then q.start.getD j (Thread.fresh 0 false) else S.lane j
      (S.fallback kind code).lane j = if th.live then { th with pc := x, hold := .ready } else th

/-- tx.beg, tx.end and tx.abort, and what a fallback does.
That a stall takes the fallback is notes/assumptions/10. -/
def Obligations.TransactionsAndFallbacks : Prop :=
  Sys2Proof.Claims.Transactions ∧
  Sys2Proof.Claims.FallbackRule

/-- 11 R266, 06 R137: a seal whose checks pass waits in its chunk. 11 R268: a system-scope flush notes its outside lines for the
time after the commit point. 11 R269: a system-scope cinv sends the committed dirty bytes of its outside lines to their targets, waits for their
acknowledgements and drops the lines, at execution; at other scopes both change nothing. -/
def Obligations.SealsAndCacheLines : Prop :=
  ∀ (s : State) (c : Ctx) (d a : BitVec 7) (g : BitVec 3) (n : BitVec 4),
    let L := s.launchOf c.T
    let lanes := s.doers c
    let outside := if isSystem c.issue.hints then
      (s.namedLines L lanes (fun j => c.va j a) (n.toNat + 1)).filter (fun l => isOutside (l * 128)) else []
    (Issues s (.seal d a g) c →
      c.S.retry = 0 ∨ sealsPass L.world L.tcid c.T.launch
        (((c.S.chunk.map (·.seals)).getD []).foldl (fun t e => t.sealOr L.world L.tcid c.T.launch e) s.withSeals)
        (lanes.map (fun j => (c.va j a, (c.rd j d).toNat))) →
      (∀ j ∈ lanes, c.va j a % 128 = 0 ∧ (c.rd j d).toNat % 128 = 0 ∧
        s.sealRangeBad L (c.va j a) (max 1 (c.rd j d).toNat) = none) →
      CompletesFrom s s (.seal d a g)
        { c with S := c.S.onChunk (fun k => { k with seals := k.seals ++ lanes.map (fun j => (c.va j a, (c.rd j d).toNat)) }) }
        (fun _ => []) c.old) ∧
    (Issues s (.cflush a g n) c → (∀ j ∈ lanes, s.linesBad L j (c.va j a) (n.toNat + 1) = none) →
      CompletesFrom s s (.cflush a g n)
        { c with S := c.S.onChunk (fun k => { k with outs := k.outs ++ outside.map Eff.flush }) }
        (fun _ => []) c.old) ∧
    (Issues s (.cinv a g n) c → (∀ j ∈ lanes, s.linesBad L j (c.va j a) (n.toNat + 1) = none) →
      (∀ l ∈ outside, ∀ x ∈ s.drains, x.world = L.world → x.lines.contains l = false) →
      (∃ l ∈ outside, s.copyDirty L.world l = true) →
      exec (.cinv a g n) s = .next ((if s.acked c.t c.k then
          (outside.filter (s.copyDirty L.world)).foldl (fun t l => t.flushLine c.t c.k c.issue.group c.T.launch L.world l) s
        else s).hold c c.mask (.until [.acked]))) ∧
    (Issues s (.cinv a g n) c → (∀ j ∈ lanes, s.linesBad L j (c.va j a) (n.toNat + 1) = none) →
      (∀ l ∈ outside, s.copyDirty L.world l = false ∧ ∀ x ∈ s.drains, x.world = L.world → x.lines.contains l = false) →
      CompletesFrom s (outside.foldl (fun t l => t.invalidate L.world l) s) (.cinv a g n) c (fun _ => []) c.old)

/-! ### Copies and line bits -/

namespace Sys2Proof.Machine

/-- With a free entry the instruction completes, and its operation takes the lowest one, pending in the chunk (08 R172, R175). -/
def Ctx.claims (s : State) (c : Ctx) (i : Instr) (o : Op) : Prop :=
  ∀ e, (s.coreAt c.T.place.coreNo).freeOp = some e →
    CompletesFrom s (s.onCore c.T.place.coreNo (fun C => { C with ops := C.ops.set e o })) i
      { c with S := (c.S.onChunk (fun k => { k with copies := k.copies ++ [e] })).endStall 96 c.mask } (fun _ => []) c.old

end Sys2Proof.Machine

/-- 08 R172, R175-R179: a lane copy whose lanes pass their checks takes the lowest free of the 64 scoreboard entries, pending until
its chunk commits, with its lanes' scratchpad offsets and addresses, its intervals and its completion word; with no free
entry it stalls, once counted, and one that no lane performs completes at once. -/
def Sys2Proof.Claims.LaneCopiesIssue : Prop :=
  ∀ (s : State) (c : Ctx) (d a : BitVec 7) (g : BitVec 3) (m : BitVec 4),
    let L := s.launchOf c.T
    let w := 4 * 2 ^ m.toNat
    let lanes := s.doers c
    let sp (j : Nat) := (c.rd j d).toNat
    let ranges := mergeRanges (lanes.map (fun j => (sp j, sp j + w)))
    let cw := cwordOf c.issue.hints
    let core := c.T.place.coreNo
    let copies (pull : Bool) (i : Instr) : Prop :=
      let kind : OpKind := if pull then .cpyIn else .cpyOut
      let bad := match cw with
        | some (_, x) => cwordBad c.T.spadSize (if pull then ranges else []) x
        | none => false
      let op : Op :=
        { Op0 with
          kind := kind, pc := c.issue.group, troupe := c.t, set := c.k, width := w
          lanes := lanes.map (fun j => (j, sp j, c.va j a))
          ivals := ranges.map (fun r => { lo := r.1, hi := r.2, write := pull })
          cword := cw.map (fun x => (x.2, c.S.read (lanes.headD 0) x.1)), args := [(cacheOf c.issue.hints).2] }
      Issues s i c →
      (∀ j ∈ lanes, s.laneCopyBad L c.T kind.access j (sp j) (c.va j a) w bad = none ∧
        (pull = false → s.sealState L.world L.tcid (c.va j a) ≠ 1)) →
      (lanes = [] → Gives s i c (fun _ => [])) ∧
      (lanes ≠ [] → (s.coreAt core).freeOp = none → exec i s =
        .next (s.stallOnce c i 96 Core.fullIssue [.board])) ∧
      (lanes ≠ [] → c.claims s i op)
    copies true (.cpyIn d a g m) ∧ copies false (.cpyOut d a g m)

/-- 08 R191-R193: fe.clr and fe.set mark the lines of their lanes in the chunk, fe.test gives each active lane's predicate the
line's full or skip bit as the set sees it, and rsb.drain lets go the lanes up to whose position no operation of the troupe
stands; a lane's position is that of its first issue, behind the copies of its set. -/
def Sys2Proof.Claims.LineBits : Prop :=
  ∀ (s : State) (c : Ctx) (p : BitVec 5) (a : BitVec 7) (g : BitVec 3) (n cond : BitVec 4) (k : BitVec 2),
    let lanes := s.doers c
    let base (j : Nat) := c.sp j a - c.sp j a % 128
    let pad (j : Nat) := s.spadOf c (base j) ((n.toNat + 1) * 128)
    let span := List.range (n.toNat + 1)
    let marks := addAll [] (lanes.flatMap (fun j => span.map (fun x => ((pad j).1, (pad j).2 / 128 + x))))
    let mark (full : Bool) (i : Instr) : Prop :=
      Issues s i c →
      (∀ j ∈ lanes, ∃ x, s.spadAt c.t c.T (base j) ((n.toNat + 1) * 128) = .ok x) →
      s.pending c (meetsAny (marks.map (fun (x : Nat × Nat) => (x.1, x.2 * 128, x.2 * 128 + 128, false)))) = false →
      CompletesFrom s s i
        { c with S := c.S.onChunk (fun q =>
            ({ q with
                fe := q.fe ++ marks.map (fun (x : Nat × Nat) => ({ troupe := x.1, line := x.2, full := full } : FeOp))
                spWrites := addAll q.spWrites marks }).touch
              (lanes.flatMap (fun j => span.map (fun x => (j, padKey (pad j).1 ((pad j).2 / 128 + x), true))))) }
        (fun _ => []) c.old
    let one (j : Nat) := s.spadOf c (c.rd j a).toNat 1
    let seen (j : Nat) := s.lineSeen c.S (one j).1 ((one j).2 / 128)
    let bit (j : Nat) : Bool := match cond.toNat with
      | 0 => (seen j).1
      | 1 => !(seen j).1
      | 2 => (seen j).2
      | _ => !(seen j).2
    let pos (j : Nat) := (c.S.answers.get? (64 + j)).getD (s.coreAt c.T.place.coreNo).pos
    let no := c.lanes.filter (fun j => (s.coreAt c.T.place.coreNo).ops.any (fun e =>
      e.2.troupe == c.t && e.2.standing && decide (e.2.pos ≤ pos j)))
    mark false (.feClr a g n) ∧ mark true (.feSet a g n) ∧
    (Issues s (.feTest p a cond k) c → (∀ j, inMask c.act j = true → ∃ x, s.spadAt c.t c.T (c.rd j a).toNat 1 = .ok x) →
      CompletesFrom s s (.feTest p a cond k)
        { c with S := c.S.onChunk (fun q =>
            ({ q with spReads := addAll q.spReads (c.lanes.map (fun j => ((one j).1, (one j).2 / 128))) }).touch
              (c.lanes.map (fun j => (j, padKey (one j).1 ((one j).2 / 128), false)))) }
        (fun _ => []) (fun j => ((c.S.lane j).predsAfter p k (bit j), (c.S.lane j).gen, (c.S.lane j).clk))) ∧
    (Issues s (.rsbDrain g) c → (c.act ≠ 0 → s.pending c (fun o => o.troupe == c.t) = false) →
      no = [] ∨ no.length < c.lanes.length →
      CompletesFrom s s (.rsbDrain g)
        (({ c with S := { c.S.forget (c.lanes.map (64 + ·)) with
              answers := no.foldl (fun (m : Tab Nat) j => Tab.set m (64 + j) (pos j)) (c.S.forget (c.lanes.map (64 + ·))).answers } } :
            Ctx).without no (fun j => .until [.ops (pos j)])) (fun _ => []) c.old)

/-- Lane copies take scoreboard entries; fe.clr, fe.set and fe.test act on line bits. -/
def Obligations.LaneCopiesAndLineBits : Prop :=
  Sys2Proof.Claims.LaneCopiesIssue ∧
  Sys2Proof.Claims.LineBits

/-! ### Near-bank units -/

namespace Sys2Proof.Machine

/-- The unit's queue takes a request, which takes the next number, and the lines it names are sampled (05 R109, 07 R162). -/
def State.nbQueued (s : State) (c : Ctx) (k u : Nat) (vas : List Nat) (r : NbReq) : State :=
  let L := s.launchOf c.T
  let s1 := vas.foldl (fun (s : State) (g : Nat) =>
    s.sample (4 * k) L.world (g * 64) c.T.place.tag (if r.kind = 1 then 9 else 8) L.tcid false) s
  { s1 with nextId := s.nextId + 1 }.onUnit k u (fun U => { U with queue := U.queue ++ [r] })

/-- The command of lane `j` of a bsum: its block of 64 bytes, read in scratchpad on a core and at its bank on a unit
(05 R113, R119). -/
def Ctx.blockOf (s : State) (c : Ctx) (a : BitVec 7) (j : Nat) : List Byte :=
  match c.T.place with
  | .unit k _ => s.mem.readBytes (nbAt (s.windows (s.launchOf c.T) k) k (c.sp j a)).1 64
  | .core _ => (List.range 64).map (fun b => c.T.byte (c.sp j a + b))

/-- The command of lane `j` of a bsum. -/
def Ctx.commandOf (s : State) (c : Ctx) (a : BitVec 7) (j : Nat) : RedCmd :=
  redCmdOf (c.blockOf s a j) c.T.launch c.t c.k j c.issue.group c.T.place.isUnit

/-- The checks that a lane's block passes (05 R116, R119). -/
def Ctx.blockFits (s : State) (c : Ctx) (a : BitVec 7) (j : Nat) : Prop :=
  let L := s.launchOf c.T
  let ws := s.windows L c.T.place.slice
  (match c.T.place with
    | .unit k n => c.sp j a % 64 = 0 ∧ nbBad ws n (c.sp j a) 64 false = none ∧ s.granFault L.world (nbAt ws k (c.sp j a)).1 = none
    | .core _ => c.T.blockBad (c.sp j a) = false ∧ s.lineFull c.t (c.sp j a) = true) ∧
  s.redBad L ws (c.blockOf s a j) (c.commandOf s a j) = none

end Sys2Proof.Machine

/-- 05 R101, R104-R109: a near-bank access whose lanes pass the checks enters its unit's queue, in issue order, with the device
addresses of its lanes; the thread goes on. A load and an nmac open a window over their destinations, which the request
will fill, and drop what earlier windows owed them (02 R35); a store takes its bytes along. -/
def Sys2Proof.Claims.NearBankAccesses : Prop :=
  ∀ (s : State) (c : Ctx) (d a : BitVec 7) (h : BitVec 4) (g : BitVec 3) (m : BitVec 4) (k u : Nat),
    let L := s.launchOf c.T
    let ws := s.windows L k
    let n := widthOf m.toNat
    let at' (j : Nat) := nbAt ws k (c.sp j a)
    let ok (lanes : List Nat) (n : Nat) (write : Bool) : Prop := ∀ j ∈ lanes, nbBad ws u (c.sp j a) n write = none
    let req (kind md : Nat) (lanes : List Nat) (data : Nat → List Word) : NbReq :=
      { id := s.nextId, troupe := c.t, set := c.k, pc := c.issue.group, kind := kind, mod := md, dst := d.toNat
        lanes := lanes.map (fun j => (j, (at' j).1)), data := lanes.map (fun j => (j, data j)) }
    let vas (lanes : List Nat) := addAll [] (lanes.map (fun j => (at' j).2 / 64))
    let opens (i : Instr) (kind n md : Nat) (dsts : List Nat) (data : Nat → List Word) : Prop :=
      Issues s i c → c.T.place = .unit k u → ok c.lanes n false →
      (c.lanes = [] → exec i s = s.retire c (.nop 0) (fun _ => [])) ∧
      (c.lanes ≠ [] → exec i s = .next ((s.nbQueued c k u (vas c.lanes) (req kind md c.lanes data)).done c
        ((SetState.retire { c with S := c.S.onLanes (maskOf (fun j => c.lanes.contains j)) (fun _ th => th.drops dsts) } (.nop 0)
            (fun _ => []) (fun _ th => th) (fun _ => c.next)).onLanes (maskOf (fun j => c.lanes.contains j))
          (fun _ th => th.later h.toNat (some s.nextId) (dsts.map (fun r => (r, 0)))))))
    opens (.nld d a h g m) 0 n m.toNat
      ((List.range (if m.toNat = 6 then 4 else if m.toNat = 5 then 2 else 1)).map (d.toNat + ·)) (fun _ => []) ∧
    opens (.nmac d a h g m) 2 4 m.toNat [d.toNat] (fun j => [c.S.read j d.toNat, c.S.read j (d.toNat + 1)]) ∧
    (Issues s (.nst d a g m) c → c.T.place = .unit k u → ok (s.doers c) n true →
      (s.doers c = [] → exec (.nst d a g m) s = s.retire c (.nop 0) (fun _ => [])) ∧
      (s.doers c ≠ [] → exec (.nst d a g m) s = .next ((s.nbQueued c k u (vas (s.doers c))
          (req 1 m.toNat (s.doers c) (fun j => (c.storeBytes m.toNat j d).map (fun b => b.zeroExtend 32)))).done c
        (SetState.retire c (.nop 0) (fun _ => []) (fun _ th => th) (fun _ => c.next)))))

/-- 05 R112, R116, R119: a bsum whose blocks pass the checks puts its commands, in lane order, at the end of its slice's engine
queue of 64, but for those that an earlier issue has put there, and completes. -/
def Sys2Proof.Claims.ReductionCommandsIssue : Prop :=
  ∀ (s : State) (c : Ctx) (a : BitVec 7) (g : BitVec 3),
    let lanes := s.doers c
    let rest := lanes.filter (fun j => !c.S.accepted.testBit j)
    let k := c.T.place.slice
    let L := s.launchOf c.T
    let s1 := if c.T.place.isUnit then rest.foldl (fun t j => t.bankRead L.world (nbAt (s.windows L k) k (c.sp j a)).1 0) s else s
    Issues s (.bsum a g) c →
    (lanes = [] → Gives s (.bsum a g) c (fun _ => [])) ∧
    (lanes ≠ [] → (c.T.place.isUnit = true → s.nbStores c.t c.k c.T = false) → (∀ j ∈ rest, c.blockFits s a j) →
      (s.slice k).nb.queue.length + rest.length ≤ 64 →
      CompletesFrom s
        (s1.onSlice k (fun S => { S with nb := { S.nb with queue := S.nb.queue ++ rest.map (c.commandOf s a) } }))
        (.bsum a g)
        { c with S := { c.S with
            accepted := (BitVec.ofNat 32 c.S.accepted &&& ~~~ maskOf (fun j => lanes.contains j)).toNat } } (fun _ => []) c.old)

/-- nld, nst, nmac and bsum enter the queues of their unit and engine. -/
def Obligations.NearBankInstructions : Prop :=
  Sys2Proof.Claims.NearBankAccesses ∧
  Sys2Proof.Claims.ReductionCommandsIssue

/-! ### The matrix unit -/

namespace Sys2Proof.Machine

/-- A tile instruction meets nothing that makes it trap or wait (15 R340, R341, R348, R349). -/
def Ctx.tileClear (s : State) (c : Ctx) (t : BitVec 4) (tag : Option Bool) (sync : Bool) : Prop :=
  let ops := (s.coreAt c.T.place.coreNo).ops
  (t.toNat < min 16 (c.T.tileCount / c.T.sets)) ∧
  (∀ b, tag = some b → (c.T.tile (c.tileNo t)).int = b) ∧
  s.pending c (fun o => o.onTile c.t (c.tileNo t)) = false ∧
  (sync = true → ∀ e ∈ ops, e.2.onTile c.t (c.tileNo t) = true → e.2.retired = true)

/-- The context of a tile instruction that has met the interlock no more. -/
def Ctx.freed (c : Ctx) : Ctx := { c with S := c.S.endStall 97 c.mask }

end Sys2Proof.Machine

/-- 15 R342-R346: an element of a tile after a step: its old value plus the products of its row of A and its column of B, summed
exactly and rounded once to .f32, or modulo 2^32 for .s8. -/
def Sys2Proof.Claims.MatrixStep : Prop :=
  ∀ (f : Nat) (t : Tile) (A B : MatOperand) (r k : Nat), r < 32 → k < 32 → f ≤ 5 →
    (matStep f t A B).int = t.int ∧
    (matStep f t A B).at r k =
      if f = 5 then
        t.at r k + ((List.range 32).map (fun n =>
          (BitVec.ofNat 8 (A.code 5 r n)).signExtend 32 * (BitVec.ofNat 8 (B.code 5 k n)).signExtend 32)).sum
      else
        BitVec.ofNat 32 (fp32.near (Fp.sum false (f32 (t.at r k) ::
          (List.range (if f ≤ 1 then 16 else if f = 4 then 64 else 32)).map (fun n => Fp.mul (A.value f r n) (B.value f k n)))))

/-- 15 R351, R355, R356: the synchronous tile instructions. mma does one step on its tile; mld fills eight columns from the live lanes'
registers and sets the tile's type; mrd reads eight columns; mclr makes every element 0. -/
def Sys2Proof.Claims.TileInstructions : Prop :=
  ∀ (s : State) (c : Ctx) (t : BitVec 4) (a b : BitVec 7) (f : BitVec 3) (h : BitVec 4) (q : BitVec 2),
    let n := c.tileNo t
    let old := c.T.tile n
    let core := c.T.place.coreNo
    let A := c.S.operand a.toNat (b.toNat + 8) false
    let B := c.S.operand b.toNat (b.toNat + 8) true
    let s1 := (s.setTile c.t n (matStep f.toNat old A B)).onCore core (fun C => { C with steps := (C.steps + 1) % 2 ^ 32 })
    let s2 := s.setTile c.t n (Tile.of (tileOf c.issue.hints) (fun r k =>
      if (c.S.lane r).live = true ∧ k / 8 = q.toNat then c.S.read r (a.toNat + k % 8) else old.at r k))
    let s3 := s.setTile c.t n { int := tileOf c.issue.hints, el := [] }
    (Issues s (.mma t a b f) c → c.tileClear s t (some (f == 5)) true →
      CompletesFrom s s1 (.mma t a b f) c.freed (fun _ => []) c.old) ∧
    (Issues s (.mld t a q) c → c.tileClear s t none true →
      CompletesFrom s s2 (.mld t a q) c.freed (fun _ => []) c.old) ∧
    (Issues s (.mrd t a h q) c → c.tileClear s t (some (tileOf c.issue.hints)) true →
      Gives s (.mrd t a h q) c.freed (fun r => (List.range 8).map (fun j => (a.toNat + j, old.at r (8 * q.toNat + j))))) ∧
    (Issues s (.mclr t) c → c.tileClear s t none true →
      CompletesFrom s s3 (.mclr t) c.freed (fun _ => []) c.old)

/-- 15 R352, R353, R357: mloop and mcvt, with the operands of the lowest live lane, take a scoreboard entry, pending until their
chunk commits, when their bytes lie in the allotment. -/
def Sys2Proof.Claims.TileOperationsIssue : Prop :=
  ∀ (s : State) (c : Ctx) (t : BitVec 4) (a b : BitVec 7) (f : BitVec 3),
    let w (k : Nat) := c.leader (a.toNat + k)
    let n := nfld (w 3) 0 13
    let A := blockSpan (w 0) (sextNat 16 (w 2)) n
    let B := blockSpan (w 1) (sextNat 16 (w 2 / 2 ^ 16)) n
    let size : Int := (blockSize f.toNat : Nat)
    let o := c.leader a.toNat
    let p := c.leader b.toNat
    let row := mcvtRow f.toNat
    (Issues s (.mloop t a f) c → c.tileClear s t (some (f == 5)) false →
      nfld (w 3) 13 3 = 0 → w 3 < 2 ^ 17 → w 0 < 2 ^ 19 → w 1 < 2 ^ 19 → 0 < n → n ≤ 4096 →
      w 0 % 128 = 0 → w 1 % 128 = 0 → 0 ≤ A.1 → 0 ≤ B.1 →
      A.2 + size ≤ (c.T.spadSize : Int) → B.2 + size ≤ (c.T.spadSize : Int) →
      c.freed.claims s (.mloop t a f)
        { Op0 with
          kind := .mloop, pc := c.issue.group, troupe := c.t, set := c.k, tile := c.tileNo t, fmt := f.toNat
          ivals := [{ lo := A.1.toNat, hi := (A.2 + size).toNat, write := false },
            { lo := B.1.toNat, hi := (B.2 + size).toNat, write := false }]
          args := [w 0, w 1, w 2, n, nfld (w 3) 16 1] }) ∧
    (Issues s (.mcvt t a b f) c → c.tileClear s t none false →
      o < 2 ^ 19 → o % 16 = 0 → p % 16 = 0 → row ≤ p → o + 31 * p + row ≤ c.T.spadSize →
      c.freed.claims s (.mcvt t a b f)
        { Op0 with
          kind := .mcvt, pc := c.issue.group, troupe := c.t, set := c.k, tile := c.tileNo t, fmt := f.toNat, sp := o
          ivals := [{ lo := o, hi := o + 31 * p + row, write := true }]
          args := [c.leader (a.toNat + 1), p, (roundOf c.issue.hints).1, b2n (roundOf c.issue.hints).2] })

/-- A matrix step, the synchronous tile instructions, and the placed ones. -/
def Obligations.MatrixAndTiles : Prop :=
  Sys2Proof.Claims.MatrixStep ∧
  Sys2Proof.Claims.TileInstructions ∧
  Sys2Proof.Claims.TileOperationsIssue

/-! ### Control flow of the step stream -/

namespace Sys2Proof.Machine

/-- Instruction `i` completes, with results `res`, and sends each thread of its figure to an address of its own. -/
def Jumps (s : State) (i : Instr) (c : Ctx) (res : Nat → List (Nat × Word)) (dest : Nat → Nat) : Prop :=
  ∃ t S, exec i s = .next t ∧ OnlySet s c S t ∧ Lanes c i (S.onLanes c.mask (fun _ th => { th with pc := c.next })) res c.old ∧
    (∀ j, inMask c.mask j = true → (S.lane j).pc = dest j) ∧ KeepsChunk c i S ∧
    { S with threads := c.S.threads, ports := c.S.ports, chunk := c.S.chunk, closing := c.S.closing } = c.S

/-- A target lies in the code that the figure runs (16 R364). -/
def Ctx.lands (s : State) (c : Ctx) (x : Int) : Prop := s.codeHas c.issue.agent x = true

end Sys2Proof.Machine

/-- 02 R32, 16 R376, R377: bra sends the threads whose predicate agrees to its target and the others on; call sends all, with the
return address in v7; brx and ret send each active thread to its own address. A target outside the code traps with 0x0A, for the threads that take
it; a computed one that is misaligned, with 0x01 (R364). Where several lanes fail a computed branch, which of their causes is reported is
the model's choice (log 58). -/
def Sys2Proof.Claims.Branches : Prop :=
  ∀ (s : State) (c : Ctx) (p : BitVec 5) (q : BitVec 1) (o : BitVec 19) (a : BitVec 7) (g : BitVec 3),
    let x := sbTarget c.issue o
    let taken (j : Nat) : Bool := inMask c.mask j && ((c.S.lane j).pred p.toNat == (q == 1))
    let y (j : Nat) := (c.rd j a).toNat
    let misses (j : Nat) : Option LaneBad :=
      if y j % 4 ≠ 0 then some { lane := j, cause := 0x01, reason := 0x0C, addr := y j, info := 0 }
      else if s.codeHas c.issue.agent (y j) = false then some { lane := j, cause := 0x0A, reason := 1, addr := y j, info := 0 }
      else none
    let computed (i : Instr) : Prop :=
      (∀ k e, Issues s i c → report (c.lanes.filterMap misses) = some (k, e) →
        exec i s = .next (s.raise c k e.cause e.reason e.addr e.info)) ∧
      (Issues s i c → (∀ j, inMask c.act j = true → y j % 4 = 0 ∧ c.lands s (y j)) →
      Jumps s i c (fun _ => []) (fun j => if inMask c.act j then y j else c.next))
    (Issues s (.bra p q o) c →
      ((∃ j < 32, taken j = true) → c.lands s x) →
      Jumps s (.bra p q o) c (fun _ => []) (fun j => if taken j then x.toNat else c.next)) ∧
    (Issues s (.bra p q o) c → (∃ j < 32, taken j = true) → ¬ c.lands s x →
      exec (.bra p q o) s = .next (s.raise c (maskOf taken) 0x0A 1 (wrap 64 x) 0)) ∧
    (Issues s (.call o) c → c.lands s x →
      Jumps s (.call o) c (fun _ => one 7 (BitVec.ofNat 32 c.next)) (fun _ => x.toNat)) ∧
    (Issues s (.call o) c → ¬ c.lands s x → exec (.call o) s = .next (s.raise c c.mask 0x0A 1 (wrap 64 x) 0)) ∧
    computed (.brx a g) ∧ computed (.ret a g)

/-- 16 R378, R379, 18 R396: exit ends the active threads and closes the chunk, on a near-bank unit once its stores have reached their
banks; join lets its figure go on once every live thread of the set stands at it,
else its threads wait, but for those whose time has passed; yield goes on and makes its threads wait for their period; nop goes on. -/
def Sys2Proof.Claims.ThreadControl : Prop :=
  ∀ (s : State) (c : Ctx) (g : BitVec 3),
    let others := c.S.live &&& ~~~ c.mask
    let free := BitVec.ofNat 32 c.S.joined
    let bound := maskOf (fun j => (c.lanes.filter (fun j => !inMask free j)).contains j)
    let all := ∀ j < 32, (c.S.lane j).live = true → (c.S.lane j).pc = c.issue.group
    let ends (th : Thread) : Thread := { th with live := false, win := [] }
    (Issues s (.nop g) c → Gives s (.nop g) c (fun _ => [])) ∧
    (Issues s (.exit g) c → (c.act = 0 → Gives s (.exit g) c (fun _ => [])) ∧
      (c.act ≠ 0 → s.nbStores c.t c.k c.T = true → exec (.exit g) s = .next (s.hold c c.mask (.until [.nbStores]))) ∧
      (c.act ≠ 0 → s.nbStores c.t c.k c.T = false → ∃ t S, exec (.exit g) s = .next t ∧ OnlySet s c S t ∧
        (∀ j, inMask c.act j = true → (S.lane j).live = false) ∧
        (∀ j, inMask c.act j = false → (S.lane j).live = (c.S.lane j).live) ∧
        (∀ j, inMask c.mask j = false → S.lane j = c.S.lane j) ∧
        (∀ j, inMask c.mask j = true → (S.lane j).pc = c.next) ∧
        (∀ q, S.chunk = some q → q.phase ≠ .running) ∧
        (∀ q, c.S.chunk = some q → q.phase = .running → c.S.closing = none →
          S.chunk = none ∧ S.closing = some { q with phase := .closed }) ∧
        S.handler = (if S.live = 0 then none else c.S.handler.map (fun h =>
          { h with threads := h.threads.mapIdx (fun j th => if inMask c.act j then ends th else th) })))) ∧
    (Issues s (.join g) c →
      (c.T.place.isUnit = true ∨ c.act = 0 → Gives s (.join g) c (fun _ => [])) ∧
      (c.T.place.isUnit = false → c.act ≠ 0 → all →
        CompletesFrom s s (.join g)
          { c with S := { c.S.holding others .ready with joined := (free &&& ~~~ c.mask ||| others).toNat } } (fun _ => []) c.old) ∧
      (c.T.place.isUnit = false → c.act ≠ 0 → ¬ all → bound = c.mask →
        exec (.join g) s = .next (s.hold c c.mask .join)) ∧
      (c.T.place.isUnit = false → c.act ≠ 0 → ¬ all → bound ≠ c.mask →
        CompletesFrom s s (.join g)
          { c with
            S := { c.S.holding bound .join with joined := (free &&& ~~~ c.mask).toNat }
            mask := c.mask &&& ~~~ bound, act := c.act &&& ~~~ bound } (fun _ => []) c.old)) ∧
    (Issues s (.yield g) c → ∃ t S, exec (.yield g) s = .next t ∧ OnlySet s c S t ∧
      Lanes c (.yield g) (S.holding c.act .ready) (fun _ => []) c.old ∧
      (∀ j, inMask c.act j = true → (S.lane j).hold = .yield) ∧ KeepsChunk c (.yield g) S)

/-- 02 R37: a hint joins its group, and the word behind it is the next to be fetched; nothing else changes. -/
def Sys2Proof.Claims.HintsGather : Prop :=
  ∀ (s : State) (u : Issue) (k : BitVec 3) (p : BitVec 22), s.cur = some u →
    exec (.hint k p) s = .next { s with cur := some { u with word := u.word + 4, hints := u.hints ++ [(k.toNat, p)] } }

/-- Branches, calls, returns, exit, join, yield, nop and hints. -/
def Obligations.ControlFlow : Prop :=
  Sys2Proof.Claims.Branches ∧
  Sys2Proof.Claims.ThreadControl ∧
  Sys2Proof.Claims.HintsGather

/-! ### Traps -/

/-- 22 R442, R443: a precise trap in a set that runs no transaction. Nothing of the instruction takes effect: the figure's threads
stay at its group, the chunk closes, and it carries the record; a set without a chunk has its record at once. A trap in a
handler says so in FLAGS[4]. -/
def Obligations.PreciseTraps : Prop :=
  ∀ (S : SetState) (m : Word) (x : Nat) (tr : Trap), S.inTx = false →
    let R := S.trap m x tr
    let tr' := if S.handler.isSome then { tr with flags := tr.flags + 2 ^ 4 } else tr
    (∀ j, inMask m j = true → j < S.threads.length → R.lane j = { S.lane j with pc := x, hold := .ready }) ∧
    (∀ j, inMask m j = false → R.lane j = S.lane j) ∧ R.handler = S.handler ∧
    (S.chunk = none → R.trapReady = some tr' ∧ R.chunk = none ∧ R.closing = S.closing) ∧
    (∀ q, S.chunk = some q → q.phase = .running →
      R.trapReady = S.trapReady ∧
      (S.closing = none → R.chunk = none ∧ R.closing = some { q with trap := some tr', phase := .closed }) ∧
      (∀ z, S.closing = some z → R.closing = some z ∧ R.chunk = some { q with trap := some tr', phase := .closed }))

/-- 22 R452, R454: trap and brk complete and then raise their causes, with the code, the active lanes and, for trap, the lowest
active lane's register; rett gives the interrupted threads back. Outside a handler rett is misuse; a resume address that is no code
traps. -/
def Sys2Proof.Claims.SoftwareTraps : Prop :=
  ∀ (s : State) (c : Ctx) (a : BitVec 7) (i : BitVec 8) (g : BitVec 3),
    let low := (lowLane c.act).getD 0
    let soft (x : Instr) (cause info : Nat) : Prop :=
      Issues s x c →
      (c.act = 0 → Gives s x c (fun _ => [])) ∧
      (c.act ≠ 0 → ∃ S, Lanes c x S (fun _ => []) c.old ∧
        exec x s = .next (s.done c (S.trap c.mask c.next (s.record c.t
          { cause := cause, set := c.k, low := low, code := i.toNat, mask := c.mask, fail := c.act, pc := c.issue.group
            info := info, after := c.next }))))
    soft (.trap a i g) 0x02 (c.rd low a).toNat ∧ soft (.brk i g) 0x7C 0 ∧
    (Issues s .rett c → c.S.handler = none → exec .rett s = .next (s.raise c c.mask 0x0B 1 0 0)) ∧
    (Issues s .rett c → ∀ h, c.S.handler = some h →
      (∀ th ∈ h.threads, th.live = true → th.pc % 4 = 0 ∧ (s.launchOf c.T).desc.inCode th.pc = true) →
      exec .rett s = .next (s.done c { c.S with
        handler := none, names := h.names, accepted := h.accepted, answers := h.answers, threads := h.threads.map (fun th => { th with hold := .ready }) }))

/-- 02 R53, 22 R442: a word that does not decode raises cause 0x01 with its reason, precisely, in whichever front end issues it; in
a prologue it is a fault of the run. -/
def Sys2Proof.Claims.IllegalWords : Prop :=
  ∀ (s : State) (u0 : Issue) (r : Nat), s.cur = some u0 →
    let u := s.groupEnd u0
    let s1 := { s with cur := some u }
    (∀ f T S S1, u.agent = .step f → s.troupes.get? f.troupe = some T → s.setAt? f.troupe f.set = some S →
      canIssue s T S = true → f.here u S ≠ 0 → S.txFull = false → S.enterAt T u.group false false = some S1 →
      exec (.illegalInstruction r) s = .next (s1.raise
        { t := f.troupe, k := f.set, T := T, S := S1, mask := f.here u S, act := f.here u S, issue := u
          now := s.cycle.toNat } (f.here u S) 0x01 r 0 0)) ∧
    (∀ t T, u.agent = .cue t → s.troupes.get? t = some T → cueCan s T = true →
      exec (.illegalInstruction r) s = .next (s1.raiseCue t u.group 0x01 r 0 0 0)) ∧
    (∀ l, u.agent = .prologue l → exec (.illegalInstruction r) s = .next (s1.prologueFault l 1 0x01 r 0))

/-- 22 R456, Table 22-6: sysw. In a handler it writes each live thread's interrupted pc, predicates or register; trap.amask takes the
lowest lane's two bits in any mode, at the commit of the chunk (10 R218); what its number does not reach traps with cause 0x0C. -/
def Sys2Proof.Claims.SpecialWrites : Prop :=
  ∀ (s : State) (c : Ctx) (d : BitVec 7) (i : BitVec 18), Issues s (.sysw d i) c →
    let n := i.toNat
    let x : BitVec 2 := (c.rd ((lowLane c.mask).getD 0) d).extractLsb' 0 2
    (∀ r, c.specialBad n = some r → exec (.sysw d i) s = .next (s.raise c c.mask 0x0C r 0 0)) ∧
    (n = 0x202 → c.S.chunk.isSome = true →
      CompletesFrom s s (.sysw d i) { c with S := c.S.onChunk (fun k => { k with amask := some x }) } (fun _ => []) c.old) ∧
    (n = 0x202 → c.S.chunk = none →
      CompletesFrom s (s.onTroupe c.t (fun T => { T with amask := x })) (.sysw d i) c (fun _ => []) c.old) ∧
    (∀ h, c.S.handler = some h → c.specialBad n = none → n = 0x120 ∨ n = 0x121 ∨ 0x1000 ≤ n →
      let S : SetState := { c.S with handler := some { h with threads := h.threads.mapIdx (fun j th =>
        if inMask c.mask j then
          if n = 0x120 then { th with pc := (c.rd j d).toNat }
          else if n = 0x121 then { th with p := c.rd j d ||| 1 }
          else th.setFinal (n - 0x1000) (c.rd j d)
        else th) } }
      CompletesFrom s s (.sysw d i)
        { c with S := if 0x1000 ≤ n ∧ c.T.place.isUnit = false then S.bindSaved (n - 0x1000) (s.freeReg c.T.place.coreNo) else S }
        (fun _ => []) c.old)

/-- trap, brk, rett, illegal words and sysw. -/
def Obligations.StepTraps : Prop :=
  Sys2Proof.Claims.SoftwareTraps ∧
  Sys2Proof.Claims.IllegalWords ∧
  Sys2Proof.Claims.SpecialWrites

/-! ### The cue stream's values -/

namespace Sys2Proof.Machine

/-- A cue instruction writes `f`, over the register values it reads, to register `d`, and its stream or its prologue run goes on with the next word;
nothing else changes but what `g` does to the machine (16 R365, R383). -/
def CueGivesThen (g : State → State) (s : State) (i : Instr) (d : BitVec 9) (f : Issue → (Nat → DWord) → DWord) : Prop :=
  (∀ t T u, s.cueIssue? = some (t, T, u) → cueCan s T = true →
    exec i s = .next (g (s.cueTo t (u.word + 4) (fun T => T.write 0 d.toNat (f u T.gets))))) ∧
  (∀ l L u, s.cueIssue? = none → s.prologue? = some (l, L, u) →
    exec i s = .next (g (s.prologueWrite l (u.word + 4) 0 d.toNat (f u (fun r => L.s.getD r 0)))))

/-- The same where nothing else changes at all. -/
def CueGives (s : State) (i : Instr) (d : BitVec 9) (f : Issue → (Nat → DWord) → DWord) : Prop := CueGivesThen id s i d f

/-- 64-bit quotient and remainder of the division rule (16 R368). -/
def quotient64 (x y : DWord) : DWord :=
  if y = 0 then BitVec.allOnes 64 else if x = BitVec.intMin 64 ∧ y = BitVec.allOnes 64 then BitVec.intMin 64 else x.sdiv y

/-- The remainder. -/
def remainder64 (x y : DWord) : DWord :=
  if y = 0 then x else if x = BitVec.intMin 64 ∧ y = BitVec.allOnes 64 then 0 else x.srem y

/-- The field rule's extract in 64 bits (16 R367). -/
def bitField64 (x y : DWord) : DWord :=
  let pos := min (y.toNat % 256) 64
  let len := min (y.toNat / 256 % 256) 64
  if y.getLsbD 16 then BitVec.ofInt 64 (Int.bmod (x.toInt / 2 ^ pos) (2 ^ len)) else BitVec.ofNat 64 (x.toNat / 2 ^ pos % 2 ^ len)

/-- The field rule's insert in 64 bits, bit by bit: bit `k`. -/
def insertedBit (old x y : DWord) (k : Nat) : Bool :=
  let pos := min (y.toNat % 256) 64
  let len := min (y.toNat / 256 % 256) 64
  if pos ≤ k ∧ k < pos + len then x.getLsbD (k - pos) else old.getLsbD k

/-- Condition of scmp (02 Table 2-2), on integers. -/
def intHolds64 (c : Nat) (x y : DWord) : Bool :=
  match c with
  | 0x0 => decide (x.toNat = y.toNat)
  | 0x1 => decide (x.toNat ≠ y.toNat)
  | 0x2 => decide (x.toInt < y.toInt)
  | 0x3 => decide (x.toInt ≤ y.toInt)
  | 0x4 => decide (x.toInt > y.toInt)
  | 0x5 => decide (x.toInt ≥ y.toInt)
  | 0x6 => decide (x.toNat < y.toNat)
  | 0x7 => decide (x.toNat ≤ y.toNat)
  | 0x8 => decide (x.toNat > y.toNat)
  | 0x9 => decide (x.toNat ≥ y.toNat)
  | 0xA => (List.range 64).any (fun k => x.getLsbD k && y.getLsbD k)
  | _ => (List.range 64).all (fun k => !(x.getLsbD k && y.getLsbD k))

/-- Bits below 64 as a word. -/
def bits64 (f : Nat → Bool) : DWord := BitVec.ofNat 64 (((List.range 64).map (fun k => if f k then 2 ^ k else 0)).sum)

/-- Cue stream `t` of troupe `T` may issue the word of `u` (20 R417). -/
def CueAt (s : State) (t : Nat) (T : Troupe) (u : Issue) : Prop := s.cueIssue? = some (t, T, u) ∧ cueCan s T = true

/-- Effective address of a cue memory instruction (11 R270, 02 R34, R39). -/
def cueTarget (T : Troupe) (u : Issue) (a : BitVec 8) (o : BitVec 4) : Nat :=
  wrap 64 ((T.gets a.toNat).toNat + off4 u.hints o.toNat)

end Sys2Proof.Machine

/-- 16 R365-R370: the cue arithmetic on 64-bit registers, in a cue stream and in a prologue. -/
def Sys2Proof.Claims.CueArithmetic : Prop :=
  ∀ (s : State) (d : BitVec 9) (a b : BitVec 8),
    let two (i : Instr) (f : DWord → DWord → DWord) : Prop := CueGives s i d (fun _ g => f (g a.toNat) (g b.toNat))
    two (.sadd d a b) (fun x y => x + y) ∧ two (.ssub d a b) (fun x y => x - y) ∧ two (.smul d a b) (fun x y => x * y) ∧
    two (.smulhi d a b) (fun x y => ((x.signExtend 128 * y.signExtend 128) >>> 64).truncate 64) ∧
    two (.smin d a b) (fun x y => BitVec.ofInt 64 (min x.toInt y.toInt)) ∧
    two (.smax d a b) (fun x y => BitVec.ofInt 64 (max x.toInt y.toInt)) ∧
    two (.sand d a b) (fun x y => x &&& y) ∧ two (.sor d a b) (fun x y => x ||| y) ∧ two (.sxor d a b) (fun x y => x ^^^ y) ∧
    two (.sandn d a b) (fun x y => x &&& ~~~ y) ∧
    two (.sshl d a b) (fun x y => if y.toNat < 64 then BitVec.ofNat 64 (x.toNat * 2 ^ y.toNat) else 0) ∧
    two (.sshr d a b) (fun x y => BitVec.ofNat 64 (x.toNat / 2 ^ min y.toNat 64)) ∧
    two (.ssra d a b) (fun x y => BitVec.ofInt 64 (x.toInt / 2 ^ min y.toNat 64)) ∧
    two (.sbfx d a b) bitField64 ∧
    CueGives s (.sbfi d a b) d (fun _ g => bits64 (insertedBit (g d.toNat) (g a.toNat) (g b.toNat))) ∧
    two (.scmp d a b) (fun x y => bits64 (fun k => decide (k < 12) && intHolds64 k x y)) ∧
    CueGives s (.ssel d a b) d (fun _ g => if g d.toNat = 0 then g b.toNat else g a.toNat) ∧
    CueGives s (.sclz d a) d (fun _ g =>
      BitVec.ofNat 64 (((List.range 65).filter (fun n => decide ((g a.toNat).toNat < 2 ^ (64 - n)))).length - 1))

/-- 16 R368: sdiv and srem. With its bit of trap.amask set, a division by 0 or the overflow traps in a cue stream; else, and always in a
prologue, the results are those of the division rule. -/
def Obligations.CueDivision : Prop :=
  ∀ (s : State) (d : BitVec 9) (a b : BitVec 8) (rem : Bool),
    let i : Instr := if rem then .srem d a b else .sdiv d a b
    let f (x y : DWord) : DWord := if rem then remainder64 x y else quotient64 x y
    let overflows (x y : DWord) : Prop := x = BitVec.intMin 64 ∧ y = BitVec.allOnes 64
    (∀ t T u, CueAt s t T u →
      let x := T.gets a.toNat
      let y := T.gets b.toNat
      (y = 0 → T.amask.getLsbD 0 = true → exec i s = .next (s.raiseCue t u.group 0x08 0 0 0 0)) ∧
      (overflows x y → T.amask.getLsbD 1 = true → exec i s = .next (s.raiseCue t u.group 0x09 0 0 0 0)) ∧
      (¬ (y = 0 ∧ T.amask.getLsbD 0 = true) → ¬ (overflows x y ∧ T.amask.getLsbD 1 = true) →
        exec i s = .next (s.cueTo t (u.word + 4) (fun T => T.write 0 d.toNat (f x y))))) ∧
    (∀ l L u, s.cueIssue? = none → s.prologue? = some (l, L, u) →
      exec i s = .next (s.prologueWrite l (u.word + 4) 0 d.toNat (f (L.s.getD a.toNat 0) (L.s.getD b.toNat 0))))

/-- 16 R370, R371, 02 R44, R39: immediates, moves, literals and special values of the cue stream. -/
def Sys2Proof.Claims.CueMoves : Prop :=
  ∀ (s : State) (d e : BitVec 9) (a x : BitVec 8) (i : BitVec 16),
    CueGives s (.saddi d a x) d (fun u g => g a.toNat + BitVec.ofInt 64 (immS u.hints 8 x.toNat)) ∧
    CueGives s (.sli d i) d (fun u _ => BitVec.ofInt 64 (immS u.hints 16 i.toNat)) ∧
    CueGives s (.slui d i) d (fun u g =>
      (BitVec.ofInt 32 (immS u.hints 16 i.toNat) : Word) ++ ((g d.toNat).truncate 32 : Word)) ∧
    CueGives s (.smov d e) d (fun _ g => g e.toNat) ∧
    (∀ u code, s.cur = some u → s.codeOf u.agent = some code →
      let off : Int := ((u.word : Int) + 8 * immS u.hints 16 i.toNat) / 8 * 8
      (0 ≤ off → code.desc.inObject off.toNat 8 = true → s.fetchBad code off.toNat = none →
        CueGivesThen (fun t => t.fetched code off.toNat 8) s (.sldc d i) d
          (fun _ _ => BitVec.ofNat 64 (leNat (s.codeBytes code off.toNat 8)))) ∧
      (0 ≤ off → code.desc.inObject off.toNat 8 = true → ∀ cause, s.fetchBad code off.toNat = some cause →
        exec (.sldc d i) s = .next ((s.unread u off.toNat cause).getD s.endIssue)) ∧
      (off < 0 ∨ code.desc.inObject off.toNat 8 = false → ∀ r, s.raiseAny 0x01 0x0B 0 = some r →
        exec (.sldc d i) s = .next r)) ∧
    (∀ t T u, CueAt s t T u →
      let L := s.launchOf T
      let sets := ((T.setTab.filter (fun (e : Nat × SetState) => e.2.alive)).map (fun e => 2 ^ e.1)).sum
      ∀ e ∈ [(0x04, T.index), (0x05, T.company), (0x06, L.coord T.company 0), (0x07, L.coord T.company 1),
          (0x08, L.coord T.company 2), (0x10, T.sets), (0x11, L.desc.troupes), (0x12, L.extent 0), (0x13, L.extent 1),
          (0x14, L.extent 2), (0x40, s.cycle.toNat), (0x42, T.place.tag), (0x43, T.place.slice), (0x44, L.world), (0x80, sets)],
        i.toNat = e.1 →
        exec (.cueSysr d i) s = .next (s.cueTo t (u.word + 4) (fun T => T.write 0 d.toNat (BitVec.ofNat 64 e.2)))) ∧
    (∀ t T u, CueAt s t T u → exec (.cueSysw d i) s =
      .next (s.cueTo t (u.word + 4) (fun T => { T with amask := (T.gets d.toNat).truncate 2 }.tick)))

/-- 16 R365, 02 R35, 22 R450: what a uniform write does. The register holds the value at once, and every register for which no window ends
keeps its value; a lookahead write changes no register yet, its window counts the instructions that follow, and what earlier windows owe the
register is discarded. The same holds of the registers of a prologue (16 R383). -/
def Sys2Proof.Claims.UniformRegisters : Prop :=
  ∀ (T : Troupe) (L : Launch) (d r n : Nat) (x : DWord),
    (T.write 0 d x).gets d = x ∧
    (r ≠ d → (∀ w ∈ T.cue.windows, w.left ≤ 1 → w.dst.get? r = none) → (T.write 0 d x).gets r = T.gets r) ∧
    (0 < n → (∀ w ∈ T.cue.windows, w.left ≤ 1 → w.dst.get? r = none) → (T.write n d x).gets r = T.gets r) ∧
    (0 < n → ∃ w, (T.write n d x).cue.windows.getLast? = some w ∧ w.left = n ∧ w.dst = [(d, x)]) ∧
    (0 < n → ∀ w ∈ (T.write n d x).cue.windows.dropLast, w.dst.get? d = none) ∧
    (L.write 0 d x).s.getD d 0 = x ∧
    (r ≠ d → (∀ w ∈ L.win, w.left ≤ 1 → w.dst.get? r = none) → (L.write 0 d x).s.getD r 0 = L.s.getD r 0) ∧
    (0 < n → (∀ w ∈ L.win, w.left ≤ 1 → w.dst.get? r = none) → (L.write n d x).s.getD r 0 = L.s.getD r 0) ∧
    (0 < n → ∃ w, (L.write n d x).win.getLast? = some w ∧ w.left = n ∧ w.dst = [(d, x)])

/-- Cue arithmetic, moves and special values on 64-bit registers. -/
def Obligations.CueOperations : Prop :=
  Sys2Proof.Claims.CueArithmetic ∧
  Sys2Proof.Claims.CueMoves ∧
  Sys2Proof.Claims.UniformRegisters

/-! ### Memory in the cue stream -/

/-- 11 R270, R272, 16 R387: sld. An access that passes its checks and whose value is there writes it, at once or with its lookahead window;
one that fails a check traps; a prologue reads through the leases of its world, and a failing read is a fault of the run. -/
def Sys2Proof.Claims.CueLoads : Prop :=
  ∀ (s : State) (d : BitVec 9) (a : BitVec 8) (o h : BitVec 4),
    (∀ t T u, CueAt s t T u →
      let L := s.launchOf T
      let va := cueTarget T u a o
      let read (dpa : Nat) := s.cueRead t T va dpa 8 (isSystem u.hints) (cacheOf u.hints).1 (cacheOf u.hints).2
      (∀ e, s.laneAddr L .load va 8 = .error e → exec (.sld d a o h) s = .next (s.raiseCue t u.group e.1 e.2 0 va 0)) ∧
      (∀ dpa, s.laneAddr L .load va 8 = .ok dpa →
        (∀ s1 x, read dpa = .value s1 x →
          exec (.sld d a o h) s = .next (((s1.cueForget t).cueSample T va 0).cueTo t (u.word + 4)
            (fun T => T.write h.toNat d.toNat (BitVec.ofNat 64 x)))) ∧
        (∀ s1 ws, read dpa = .wait s1 ws → exec (.sld d a o h) s = .next (s1.cueStall t ws)) ∧
        (∀ s1 e r, read dpa = .fault s1 e r → exec (.sld d a o h) s = .next ((s1.cueForget t).raiseCue t u.group e r 0 va 0)))) ∧
    (∀ l L u, s.cueIssue? = none → s.prologue? = some (l, L, u) →
      let va := wrap 64 ((L.s.getD a.toNat 0).toNat + off4 u.hints o.toNat)
      (∀ s1 x, s.prologueRead l L va = .value s1 x → exec (.sld d a o h) s =
        .next (s1.prologueWrite l (u.word + 4) h.toNat d.toNat (BitVec.ofNat 64 x) (fun L => { L with answers := [] }))) ∧
      (∀ s1 ws, s.prologueRead l L va = .wait s1 ws → exec (.sld d a o h) s = .next s1.endIssue) ∧
      (∀ s1 e r, s.prologueRead l L va = .fault s1 e r → exec (.sld d a o h) s = .next (s1.prologueFault l 3 e 0 va)))

/-- 11 R270, Table 11-2, 10 R225, R232: the value of a cue read that goes to no target and whose data are verified: the committed bytes,
from the core's L1, or, past it or in a live range (06 R135), from the line's home once the line is there and reads well; a group that is
not up answers nothing (25 R485). One whose data are
not verified waits, and one at its target takes the answer once it is there. -/
def Sys2Proof.Claims.CueReadValue : Prop :=
  ∀ (s : State) (t : Nat) (T : Troupe) (va a n l1 msc : Nat) (system : Bool),
    let L := s.launchOf T
    let w := L.world
    let read := s.cueRead t T va a n system l1 msc
    let live := s.live w L.tcid va a
    let hit : Prop := l1 ≠ 3 ∧ live = false ∧ s.groupDown a = false ∧ (s.coreAt T.place.coreNo).hits w L.tcid va false = true
    let home : Prop := live = true ∨
      (2 ≤ l1 ∧ (isOutside a = false ∨ (s.copies.get? (lineKey w (a / 128))).isSome = true))
    (s.far L system va a = false →
      (s.anyUnverified w [a / 128] = true → read = .wait s []) ∧
      (s.anyUnverified w [a / 128] = false →
        (hit → read = .value s (s.seenNat w a n)) ∧
        (¬ hit → home → s.readFault w a = none → read = .value (s.homeRead w a n msc) (s.seenNat w a n)) ∧
        (¬ hit → home → ∀ e, s.readFault w a = some e → read = .fault (s.serve w a n) e 0))) ∧
    (s.far L system va a = true → ∀ x, T.cue.answers.get? 0 = some x →
      (answerBad x = none → read = .value s x) ∧ (∀ e r, answerBad x = some (e, r) → read = .fault s e r))

/-- 11 R270, R271, 10 R225, R229: sst and samo. A store near its home is performed whole in its place in the global order, one at its target
commits, at a home that may hold the line and for its readers, goes out and waits for its acknowledgement, a held line is waited for, a
sealed buffer traps, an atomic goes to its home's queue or its target and its old value is written when it
comes; a malformed control word traps. -/
def Sys2Proof.Claims.CueStoresAndAtomics : Prop :=
  ∀ (s : State) (t : Nat) (T : Troupe) (u : Issue) (d : BitVec 9) (a : BitVec 8) (o h : BitVec 4), CueAt s t T u →
    let L := s.launchOf T
    let va := cueTarget T u a o
    let bytes := leBytes 8 (T.gets d.toNat).toNat
    let x (k : Nat) := (T.gets (d.toNat + k)).toNat
    let op := x 1 % 16
    let w := if x 1 / 16 % 2 = 1 then 4 else 8
    let malformed : Prop := 10 < op ∨ 32 ≤ x 1 ∨ (op = 10 ∧ w = 8) ∨ (op = 9 ∧ T.uregs ≤ d.toNat + 2)
    let args := if op = 9 then (x 0 % 2 ^ (8 * w), x 2 % 2 ^ (8 * w)) else (0, x 0 % 2 ^ (8 * w))
    let trap (cause reason : Nat) := s.raiseCue t u.group cause reason 0 va 0
    let core := if (cacheOf u.hints).1 < 2 then some T.place.coreNo else none
    let write (dpa : Nat) := (s.cueSample T va 1).writeLine L.world (runTab dpa bytes) (cacheOf u.hints).2 core
    let home (dpa : Nat) := s.writeLine L.world (runTab dpa bytes) (cacheOf u.hints).2 core
    let out (dpa : Nat) (s : State) := (s.send (.write bytes) (.cue t) L.world dpa T.launch).cueStall t [.answer 0]
    let busy (dpa : Nat) := s.cueStall t [.clear L.world (dpa / 128)]
    let unasked : Prop := T.cue.answers.get? 0 = none ∧ s.cueAsked t = false
    (∀ e, s.laneAddr L .store va 8 = .error e → exec (.sst d a o) s = .next (trap e.1 e.2)) ∧
    (∀ dpa, s.laneAddr L .store va 8 = .ok dpa →
      (s.sealState L.world L.tcid va = 1 → unasked → exec (.sst d a o) s = .next (trap 0x2D 1)) ∧
      (s.sealState L.world L.tcid va = 0 → s.atTarget (isSystem u.hints) dpa = false →
        s.contained L.world dpa = false →
        (∀ s', write dpa = some (s', []) → exec (.sst d a o) s = .next (s'.cueTo t (u.word + 4) Troupe.tick)) ∧
        (∀ s' g e fs, write dpa = some (s', (g, e) :: fs) → exec (.sst d a o) s = .next (s'.raiseCue t u.group e 0 0 va 0)) ∧
        (write dpa = none → exec (.sst d a o) s = .next (busy dpa))) ∧
      (s.sealState L.world L.tcid va = 0 → s.atTarget (isSystem u.hints) dpa = true → unasked →
        (s.lineBusy L.world (dpa / 128) = true → exec (.sst d a o) s = .next (busy dpa)) ∧
        (s.lineBusy L.world (dpa / 128) = false → s.linkDown L.world dpa = true → exec (.sst d a o) s = .next (trap 0x50 0)) ∧
        (s.lineBusy L.world (dpa / 128) = false → s.linkDown L.world dpa = false →
          (s.ctl.poolc = false → exec (.sst d a o) s = .next (out dpa (s.expose L.world [dpa / 128]))) ∧
          (s.ctl.poolc = true →
            (∀ s', home dpa = some (s', []) → exec (.sst d a o) s = .next (out dpa s')) ∧
            (∀ s' g e fs, home dpa = some (s', (g, e) :: fs) → exec (.sst d a o) s = .next (trap e 0))))) ∧
      (s.atTarget (isSystem u.hints) dpa = true → ∀ y, T.cue.answers.get? 0 = some y →
        (answerBad y = none →
          exec (.sst d a o) s = .next (((s.cueForget t).cueSample T va 1).cueTo t (u.word + 4) Troupe.tick)) ∧
        (∀ e r, answerBad y = some (e, r) →
          exec (.sst d a o) s = .next ((s.cueForget t).raiseCue t u.group e r 0 va 0)))) ∧
    (malformed → exec (.samo d a o h) s = .next (trap 0x2A 3)) ∧
    (¬ malformed → ∀ dpa, s.laneAddr L .store va w = .ok dpa → s.sealState L.world L.tcid va = 0 →
      (s.far L (isSystem u.hints) va dpa = true → ∀ r, farAtomicBad op dpa = some r → exec (.samo d a o h) s = .next (trap 0x2A r)) ∧
      (s.far L (isSystem u.hints) va dpa = false → unasked → s.queued (s.home L.world (dpa / 128)) < 128 →
        s.redsHeld s.drains (s.home L.world (dpa / 128)) = false →
        exec (.samo d a o h) s = .next ((s.enqueue
          { seq := 0, asker := .cue t, world := L.world, tcid := L.tcid, va := va, dpa := dpa, op := op, width := w
            cmp := args.1, val := args.2 }).cueStall t [.answer 0])) ∧
      (s.far L (isSystem u.hints) va dpa = true → farAtomicBad op dpa = none → unasked →
        exec (.samo d a o h) s = .next ((s.send (.atomic op w args.1 args.2) (.cue t) L.world dpa T.launch va).cueStall t [.answer 0])) ∧
      (∀ old, (s.far L (isSystem u.hints) va dpa = true → farAtomicBad op dpa = none) → T.cue.answers.get? 0 = some old →
        answerBad old = none →
        exec (.samo d a o h) s = .next (((s.cueForget t).cueSample T va 2).cueTo t (u.word + 4)
          (fun T => T.write h.toNat d.toNat (BitVec.ofNat 64 old)))))

/-- 11 R255, R257, R267: the cue stream's fence, wait and seal. A wait goes on when the word at its address, in scratchpad or memory, meets its
condition, and looks again later when it does not; a seal or an unseal, checked behind the committed seals that
still drain, takes effect at once. -/
def Sys2Proof.Claims.CueSynchronisation : Prop :=
  ∀ (s : State) (t : Nat) (T : Troupe) (u : Issue) (d : BitVec 9) (a b : BitVec 8) (o : BitVec 4), CueAt s t T u →
    let L := s.launchOf T
    let ctl := (T.gets d.toNat).toNat
    let va := cueTarget T u a o
    let meets (x : Nat) : Bool := waitCond (ctl / 2 ^ 32 % 8) (BitVec.ofNat 32 x) (BitVec.ofNat 32 ctl)
    let bad : Prop := 2 ^ 36 ≤ ctl ∨ ctl / 2 ^ 32 % 8 = 7
    let goOn (s : State) := s.cueTo t (u.word + 4) Troupe.tick
    let trap (cause reason info : Nat) := s.raiseCue t u.group cause reason 0 va info
    let base := (T.gets a.toNat).toNat
    let len := (T.gets b.toNat).toNat
    (isSystem u.hints = false ∨ s.cueAsked t = false → exec .sfence s = .next (goOn s)) ∧
    (isSystem u.hints = true → s.cueAsked t = true → exec .sfence s = .next (s.cueStall t [.acked])) ∧
    (bad → exec (.swait d a o) s = .next (trap 0x61 0 0)) ∧
    (¬ bad → ctl / 2 ^ 35 % 2 = 1 → va < 2 ^ 32 → va % 4 = 0 → ∀ p, s.spadAt t T va 4 = .ok p →
      (s.lineFull p.1 p.2 = true → meets (leNat (s.spadBytes p.1 p.2 4)) = true → exec (.swait d a o) s = .next (goOn s)) ∧
      (s.lineFull p.1 p.2 = false ∨ meets (leNat (s.spadBytes p.1 p.2 4)) = false → exec (.swait d a o) s =
        .next (s.cueStall t [.pad p.1 p.2 (ctl / 2 ^ 32 % 8) (BitVec.ofNat 32 ctl)]))) ∧
    (¬ bad → ctl / 2 ^ 35 % 2 = 0 → ∀ dpa s' x, s.laneAddr L .load va 4 = .ok dpa →
      s.cueRead t T va dpa 4 (isSystem u.hints) 2 0 = .value s' x →
      let s0 := s'.cueForget t
      let s1 := if s.far L (isSystem u.hints) va dpa then s0 else s0.cueSample T va 0
      exec (.swait d a o) s = .next (if meets x then goOn s1 else s1.cueStall t
        (if s.far L (isSystem u.hints) va dpa then [] else [.word dpa (ctl / 2 ^ 32 % 8) (BitVec.ofNat 32 ctl)]))) ∧
    (base % 128 ≠ 0 ∨ len % 128 ≠ 0 ∨ 2 ^ 32 ≤ len → exec (.sseal a b) s = .next (s.raiseCue t u.group 0x2D 3 0 base 0)) ∧
    (base % 128 = 0 → len % 128 = 0 → len < 2 ^ 32 → s.sealRangeBad L base (max 1 len) = none →
      (∀ r, s.withSeals.sealNow L.world L.tcid T.launch base len = .error r →
        exec (.sseal a b) s = .next (s.raiseCue t u.group 0x2D r 0 base 0)) ∧
      (∀ s', s.withSeals.sealNow L.world L.tcid T.launch base len = .ok s' →
        exec (.sseal a b) s = .next (goOn (s.sealOr L.world L.tcid T.launch (base, len)))) ∧
      (s.drains = [] → ∀ s', s.sealNow L.world L.tcid T.launch base len = .ok s' → exec (.sseal a b) s = .next (goOn s')))

/-- sld, sst, samo, sfence, swait and sseal. -/
def Obligations.CueMemory : Prop :=
  Sys2Proof.Claims.CueLoads ∧
  Sys2Proof.Claims.CueReadValue ∧
  Sys2Proof.Claims.CueStoresAndAtomics ∧
  Sys2Proof.Claims.CueSynchronisation

/-! ### Queues, tensor copies and control flow of the cue stream -/

/-- 09 R205, R208-R210: the cue stream's queue instructions. qfill appends 32 words to a port with room, from a register or a full line of
scratchpad, and one that has stalled does so though the set ends; qdrain takes the oldest committed entry, waits for one while the set lives, and
traps once it has ended; qstat counts the committed entries of each port and says whether the set lives. A
set number out of range traps. -/
def Obligations.CueQueues : Prop :=
  ∀ (s : State) (t : Nat) (T : Troupe) (u : Issue) (d : BitVec 9) (m : BitVec 1) (p : BitVec 3) (a b : BitVec 8), CueAt s t T u →
    let set := (T.gets b.toNat).toNat
    let v := (T.gets a.toNat).toNat
    let x := v % 2 ^ 32
    let goOn (s : State) := s.cueTo t (u.word + 4) Troupe.tick
    let pop (s : State) := s.onSet t set (fun S => { S with ports := modAt S.ports p.toNat (·.drop 1) })
    (T.cue.handler = none → T.sets ≤ set →
      exec (.qfill m p a b) s = .next (s.raiseCue t u.group 0x0E 1 0 0 0) ∧
      exec (.qdrain m p a b) s = .next (s.raiseCue t u.group 0x0E 1 0 0 0)) ∧
    (T.cue.handler = none → set < T.sets → ∀ S, T.setTab.get? set = some S → S.alive = true ∨ (T.cue.answers.get? 2).isSome = true →
      ((S.port p.toNat).length < 2 →
        (m = 0 → exec (.qfill m p a b) s = .next (goOn ((s.cueForget t).onSet t set (fun S =>
          S.push p.toNat { words := List.replicate 32 (BitVec.ofNat 32 v), taken := 0, pushed := 0 })))) ∧
        (m = 1 → x % 128 = 0 → ∀ q, s.spadAt t T x 128 = .ok q → s.lineFull q.1 q.2 = true →
          exec (.qfill m p a b) s = .next (goOn ((s.cueForget t).onSet t set (fun S =>
            S.push p.toNat { words := (List.range 32).map (fun i => BitVec.ofNat 32 (leNat (s.spadBytes q.1 (q.2 + 4 * i) 4)))
                             taken := 0, pushed := 0 }))))) ∧
      (2 ≤ (S.port p.toNat).length → (m = 1 → x % 128 = 0 ∧ ∃ q, s.spadAt t T x 128 = .ok q) → exec (.qfill m p a b) s =
        .next ((s.onCue t (fun C => { C with answers := C.answers.set 2 1 })).cueStall t [.port set p.toNat true]))) ∧
    (T.cue.handler = none → set < T.sets → m = 0 → ∀ S, T.setTab.get? set = some S → S.drainable p.toNat = none →
      exec (.qdrain m p a b) s = .next (if S.alive then s.cueStall t [.port set p.toNat false]
        else s.raiseCue t u.group 0x0E 3 0 0 0)) ∧
    (T.cue.handler = none → set < T.sets → ∀ S e, T.setTab.get? set = some S → S.drainable p.toNat = some e →
      (m = 0 → exec (.qdrain m p a b) s = .next ((pop s).cueTo t (u.word + 4)
        (fun T => T.write 0 a.toNat (BitVec.ofNat 64 (e.words.headD 0).toNat)))) ∧
      (m = 1 → x % 128 = 0 → ∀ q, s.spadAt t T x 128 = .ok q → s.spadFree q.1 q.2 (q.2 + 128) = false →
        exec (.qdrain m p a b) s = .next (s.cueStall t [.unread q.1 q.2 (q.2 + 128)])) ∧
      (m = 1 → x % 128 = 0 → ∀ q, s.spadAt t T x 128 = .ok q → s.spadFree q.1 q.2 (q.2 + 128) = true →
        exec (.qdrain m p a b) s = .next (goOn
          (((pop s).onTroupe q.1 (fun V => V.putBytes q.2 (e.words.flatMap (fun w => leBytes 4 w.toNat)))).spadSquash t 0xFF
            [(q.1, q.2 / 128)])))) ∧
    (∀ S, T.setTab.get? set = some S → set < T.sets →
      let count (j : Nat) := ((S.port j).filter (fun e => e.pushed == 0)).length
      exec (.qstat d b) s = .next (s.cueTo t (u.word + 4) (fun T => T.write 0 d.toNat (BitVec.ofNat 64
        (((List.range 8).map (fun j => count j * 2 ^ (4 * j))).sum + (if S.alive then 2 ^ 32 else 0) + 2 ^ 33))))) ∧
    (T.sets ≤ set → exec (.qstat d b) s = .next (s.cueTo t (u.word + 4) (fun T => T.write 0 d.toNat 0)))

namespace Sys2Proof.Machine

/-- The scoreboard operation of a tensor copy (08 R184). -/
def tensorOp (T : Troupe) (t : Nat) (u : Issue) (a b : BitVec 8) (lay : Layout) (kind : OpKind) : Op :=
  let x := (T.gets a.toNat).toNat
  let A := wordAddr (BitVec.ofNat 32 x) (immOff u.hints)
  let word (k : Nat) : Nat := (T.gets (b.toNat + k)).toNat
  { Op0 with
    kind := kind, pc := u.group, troupe := t, set := 0xFF, layout := lay, handle := x / 2 ^ 32 % 2 ^ 12, sp := A
    coords := [sextNat 32 (word 0), sextNat 32 (word 0 / 2 ^ 32), sextNat 32 (word 1), sextNat 32 (word 1 / 2 ^ 32), sextNat 32 (word 2)]
    ivals := [{ lo := A % 2 ^ 19, hi := A % 2 ^ 19 + lay.boxBytes, write := kind == .tcpyIn }]
    cword := (cwordOf u.hints).map (fun c => (c.2, BitVec.ofNat 32 (T.gets c.1).toNat)), args := [(cacheOf u.hints).2] }

end Sys2Proof.Machine

/-- 08 R171, R184-R186: a tensor copy through a registered layout, whose box and completion word lie well in the allotment, takes the lowest
free scoreboard entry and its position at once; with no free entry the stream waits, once counted; a sealed
buffer that it reads counts it. A missing layout traps with 0x42,
reason 1. -/
def Sys2Proof.Claims.TensorCopiesIssue : Prop :=
  ∀ (s : State) (t : Nat) (T : Troupe) (u : Issue) (a b : BitVec 8) (pull : Bool), CueAt s t T u →
    let i : Instr := if pull then .tcpyIn a b else .tcpyOut a b
    let kind : OpKind := if pull then .tcpyIn else .tcpyOut
    let L := s.launchOf T
    let x := (T.gets a.toNat).toNat
    let A := wordAddr (BitVec.ofNat 32 x) (immOff u.hints)
    let core := T.place.coreNo
    ((s.world L.world).layouts.get? (x / 2 ^ 32 % 2 ^ 12) = none → exec i s = .next (s.raiseCue t u.group 0x42 1 0 0 0)) ∧
    (∀ lay, (s.world L.world).layouts.get? (x / 2 ^ 32 % 2 ^ 12) = some lay →
      let op := tensorOp T t u a b lay kind
      A < 2 ^ 19 → x < 2 ^ 44 → A % 128 = 0 → A + lay.boxBytes ≤ T.spadSize → (lay.fmt = 4 → (op.coords.getD 0 0) % 2 = 0) →
      (∀ c n, cwordOf u.hints = some (c, n) → 16 * n + 4 ≤ T.spadSize ∧
        (pull = true → 16 * n + 4 ≤ A ∨ A + lay.boxBytes ≤ 16 * n)) →
      (pull = false → ∀ va ∈ op.memory, s.sealState L.world L.tcid va ≠ 1) →
      let bufs := if pull then addAll [] ((op.memory.filter (fun va => s.sealState L.world L.tcid va == 1)).filterMap
        (fun va => ((s.world L.world).wobAt L.tcid va).map (·.1))) else []
      let s1 := bufs.foldl (fun (s : State) n => s.onWorld L.world (fun W =>
        { W with wobs := W.wobs.adjust n (fun b => { b with rc := b.rc + 1 }) })) (s.cueForget t)
      ((s.coreAt core).freeOp = none →
        exec i s = .next ((if (T.cue.answers.get? 3).isSome then s
          else (s.onCore core Core.fullIssue).onCue t (fun C => { C with answers := C.answers.set 3 1 })).cueStall t [.board])) ∧
      (∀ e, (s.coreAt core).freeOp = some e →
        exec i s = .next (((s1.onCore core (fun C => { C with ops := C.ops.set e { op with sealed := bufs } })).placeOp core e).cueTo
          t (u.word + 4) Troupe.tick)))

/-- 08 R181, R182: tlay with address 0 removes a layout; otherwise it reads the record's 64 bytes and registers it, or traps with the lowest
reason of cause 0x43. 05 R120: a cue bsum puts one command into its slice's engine queue. -/
def Sys2Proof.Claims.LayoutsAndCommands : Prop :=
  ∀ (s : State) (t : Nat) (T : Troupe) (u : Issue) (a b : BitVec 8), CueAt s t T u →
    let L := s.launchOf T
    let h := (T.gets b.toNat).toNat
    let va := wrap 64 ((T.gets a.toNat).toNat + immOff u.hints)
    let goOn (s : State) := s.cueTo t (u.word + 4) Troupe.tick
    let k := T.place.slice
    let x := (T.gets a.toNat).toNat
    let c := redCmdOf (s.spadBytes t x 64) T.launch t 0xFF 0 u.group false
    (4095 < h → exec (.tlay a b) s = .next (s.raiseCue t u.group 0x43 7 0 va 0)) ∧
    (h ≤ 4095 → va = 0 →
      exec (.tlay a b) s = .next (goOn (s.onWorld L.world (fun W => { W with layouts := W.layouts.del h })))) ∧
    (h ≤ 4095 → va ≠ 0 → va % 64 = 0 → ∀ dpa s' y, s.translate L .load va = .ok dpa →
      s.cueRead t T va dpa 64 false 2 0 = .value s' y →
      let s1 := (if s'.far L false va dpa then s' else s'.cueSample T va 0).cueForget t
      (layoutBad y = none →
        exec (.tlay a b) s = .next (goOn (s1.onWorld L.world (fun W => { W with layouts := W.layouts.set h (layoutOf y) })))) ∧
      (∀ r, layoutBad y = some r → exec (.tlay a b) s = .next (s1.raiseCue t u.group 0x43 r 0 va 0))) ∧
    (2 ^ 32 ≤ x ∨ T.blockBad x = true → exec (.cueBsum a) s = .next (s.raiseCue t u.group 0x40 0x0A 0 0 18)) ∧
    (x < 2 ^ 32 → T.blockBad x = false → s.lineFull t x = true →
      s.redBad L (s.windows L k) (s.spadBytes t x 64) c = none → (s.slice k).nb.queue.length < 64 →
      exec (.cueBsum a) s = .next (goOn (s.onSlice k (fun S => { S with nb := { S.nb with queue := S.nb.queue ++ [c] } }))))

/-- Tensor copies take scoreboard entries; tlay registers layouts; cue bsum queues a command. -/
def Obligations.TensorCopiesAndLayouts : Prop :=
  Sys2Proof.Claims.TensorCopiesIssue ∧
  Sys2Proof.Claims.LayoutsAndCommands

/-- 02 R34, 16 R364, R372-R375: control flow of the cue stream. A branch to code goes there, scall with the return address in s12; a
target outside the code traps with 0x0A; sret goes to a register's address; sexit ends the stream once its tensor copies have
completed; syield idles it for its period. -/
def Sys2Proof.Claims.CueControlFlow : Prop :=
  ∀ (s : State) (t : Nat) (T : Troupe) (u : Issue) (z : BitVec 5) (q : BitVec 1) (o : BitVec 19) (a : BitVec 8), CueAt s t T u →
    let x := sbTarget u o
    let y := (T.gets a.toNat).toNat
    let taken : Prop := (T.gets z.toNat ≠ 0) ↔ q = 1
    let lands : Prop := s.codeHas u.agent x = true
    let out := s.raiseCue t u.group 0x0A 1 0 (wrap 64 x) 0
    (¬ taken → exec (.sbra z q o) s = .next (s.cueTo t (u.word + 4) Troupe.tick)) ∧
    (taken → lands → exec (.sbra z q o) s = .next (s.cueTo t x.toNat Troupe.tick)) ∧
    (taken → ¬ lands → exec (.sbra z q o) s = .next out) ∧
    (lands → exec (.sjmp o) s = .next (s.cueTo t x.toNat Troupe.tick)) ∧
    (¬ lands → exec (.sjmp o) s = .next out) ∧
    (lands → exec (.scall o) s = .next (s.cueTo t x.toNat (fun T => T.write 0 12 (BitVec.ofNat 64 (u.word + 4))))) ∧
    (¬ lands → exec (.scall o) s = .next out) ∧
    (y % 4 = 0 → y < 2 ^ 32 → s.codeHas u.agent y = true → exec (.sret a) s = .next (s.cueTo t y Troupe.tick)) ∧
    (y % 4 ≠ 0 → exec (.sret a) s = .next (s.raiseCue t u.group 0x01 0x0C 0 y 0)) ∧
    (T.cue.handler.isSome = true → exec .sexit s = .next (s.raiseCue t u.group 0x0B 2 0 0 0)) ∧
    (T.cue.handler = none → (∀ e ∈ (s.coreAt T.place.coreNo).ops, ¬ (e.2.troupe = t ∧ e.2.set = 0xFF)) →
      exec .sexit s = .next (s.onCue t (fun C => { C with ended := true, win := [], pc := u.word + 4 })).endIssue) ∧
    exec .syield s = .next ((s.cueTo t (u.word + 4) Troupe.tick).onCue t (fun C => { C with idle := true }))

/-- 22 R453, R455: strap completes and raises cause 0x02 with its code and its register. srett, in a handler, goes to the address in s14,
leaves the handler's open windows of the troupe's own registers to the stream and gives a held copy its disposition; outside a handler it is
misuse. -/
def Sys2Proof.Claims.CueTraps : Prop :=
  ∀ (s : State) (t : Nat) (T : Troupe) (u : Issue) (d : BitVec 9) (i : BitVec 16), CueAt s t T u →
    exec (.strap d i) s = .next ((s.onTroupe t (fun T => { T.tick with cue := { T.tick.cue with pc := u.word + 4 } })).raiseCue t u.group
      0x02 0 i.toNat 0 (T.gets d.toNat).toNat) ∧
    (T.cue.handler = none → exec .srett s = .next (s.raiseCue t u.group 0x0B 1 0 0 0)) ∧
    (∀ h, T.cue.handler = some h →
      let x := (h.bank.getD 14 0).toNat
      let r := (h.bank.getD 8 0).toNat
      let s1 := ((s.onTroupe t Troupe.tick).onCue t (fun C =>
        { C.leaveHandler with pc := x, waiting := C.traps.any (fun tr => !tr.late) })).endIssue
      (x % 4 = 0 → x < 2 ^ 32 → (s.launchOf T).desc.inCode x = true →
        exec .srett s = .next (match h.trap.copy with
          | some e => s1.dispose T.place.coreNo e (r / 2 ^ 16 % 2 ^ 8) (r / 2 ^ 48)
          | none => s1)) ∧
      (x % 4 ≠ 0 → exec .srett s = .next (s.raiseCue t u.group 0x01 0x0C 0 x 0)))

/-- Branches, calls, exit and yield of the cue stream, strap, srett and sysw.
The resume point after strap is notes/assumptions/13. -/
def Obligations.CueControl : Prop :=
  Sys2Proof.Claims.CueControlFlow ∧
  Sys2Proof.Claims.CueTraps

/-! ### The prologue -/

/-- 16 R383-R386, 21 R431: the prologue's own instructions. lset writes a settable word of the working copy and is a fault on another; lgo and
lrepeat end the run with a grid to launch, or with none when an extent is 0; lcancel completes the launch with the register's
status; a branch of a prologue goes to its target; a run of 256 counted instructions without an end is a fault. -/
def Obligations.PrologueInstructions : Prop :=
  ∀ (s : State) (l : Nat) (L : Launch) (u : Issue) (f : BitVec 9) (a : BitVec 8) (z : BitVec 5) (q : BitVec 1) (o : BitVec 19),
    let x := sbTarget u o
    let grid (again : Bool) : State := (s.onLaunch l (fun L =>
      if L.companies = 0 then { L.tick with again := false, ending := true, status := 0, stage := .running }
      else { L.tick with again := again, stage := .admission })).endIssue
    (s.prologue? = some (l, L, u) →
      (settable f.toNat = true → exec (.lset f a) s = .next (s.prologueNext l (u.word + 4) (fun L =>
        { L with words := setAt L.words f.toNat (L.s.getD a.toNat 0) }))) ∧
      (settable f.toNat = false → exec (.lset f a) s = .next (s.prologueFault l 4 0 0 0)) ∧
      exec .lgo s = .next (grid false) ∧ exec .lrepeat s = .next (grid true) ∧
      exec (.lcancel a) s = .next (s.onLaunch l (fun L =>
        { L with
          again := false, ending := true, user := true, status := (L.s.getD a.toNat 0).toNat % 2 ^ 16, stage := .running })).endIssue ∧
      (((L.s.getD z.toNat 0 ≠ 0) ↔ q = 1) → s.codeHas u.agent x = true →
        exec (.sbra z q o) s = .next (s.prologueNext l x.toNat id)) ∧
      (s.codeHas u.agent x = true → exec (.sjmp o) s = .next (s.prologueNext l x.toNat id))) ∧
    (s.launches.get? l = some L → L.stage = .prologue → L.ending = false → 256 ≤ L.count →
      exec (.prologueCountLimit l) s = .next (s.prologueFault l 2 0 0 0))

/-! ### Steps of the device: commits, homes, engines and traps -/

/-- 10 R215-R221, R229, Table 10-3: how a closed chunk commits. It takes its ticket, then the grants of its written lines' homes one by one,
then its signature goes to the cores that the homes name; a conflicting grant is waited for. A core with no set in conflict drops the lines
and acknowledges. Once every core has, the chunk takes effect, its stores drain to their homes, and then its seals are registered (06 R137);
a seal that must fail squashes the chunk first. A chunk whose reductions find no room at their homes waits (06 R129). A squash restores the
checkpoint of the chunk's start; the 16th in a row starves the set. A committed store that fails at its home raises its late trap; one at a
link target leaves as a request, and a release first waits for what the set has out. -/
def Obligations.ChunksCommit : Prop :=
  ∀ (s : State) (t k core : Nat) (T : Troupe) (S : SetState) (c : Chunk),
    (s.troupes.get? t = some T → s.setAt? t k = some S → S.closing = some c → S.shift = S → s.onSet t k SetState.shift = s →
      c.writes ≠ [] → (∀ h ∈ s.homesOf (s.worldOf T) c.writes, (s.slice h).state ≠ 3) →
      s.sealedStores (s.launchOf T) c 1 = false → s.sealedStores (s.launchOf T) c 2 = false →
      (c.phase = .closed → s.redRoom (s.worldOf T) c.reds = false → exec (.chunkGrantRequest t k) s = .next s) ∧
      (c.phase = .closed → s.redRoom (s.worldOf T) c.reds = true → exec (.chunkGrantRequest t k) s =
        .next (s.onClosing t k (fun c => { c with phase := .granting [], ticket := (s.cycle.toNat, T.place.coreNo, k) }))) ∧
      (∀ got, c.phase = .granting got →
        (∀ h, (s.homesOf (s.worldOf T) c.writes).find? (fun h => !got.contains h) = some h →
          ((∃ g ∈ s.grants, g.home = h ∧ ¬ (g.troupe = t ∧ g.set = k) ∧ writeSig g.lines c.writes = true) →
            exec (.chunkGrantRequest t k) s = .next s) ∧
          ((∀ g ∈ s.grants, g.home = h → ¬ (g.troupe = t ∧ g.set = k) → writeSig g.lines c.writes = false) →
            (∀ d ∈ s.drains, d.world = s.worldOf T → d.homes.contains h = true → writeSig d.lines c.writes = false) → s.holders (s.worldOf T) t k c.writes = [] →
            exec (.chunkGrantRequest t k) s = .next
              (({ s with grants := s.grants ++ [{ home := h, troupe := t, set := k, lines := c.writes }] } : State).onClosing t k
                (fun c => { c with phase := .granting (got ++ [h]) })))) ∧
        ((∀ h ∈ s.homesOf (s.worldOf T) c.writes, got.contains h = true) →
          exec (.chunkGrantRequest t k) s =
            .next (s.onClosing t k (fun c => { c with phase := .acking (s.namedCores (s.worldOf T) t k c.writes) false }))))) ∧
    (∀ cores refused, s.troupes.get? t = some T → s.setAt? t k = some S → S.closing = some c → c.phase = .acking cores refused →
      cores.contains core = true →
      let w := s.worldOf T
      let sets : List (Nat × Nat × SetState) := s.troupes.flatMap (fun e => if e.2.place == .core core && s.worldOf e.2 == w then
        (e.2.setTab.filter (fun f => !(e.1 == t && f.1 == k))).map (fun f => (e.1, f.1, f.2)) else [])
      let meets (d : Chunk) : Bool := c.writes.any (fun l => readSig d.reads l)
      let before (d : Chunk) : Bool := ticketLt d.ticket c.ticket && (match d.phase with | .granting _ | .acking .. => true | _ => false)
      let undone (S : SetState) : Bool := S.closing.any (fun d => meets d && !before d)
      let refusal := sets.any (fun x => x.2.2.closing.any (fun d => meets d && before d))
      exec (.signatureReceived core t k) s =
        .next ((sets.foldl (fun (s : State) x =>
            if undone x.2.2 then s.squashAll x.1 x.2.1 else if x.2.2.chunk.any meets then s.squash x.1 x.2.1 false else s)
          (s.dropL1 (fun n l => n == core && l.world == w && c.writes.contains l.dpa))).onClosing t k
          (fun d => { d with phase := .acking (cores.filter (· != core)) (refused || refusal) }))) ∧
    (s.troupes.get? t = some T → s.setAt? t k = some S → ∀ d, S.chunk = some d → d.tx = none →
      let gone := ((s.dropReads t k).tally (s.worldOf T) 4 1).freeOps T.place.coreNo d.copies
      s.squash t k false = gone.onSet t k (fun S => { (S.undo false).ageFrom s.cycle.toNat with
        squashes := S.squashes + 1, starving := S.starving || decide (15 ≤ S.squashes) }) ∧
      (S.undo false).threads = d.start ∧ (S.undo false).chunk = none ∧ (S.undo false).closing = S.closing ∧
      (S.undo false).names = d.names ∧ (S.undo false).handler = d.held) ∧
    (∀ d : Chunk, d.copies = [] → d.amask = none → d.reds = [] → d.spWrites = [] → d.stores ≠ [] →
      let w := s.worldOf T
      let s1 := ((s.spadEffects d).dropGrants t k).onSet t k (fun S => ({ S.portsCommit with
        closing := none, squashes := if d.tx.isSome then S.squashes else 0, txSquashes := if d.tx.isSome then 0 else S.txSquashes
        starving := false, retry := 0, trapReady := d.trap.orElse (fun _ => S.trapReady) }).shift)
      let s2 := s1.exposeCommit w T.place.coreNo d (t, k)
      s.commit t k T d = ({ s2 with drains := s2.drains ++ [{ troupe := t, set := k, launch := T.launch, world := w, pc := d.pc, stores := d.stores
                                                              outs := d.outs, homes := s1.homesOf w d.writes, lines := d.writes
                                                              seals := d.seals }] } : State).tally w 3 1) ∧
    (s.onSet t k SetState.shift = s → s.troupes.get? t = some T → s.setAt? t k = some S → S.closing = some c →
      s.commitReady (s.worldOf T) c = true → s.sealedStores (s.launchOf T) c 1 = false → s.sealedStores (s.launchOf T) c 2 = false →
      ((s.withSeals.sealAll (s.launchOf T) T.launch c.seals).isSome = true → exec (.commitPoint t k) s = .next (s.commit t k T c)) ∧
      (s.withSeals.sealAll (s.launchOf T) T.launch c.seals = none →
        exec (.commitPoint t k) s = .next ((s.squashAll t k).onSet t k (fun S => { S with retry := 1 })))) ∧
    (∀ i d s1, s.drains.findIdx? (fun d => d.troupe == t && d.set == k) = some i → s.drains[i]? = some d →
      let done (s : State) : State := { s.sealDrain d with drains := (s.sealDrain d).drains.eraseIdx i }
      let mine := d.stores.filter (fun x => !x.sys || s.ctl.poolc)
      (∀ bad, d.stores ≠ [] → d.outs = [] →
        (s.dropPassed d.world t d.stores).homeStore d.world (storeTab mine) (storePol mine) = (s1, bad) →
        let s2 := bad.foldl (fun (s : State) b => s.lateTrap d.launch t k { cause := b.2, set := k, pc := d.pc, addr := b.1 }) s1
        (d.seals = [] ∨ s2.unacked t k = false → exec (.storeDrain t k) s = .next (done s2))) ∧
      (∀ x, d.stores = [] → d.outs = [.store x] →
        let sent := s.send (.write x.bytes) (.set t k 32 d.pc) d.world x.dpa d.launch
        (x.rel = false ∨ s.unacked t k = false → d.seals = [] → exec (.storeDrain t k) s = .next (done sent)) ∧
        (x.rel = true → s.unacked t k = true → exec (.storeDrain t k) s =
          .next { s with drains := setAt s.drains i { d with lines := [x.dpa / 128] } })) ∧
      (∀ r, d.stores = [] → d.outs = [.red r] → r.sys = true → r.rel = false ∨ s.unacked t k = false → d.seals = [] →
        exec (.storeDrain t k) s = .next (done (s.send (.atomic r.op r.width 0 r.val) (.set t k 32 d.pc) d.world r.dpa d.launch))) ∧
      (d.stores = [] → d.outs = [] → d.seals ≠ [] → s.unacked t k = true →
        exec (.storeDrain t k) s = .next { s with drains := setAt s.drains i { d with lines := [] } }))

/-- 06 R122, R125, R129-R134, R137, 07 R146-R149, R163, 10 R495, 11 R249, R254: the homes and the L1s. The head of a home's atomics is
performed on the committed value, and its asker gets the old one; the lanes of one amo are performed in one turn, in lane order, once each
of them can be, and fail together (11 R240; the turn is the model's choice, log 71); the first reduction likewise; a partial goes home; a
miss is filled; a line leaves its home, or a sealed one an L1; a hotness sample enters the ring, or is dropped when the ring is full. -/
def Obligations.HomesAndLines : Prop :=
  ∀ (s : State) (k core line index w t set cl : Nat),
    (∀ e rest, (s.slice k).atomics = e :: rest → s.lineBusy e.world (e.dpa / 128) = false → s.anyUnverified e.world [e.dpa / 128] = false →
      s.sealState e.world e.tcid e.va ≠ 2 → (∀ a ∈ (s.slice k).atomics, e.seq ≤ a.seq) → (∀ r ∈ (s.slice k).reds, e.seq ≤ r.seq) →
      let gone (s : State) : State := s.onSlice k (fun S => { S with atomics := rest })
      (∀ u, e.asker = .cue u →
        (s.performBad e = none → exec (.homeAtomicPerform k) s = .next ((gone s).performAtomic e)) ∧
        (∀ b, s.performBad e = some b → exec (.homeAtomicPerform k) s =
          .next ((gone (s.serve e.world e.dpa e.width)).giveOld e.asker (badAnswer b.1 b.2)))) ∧
      (∀ u i j, e.asker = .lane u i j → j < 32 → s.nearAtomics u i = [(k, e)] → s.farAtomics u i = [] →
        (s.performBad e = none → exec (.homeAtomicPerform k) s = .next ((s.dropAtomics u i).performAtomic e)) ∧
        (∀ b, s.performBad e = some b → exec (.homeAtomicPerform k) s = .next ((s.serve e.world e.dpa e.width).atomicFails u i
          [{ lane := j, cause := b.1, reason := b.2, addr := e.va, info := 0 }])))) ∧
    (∀ e rest u i j, (s.slice k).atomics = e :: rest → e.asker = .lane u i j →
      let nears := (s.nearAtomics u i).map (·.2)
      let fars := (s.farAtomics u i).map (·.2)
      let ready : Prop := (∀ x ∈ s.nearAtomics u i, s.nearReady x.1 x.2 = true) ∧ ∀ r ∈ fars, s.farReady r = true
      (¬ ready → exec (.homeAtomicPerform k) s = .next s) ∧
      (ready → (∀ x ∈ nears, s.performBad x = none) → (∀ r ∈ fars, (r.answered = none ∨ r.answered = some 0) ∧ s.sealFor r ≠ 1) →
        exec (.homeAtomicPerform k) s = .next ((List.range 32).foldl (fun (t : State) n =>
          match nears.find? (fun x => x.asker == .lane u i n), fars.find? (fun r => r.lane == n) with
          | some x, _ => t.performAtomic x
          | none, some r => (match r.kind with
            | .atomic op width cmp x => (t.performFar r op width cmp x).1.giveOld (.lane u i n) (t.performFar r op width cmp x).2
            | _ => t)
          | none, none => t) (s.dropAtomics u i))) ∧
      (ready → s.amoFails u i ≠ [] → exec (.homeAtomicPerform k) s =
        .next (((nears.filter (fun x => (s.performBad x).isSome)).foldl (fun t x => t.serve x.world x.dpa x.width) s).atomicFails u i
          (s.amoFails u i))) ∧
      (∀ f ∈ s.amoFails u i, (∃ x ∈ nears, s.performBad x = some (f.cause, f.reason) ∧ f.addr = x.va) ∨
        ∃ r ∈ fars, f.lane = r.lane ∧ f.addr = r.va ∧ (r.answered = some f.cause ∨ f.cause = 0x2D ∧ s.sealFor r = 1))) ∧
    (∀ (r : Request) op width cmp x,
      let old := leNat (s.mem.readBytes r.dpa width)
      let bs := leBytes width (atomicNew op width old cmp x)
      (op ≠ 9 ∨ old = cmp → s.performFar r op width cmp x =
        ((({ s with mem := s.mem.writeBytes r.dpa bs } : State).refresh r.world r.dpa bs).expose r.world [r.dpa / 128], old)) ∧
      (op = 9 → old ≠ cmp → s.performFar r op width cmp x = (s, old))) ∧
    (∀ e : Atomic,
      let s1 := s.homeRead e.world e.dpa e.width 0
      let old := s1.seenNat e.world e.dpa e.width
      let s2 := if e.op = 9 ∧ old ≠ e.cmp then s1 else
        ((s1.homeWrite e.world (runTab e.dpa (leBytes e.width (atomicNew e.op e.width old e.cmp e.val)))).1).expose e.world [e.dpa / 128]
      s.performAtomic e = (s2.toSync e.world (e.dpa / 128)).giveOld e.asker old) ∧
    (∀ e rest, (s.slice k).reds = e :: rest → s.lineBusy e.world (e.red.dpa / 128) = false →
      s.anyUnverified e.world [e.red.dpa / 128] = false →
      (∀ a ∈ (s.slice k).atomics, e.seq ≤ a.seq) → (∀ r ∈ (s.slice k).reds, e.seq ≤ r.seq) →
      let mine := (s.slice k).entryReds (e.red.dpa / 128)
      exec (.redApply k) s = .next (mine.foldl State.applyRed
        (s.onSlice k (fun S => { S with reds := S.reds.filter (fun r => !mine.contains r) })))) ∧
    (∀ e : RedAt, (s.readFault e.world e.red.dpa = none →
        let s1 := s.homeRead e.world e.red.dpa e.red.width 0
        s.applyRed e = ((s1.homeWrite e.world (runTab e.red.dpa (leBytes e.red.width
          (atomicNew e.red.op e.red.width (s1.seenNat e.world e.red.dpa e.red.width) 0 e.red.val)))).1).expose e.world [e.red.dpa / 128]) ∧
      (∀ cause, s.readFault e.world e.red.dpa = some cause →
        s.applyRed e = (s.serve e.world e.red.dpa e.red.width).lateTrap e.launch e.troupe e.set
          { cause := cause, set := e.set, pc := e.pc, addr := e.red.dpa / 64 * 64 })) ∧
    (∀ p, (s.coreAt core).partials.get? line = some p → exec (.partialSend core line) s =
      .next ((s.addPartial p).onCore core (fun C => { C with partials := C.partials.del line }))) ∧
    exec (.sealedLineEvict core line) s = .next (s.dropL1 (fun n l => n == core && l.sealed && l.dpa == line)) ∧
    (∀ m, (s.coreAt core).misses.get? index = some m → m.err = 0 → m.req = none →
      (∀ cause, s.missError m.world m.dpa = some cause →
        exec (.l1MissFill core index 0) s = .next (s.onCore core (fun C => { C with misses := C.misses.set index { m with err := cause } }))) ∧
      (s.missError m.world m.dpa = none →
        (isOutside (m.dpa * 128) = true → s.copies.get? (lineKey m.world m.dpa) = none → s.mayRead m.world (m.dpa * 128) = true →
          exec (.l1MissFill core index 0) s =
          .next ((s.send .fill .home m.world (m.dpa * 128) 0).onCore core (fun C =>
            { C with misses := C.misses.set index { m with req := some s.nextId } }))) ∧
        (isOutside (m.dpa * 128) = true → s.copies.get? (lineKey m.world m.dpa) = none → s.mayRead m.world (m.dpa * 128) = false →
          exec (.l1MissFill core index 0) s = .next s) ∧
        (isOutside (m.dpa * 128) = false ∨ (s.copies.get? (lineKey m.world m.dpa)).isSome = true → exec (.l1MissFill core index 0) s =
          .next ((s.onCore core (fun C => { C with misses := C.misses.del index })).fillL1 core m)))) ∧
    (s.atHome w line = true → s.mayLeave w line = true →
      exec (.mscEvict w line 0) s = .next (((s.combine line).invalidate w line).expose w [line])) ∧
    (∀ e, (s.cluster cl).due.find? (fun e => e.world == w) = some e →
      let h := (s.world w).hot
      let spent := s.onCluster cl (fun C => { C with due := C.due.erase e })
      ((h.head + 2 ^ 32 - h.tail) % 2 ^ 32 = 2 ^ h.log2sz → exec (.hotnessRecord cl w) s =
        .next (spent.onWorld w (fun W => { W with hot := { W.hot with drop := min (W.hot.drop + 1) (2 ^ 32 - 1) } }))) ∧
      (∀ a s1, (h.head + 2 ^ 32 - h.tail) % 2 ^ 32 ≠ 2 ^ h.log2sz →
        s.driverDpa w 0 (h.base + 32 * (h.head % 2 ^ h.log2sz)) 32 true = .ok a → s.choreoWrite w a e.bytes = (s1, none) →
        exec (.hotnessRecord cl w) s = .next ((s1.onCluster cl (fun C => { C with due := C.due.erase e })).onWorld w (fun W =>
          { W with hot := { W.hot with head := (W.hot.head + 1) % 2 ^ 32 } }))) ∧
      (let dropped (s : State) : State := s.onWorld w (fun W => { W with hot := { W.hot with drop := min (W.hot.drop + 1) (2 ^ 32 - 1) } })
       (h.head + 2 ^ 32 - h.tail) % 2 ^ 32 ≠ 2 ^ h.log2sz →
        (∀ x, s.driverDpa w 0 (h.base + 32 * (h.head % 2 ^ h.log2sz)) 32 true = .error x →
          exec (.hotnessRecord cl w) s = .next (dropped spent)) ∧
        (∀ a s1 c, s.driverDpa w 0 (h.base + 32 * (h.head % 2 ^ h.log2sz)) 32 true = .ok a → s.choreoWrite w a e.bytes = (s1, some c) →
          exec (.hotnessRecord cl w) s = .next (dropped (s1.onCluster cl (fun C => { C with due := C.due.erase e })))))) ∧
    (∀ S, s.setAt? t set = some S → exec (.systemWaitPoll t set) s = .next (s.onSet t set (fun S => S.onLanes
      (maskOf (fun j => (S.lane j).hold == .poll && !s.asked t set j && (S.answers.get? j).isNone))
      (fun _ th => { th with hold := .ready, since := s.cycle.toNat }))))

/-- 08 R173-R175, R178, R185, R188, 15 R349, R354, R358, 05 R105-R109, R117: the engines. A piece of a copy moves once its scoreboard and
its checks admit it; a copy whose pieces are all done and verified completes, with its completion word once its lines are full; a loop and a
conversion run when no earlier operation is in their way; the oldest near-bank request is performed at its banks; the reduction engine
executes its head command. A piece that fails holds its operation; a near-bank access or a command that fails raises its late trap, the
command with ERR + 1 and CVAL inverted.
That a row with one failing piece moves no byte is notes/assumptions/42. -/
def Obligations.EnginesRun : Prop :=
  ∀ (s : State) (core e row k u : Nat) (o : Op) (T : Troupe),
    ((s.coreAt core).ops.get? e = some o → s.troupes.get? o.troupe = some T →
      let L := s.launchOf T
      let x (n : Nat) := o.args.getD n 0
      let ready : Prop := o.phase = .placed ∧ (s.coreAt core).admits o = true ∧ (∀ y ∈ (s.coreAt core).ops,
        y.2.kind.isCopy = false → y.2.standing = true → y.2.pos < o.pos →
        y.2.phase ≠ .placed ∧ (y.2.onTile o.troupe o.tile = true → y.2.retired = true))
      let run (i : Instr) (n : Nat) : Prop := ∀ dpa prot,
        n ∈ o.remaining → (s.coreAt core).admits o = true → s.pieceOut core e ((o.merged n).headD n) = false →
        (o.pieceBytes n).any (fun b => b.2.1.isSome) = true → (∀ v ∈ o.merged n, s.rowStop L o core e (v / 32) = none) →
        s.reach L o.kind.access (o.span n).1 core e = .dpa dpa prot →
        let s0 := s.streamed L o.kind.access (o.span n).1 core
        let q : Xfer :=
          { core := core, entry := e, op := o, us := o.merged n, lo := (o.span n).1, dpa := dpa, n := (o.span n).2, world := L.world
            tcid := L.tcid, launch := T.launch, far := isOutside dpa && !s0.live L.world L.tcid (o.span n).1 dpa, prot := prot }
        exec i s = .next (if o.kind.access.writes then s0.push q else s0.pull q)
      (o.kind = .tcpyIn ∨ o.kind = .tcpyOut → run (.tcpyTransfer core e row) row) ∧
      (o.kind = .cpyIn ∨ o.kind = .cpyOut → run (.laneCopyTransfer core e row) (row * 32)) ∧
      (o.kind.isCopy = true → o.phase = .placed → o.pieces.all (fun n => o.done.contains n) = true → s.opUnverified o = false →
        let s1 := s.onOp core e (fun o => { o with phase := .moved })
        let s2 := if o.kind.fills then s1.fillLines core o.troupe o.lines else s1
        (o.cword = none → exec (.copyComplete core e) s = .next (s2.completeOp core e)) ∧
        (∀ n v, o.cword = some (n, v) → (s.coreAt core).storeFree o.troupe o.pos (16 * n) (16 * n + 4) = true →
          (o.kind.fills = true → s2.linesOwed core o = false) →
          exec (.copyComplete core e) s =
            .next ((s2.onTroupe o.troupe (fun T => T.putBytes (16 * n) (leBytes 4 v.toNat))).completeOp core e))) ∧
      (o.kind = .mloop → ready →
        let start : Tile := if x 4 = 1 then { T.tile o.tile with el := [] } else T.tile o.tile
        let block (base : Nat) (inc : Int) (n : Nat) : MatOperand := s.block o.troupe ((base : Int) + 128 * (n : Int) * inc).toNat
        let t := (List.range (x 3)).foldl (fun t n =>
          matStep o.fmt t (block (x 0) (sextNat 16 (x 2)) n) (block (x 1) (sextNat 16 (x 2 / 2 ^ 16)) n)) start
        exec (.mloopRun core e) s = .next (((s.setTile o.troupe o.tile t).onCore core (fun C =>
          { C with steps := (C.steps + x 3) % 2 ^ 32 })).onOp core e (fun o => { o with phase := .moved }))) ∧
      (o.kind = .mcvt → ready →
        exec (.mcvtRun core e) s = .next (((s.onTroupe o.troupe (fun V => (List.range 32).foldl (fun (V : Troupe) r =>
          V.putBytes (o.sp + r * x 1) (mcvtRowBytes o.fmt (x 2) (x 3 == 1) (T.tile o.tile) (BitVec.ofNat 32 (x 0)) r)) V)).onOp core e
            (fun o => { o with phase := .moved })).fillLines core o.troupe o.lines)) ∧
      (o.phase = .moved →
        (o.kind = .mloop → exec (.tileOpRetire core e) s = .next (s.completeOp core e)) ∧
        (o.kind = .mcvt → exec (.tileOpRetire core e) s = .next (s.onOp core e (fun o => { o with retired := true }))))) ∧
    (∀ r rest, ((s.slice k).unit u).queue = r :: rest → r.kind = 1 →
      let w := ((s.troupes.get? r.troupe).map s.worldOf).getD 0
      let s1 := s.onUnit k u (fun U => { U with queue := rest })
      let bytes : Tab Byte := r.lanes.foldl (fun m e => ((r.data.getD e.1 []).mapIdx (fun i x => (e.2 + i, x.setWidth 8))).foldl
        (fun m b => m.set b.1 b.2) m) []
      let p := (granulesOf bytes).foldl (fun (p : State × List (Nat × Nat)) g =>
        let q := p.1.writeGranule w g (bytes.filter (fun e => e.1 / 64 == g))
        (q.1, p.2 ++ (q.2.map (fun c => (g, c))).toList)) (s1, [])
      exec (.nbAccessReturn k u) s = .next (p.1.nbTrap r p.2)) ∧
    (∀ r rest, ((s.slice k).unit u).queue = r :: rest → r.kind ≠ 1 →
      let w := ((s.troupes.get? r.troupe).map s.worldOf).getD 0
      let s1 := s.onUnit k u (fun U => { U with queue := rest })
      let n := if r.kind = 0 then widthOf r.mod else 4
      (s1.nbFaults w (laneGranules r.lanes) = [] →
        let s2 := (laneGranules r.lanes).foldl (fun s g => s.bankRead w (g * 64) 0) s1
        exec (.nbAccessReturn k u) s = .next (s2.onSet r.troupe r.set (fun S =>
          S.onLanes (maskOf (fun j => r.lanes.any (fun e => e.1 == j)))
            (fun j th => th.arrive r.id (r.regs j (s1.mem.readBytes (Tab.getD r.lanes j 0) n)))))) ∧
      (s1.nbFaults w (laneGranules r.lanes) ≠ [] →
        let s2 := (laneGranules r.lanes).foldl (fun s g => s.bankRead w (g * 64) 0) s1
        exec (.nbAccessReturn k u) s = .next ((s2.onSet r.troupe r.set (fun S =>
          { S with threads := S.threads.map (·.lose r.id) })).nbTrap r (s1.nbFaults w (laneGranules r.lanes))))) ∧
    (∀ (r : NbReq) bad g cause, bad.head? = some (g, cause) →
      let fail := maskOf (fun j => r.lanes.any (fun e => e.1 == j && bad.any (fun b => b.1 == e.2 / 64)))
      s.nbTrap r bad = s.lateTrap (((s.troupes.get? r.troupe).map (·.launch)).getD 0) r.troupe r.set
        { cause := cause, set := r.set, pc := r.pc, addr := g * 64, fail := fail, low := (lowLane fail).getD 0
          copy := if r.kind = 1 then none else some r.id }) ∧
    (∀ q : Xfer,
      (q.far = false → q.failing (s.readFault q.world) = none → q.op.kind ≠ .cpyIn →
        let s0 := s.countXfer q
        let s1 := (s0.onOp q.core q.entry (fun o =>
          { o with unverified := addAll o.unverified (s0.unvOf q.world [q.dpa / 128]) })).homeRead q.world q.dpa q.n q.pol
        s.pull q = (s1.markProt q.world (q.dpa / 128) q.prot).landPieces q.core q.entry q.us q.lo (s1.seenBytes q.world q.dpa q.n)) ∧
      (∀ row va c, q.far = false → q.failing (s.readFault q.world) = some (row, va, c) →
        s.pull q = ((s.countXfer q).serve q.world (q.dpa + (va - q.lo)) 1).holdOp q.core q.entry row c 0 va) ∧
      (q.far = true → s.mayRead q.world q.dpa = false → s.pull q = s) ∧
      (q.far = true → s.mayRead q.world q.dpa = true →
        (2 ≤ s.portOf q.dpa → s.engineReads q.core q.world (s.portOf q.dpa) < (s.world q.world).wins.getD (s.portOf q.dpa - 2) 256) →
        s.pull q = (s.countXfer q).send (.read q.n) (.op q.core q.entry (q.us.headD 0)) q.world q.dpa q.launch) ∧
      (∀ s1, q.far = false → s.contained q.world q.dpa = false → s.writeLine q.world (s.xferBytes q) q.pol = some (s1, []) →
        s.push q = ((s1.countXfer q).markProt q.world (q.dpa / 128) q.prot).piecesDone q.core q.entry q.us) ∧
      (∀ s1 bad row va c, q.far = false → s.contained q.world q.dpa = false → s.writeLine q.world (s.xferBytes q) q.pol = some (s1, bad) →
        q.failing (fun a => (bad.find? (fun b => b.1 == a / 64 * 64)).map (·.2)) = some (row, va, c) →
        s.push q = ((s1.countXfer q).markProt q.world (q.dpa / 128) q.prot).holdOp q.core q.entry row c 0 va) ∧
      (q.far = false → s.contained q.world q.dpa = true →
        s.push q = s.holdOp q.core q.entry (q.us.headD 0 / 32) 0x50 0 q.lo) ∧
      (s.lineBusy q.world (q.dpa / 128) = true → q.far = true → s.push q = s) ∧
      (s.lineBusy q.world (q.dpa / 128) = false → q.far = true →
        s.push q = (s.countXfer q).send (.flush (maskedLine (s.xferBytes q)).1 (maskedLine (s.xferBytes q)).2)
          (.op q.core q.entry (q.us.headD 0)) q.world (q.dpa / 128 * 128) q.launch)) ∧
    (∀ c rest L, (s.slice k).nb.queue = c :: rest → s.launches.get? c.launch = some L →
      let ca := s.dpaOf L c.caddr
      s.lineBusy L.world (ca / 128) = false →
      let p := s.redRun k L.world (s.windows L k) c
      let q := p.1.homeWrite L.world (runTab ca (leBytes 4 c.cval.toNat))
      (p.2 = [] → q.2 = [] →
        exec (.redCmdExecute k) s = .next ((q.1.expose L.world [ca / 128]).onSlice k (fun S => { S with nb := { S.nb with
          queue := rest, done := (S.nb.done + 1) % 2 ^ 32 } }))) ∧
      (let v := if p.2 = [] then c.cval else ~~~ c.cval
       let z := p.1.homeWrite L.world (runTab ca (leBytes 4 v.toNat))
       p.2 ≠ [] ∨ z.2 ≠ [] → exec (.redCmdExecute k) s = .next
        ((((z.1.expose L.world [ca / 128]).onSlice k (fun S => { S with nb := { S.nb with
          queue := rest, err := min (S.nb.err + 1) (2 ^ 16 - 1), done := if z.2 = [] then (S.nb.done + 1) % 2 ^ 32 else S.nb.done } })).redTrap c
            p.2).redTrap c (z.2.map (fun b => (17, b.1, b.2)))))) ∧
    (∀ c bad item addr cause, bad.head? = some (item, addr, cause) → c.fromUnit = true →
      s.redTrap c bad = s.lateTrap c.launch c.troupe c.set
        { cause := 0x41, set := c.set, pc := c.pc, addr := addr, info := item + cause * 256, low := c.lane, fail := maskBit c.lane })

/-- 22 R446, R449-R451, R494: taking a trap. Action 0 gives the set or the cue stream to the handler, with the interrupted context kept;
action 1, and action 0 with no handler, logs the record and goes on behind the instruction; actions 2 to 4 end the launch, the world's work,
or lock the device down. A late trap becomes its set's trap once the set's chunks have committed, after an open transaction has ended
(the model's reading, log 73); one of a set that has ended is recorded against the launch (log 70).
The resume point after strap, and the action of a late trap whose stream has ended, are notes/assumptions/13. -/
def Obligations.TrapsAreTaken : Prop :=
  ∀ (s : State) (t k : Nat) (T : Troupe) (tr : Trap), s.troupes.get? t = some T → (s.launchOf T).ending = false → T.halted = false →
    let L := s.launchOf T
    (∀ S, k ≠ 255 → T.setTab.get? k = some S → S.trapReady = some tr → S.chunks = [] →
      let act := s.action L.world tr L.handler.isSome T.place.isUnit false
      (∀ h, act = 0 → L.handler = some h → exec (.trapTaken t k) s = .next ((s.log L.world tr).onSet t k (fun S =>
        { S with
          trapReady := none, names := Names0, accepted := 0, answers := []
          handler := some { threads := S.threads, trap := tr, names := S.names, accepted := S.accepted, answers := S.answers }
          threads := S.threads.map (fun th => Thread.fresh h.stepEntry th.live) }))) ∧
      (act = 1 →
        (bitAt tr.flags 1 = false → bitAt tr.flags 2 = false → exec (.trapTaken t k) s = .next ((s.log L.world tr.logged).onSet t k (fun S =>
          ({ S with trapReady := none } : SetState).onLanes tr.mask (fun _ th => { th with pc := tr.after })))) ∧
        (bitAt tr.flags 1 = true ∨ bitAt tr.flags 2 = true → exec (.trapTaken t k) s =
          .next ((s.log L.world tr.logged).onSet t k (fun S => { S with trapReady := none })))) ∧
      (2 ≤ act → exec (.trapTaken t k) s = .next (((s.log L.world tr).onSet t k (fun S => { S with trapReady := none })).punish
        L.world T.launch tr act))) ∧
    (∀ rest, T.cue.traps = tr :: rest → T.cue.handler = none →
      (tr.late = true → s.cueAsked t = false ∧ T.cue.answers.get? 0 = none) →
      let act := s.action L.world tr L.handler.isSome false T.cue.ended
      (∀ h, act = 0 → L.handler = some h → exec (.trapTaken t 255) s = .next ((s.log L.world tr).onCue t (fun C =>
        { C with
          handler := some { bank := handlerBank tr (s.copyOfTrap T tr) C.pc, win := [], trap := tr }
          pc := h.cueEntry, traps := rest, waiting := false, stall := [], answers := [] }))) ∧
      (act = 1 → tr.late = false → tr.copy = none → exec (.trapTaken t 255) s =
        .next ((s.log L.world tr.logged).onCue t (fun C => { C with traps := rest, pc := tr.after, waiting := false }))) ∧
      (act = 1 → tr.late = true → tr.copy = none → exec (.trapTaken t 255) s =
        .next ((s.log L.world tr.logged).onCue t (fun C => { C with traps := rest }))) ∧
      (∀ e, act = 1 → tr.copy = some e → exec (.trapTaken t 255) s = .next (((s.log L.world tr.logged).onCue t (fun C => { C with
        traps := rest, pc := if tr.late then C.pc else tr.after, waiting := tr.late && C.waiting })).skipOp T.place.coreNo e)) ∧
      (2 ≤ act → exec (.trapTaken t 255) s =
        .next (((s.log L.world tr).onCue t (fun C => { C with traps := rest })).punish L.world T.launch tr act))) ∧
    (∀ S, T.setTab.get? k = some S → S.traps.find? S.due = some tr → S.trapReady = none → S.handler = none → S.waiting = none →
      (S.inTx = true → exec (.asyncTrapArrival t k) s = .next s) ∧
      (S.inTx = false → S.chunks ≠ [] → exec (.asyncTrapArrival t k) s = .next (s.onSet t k SetState.close)) ∧
      (S.inTx = false → S.chunks = [] → S.live = 0 → exec (.asyncTrapArrival t k) s =
        .next ((s.onSet t k (fun S => { S with traps := S.traps.erase tr })).lateGone T.launch t tr)) ∧
      (S.inTx = false → S.chunks = [] → S.live ≠ 0 → exec (.asyncTrapArrival t k) s = .next (s.onSet t k (fun S => { S with
        traps := S.traps.erase tr, trapReady := some { tr with mask := S.live, copy := none }
        threads := S.threads.map (fun th =>
          { th with win := th.win.filter (fun w => w.req.isNone || w.req != tr.copy) }) }))))

/-! ### Steps of the device: links, memory and translation -/

/-- 07 R145, 10 R229, R230, R232, 24 R470, 25 R482, R484: the response of an outstanding request. A read hands its bytes to the lane that
asked; a write and an atomic are performed at the target, in the order in which a sender sent them to a line, and one that takes its place
in the global order then only when the line is free; the answers of one amo's lanes are kept until all of its lanes can be performed (11 R240;
log 71). An Unsupported Request or Completer Abort, which a world outside RUN always gets (the model's reading, log 79), of a host access, or of
an effect after its commit, is cause 0x27, and any other error, or a link that is or was down, 0x50; data whose check has not ended waits where
it may not be handed over.
The numbers of the completion statuses are the model's (notes/assumptions/1), and that a launch's or a cue stream's data waits is notes/assumptions/18. -/
def Obligations.LinkCompletions : Prop :=
  ∀ (s : State) (id status : Nat) (r : Request), s.requests.get? id = some r →
    let s0 : State := { s with requests := s.requests.del id }
    let s1 := s0.linkBytes r.world (max 1 r.kind.moves)
    let down : Bool := r.down || !(s.port r.port).up || s.linkDown r.world r.dpa
    let run := s.inRun r.world
    (s.sentBefore id r = true ∨ s.lineWaits r = true → exec (.linkCompletion id status) s = .next s) ∧
    (down = false → run = true → status = 0 → s.sentBefore id r = false → s.lineWaits r = false →
      (∀ n t k lane pc, r.kind = .read n → r.owner = .set t k lane pc → exec (.linkCompletion id status) s =
        .next (s1.onSet t k (fun S => { S with answers := S.answers.set lane (leNat (s.mem.readBytes r.dpa n)) }))) ∧
      (∀ bs t k lane pc, r.kind = .write bs → r.owner = .set t k lane pc → exec (.linkCompletion id status) s =
        .next (({ s1 with mem := s.mem.writeTab (runTab r.dpa bs) } : State).cleanBytes r.world (r.dpa / 128) (runTab r.dpa bs))) ∧
      (∀ op w cmp x t, r.kind = .atomic op w cmp x → r.owner = .cue t → op < 9 → s.sealFor r = 0 →
        let old := leNat (s.mem.readBytes r.dpa w)
        let bs := leBytes w (atomicNew op w old cmp x)
        exec (.linkCompletion id status) s = .next (((({ s1 with mem := s.mem.writeBytes r.dpa bs } : State).refresh
          r.world r.dpa bs).expose r.world [r.dpa / 128]).giveOld (.cue t) old))) ∧
    (∀ op w cmp x t k lane pc, r.kind = .atomic op w cmp x → r.owner = .set t k lane pc → lane < 32 → r.answered = none →
      s.sentBefore id r = false → s.lineWaits r = false → status ≠ 3 →
      let cause := if down = true then 0x50 else if run = true ∧ status = 0 then 0
        else if (status = 1 ∨ run = false) ∧ isHost r.dpa = true then 0x27 else 0x50
      let s2 := s.linkBytes r.world r.kind.moves
      let s3 : State := { s2 with requests := s.requests.set id { r with answered := some cause } }
      exec (.linkCompletion id status) s = .next (if s3.amoReady t k then s3.performAmo t k else s3)) ∧
    (∀ n t k lane pc, r.kind = .read n → r.owner = .set t k lane pc → status ≠ 3 → down = true ∨ run = false ∨ status ≠ 0 →
      ∀ cause, cause = (if down = false ∧ (status = 1 ∨ run = false) ∧ (isHost r.dpa = true ∨ 32 ≤ lane) then 0x27 else 0x50) →
        exec (.linkCompletion id status) s =
          .next (s0.onSet t k (fun S => { S with answers := S.answers.set lane (badAnswer cause) }))) ∧
    (∀ t, r.owner = .cue t → exec (.linkCompletion id 3) s = .next s) ∧
    (down = false → run = true → status = 0 → s.sentBefore id r = false → s.lineWaits r = false →
      (∀ t l, r.owner = .cue t ∨ r.owner = .launch l →
        let give (s : State) (x : Nat) : State := match r.owner with
          | .cue t => s.onCue t (fun C => { C with answers := C.answers.set 0 x })
          | _ => s.onLaunch l (fun L => { L with answers := L.answers.set 0 x })
        (∀ n, r.owner = .cue t → r.kind = .read n → exec (.linkCompletion id status) s = .next (give s1 (leNat (s.mem.readBytes r.dpa n)))) ∧
        (∀ n, r.owner = .launch l → r.kind = .read n →
          exec (.linkCompletion id status) s = .next (give s1 (leNat (s.mem.readBytes r.dpa n)))) ∧
        (∀ bs, r.owner = .cue t → r.kind = .write bs → s.ctl.poolc = true → exec (.linkCompletion id status) s =
          .next (give (({ s1 with mem := s.mem.writeTab (runTab r.dpa bs) } : State).cleanBytes r.world (r.dpa / 128) (runTab r.dpa bs)) 0))) ∧
      (∀ core e u n, r.owner = .op core e u → r.kind = .read n → exec (.linkCompletion id status) s =
        .next (s1.landRequest core e u (s.mem.readBytes r.dpa n))) ∧
      (∀ core e u mask bs, r.owner = .op core e u → r.kind = .flush mask bs →
        let t : Tab Byte := ((List.range 128).filter (fun i => mask.getLsbD i)).map (fun i => (r.dpa / 128 * 128 + i, bs.getD i 0))
        exec (.linkCompletion id status) s = .next ((s1.placeWrite r.world t).ackRequest core e u)) ∧
      (∀ t k lane pc mask bs, r.owner = .set t k lane pc → r.kind = .flush mask bs →
        let b : Tab Byte := ((List.range 128).filter (fun i => mask.getLsbD i)).map (fun i => (r.dpa / 128 * 128 + i, bs.getD i 0))
        exec (.linkCompletion id status) s =
          .next (({ s1 with mem := s.mem.writeTab b } : State).cleanBytes r.world (r.dpa / 128) b)) ∧
      (∀ op w cmp x t k lane pc, r.owner = .set t k lane pc → 32 ≤ lane → r.kind = .atomic op w cmp x → op < 9 →
        let bs := leBytes w (atomicNew op w (leNat (s.mem.readBytes r.dpa w)) cmp x)
        exec (.linkCompletion id status) s = .next ((({ s1 with mem := s.mem.writeBytes r.dpa bs } : State).refresh
          r.world r.dpa bs).expose r.world [r.dpa / 128])) ∧
      (r.owner = .home → r.kind = .fill → s.copies.get? (lineKey r.world (r.dpa / 128)) = none →
        let l := r.dpa / 128
        let c : Copy := { bytes := s.mem.readBytes (l * 128) 128, dirty := 0 }
        exec (.linkCompletion id status) s = .next
          ({ s1.dropCopy r.world l with copies := s1.copies.set (lineKey r.world l) c }.takeLine r.world l (s1.missPol id) false)))

/-- 25 R482-R484, 06 R140-R142: a port that goes down fails its requests; the last link of the companion processor loses the lines that it
held, of which the modified ones are poisoned; its streams must be keyed again, a selective one too (log 67); a port comes back once
trained, and keyed again where it was keyed. The companion processor takes lines of unprotected management frames only, and a home takes
them back; what another agent writes into memory outside the device stands there for the next read of the target. A response's load moves an
issue window. -/
def Sys2Proof.Claims.LinksAndTheHost : Prop :=
  ∀ (s : State) (p line : Nat),
    let fallen (s : State) : State := ({ s with worlds := s.worlds.map (fun (e : Nat × World) => (e.1, { e.2 with
        trust := { e.2.trust with streams := e.2.trust.streams.map (fun x => if x = p then 16 + p else x) } })) } : State).onPort p
      (fun P => { P with
        up := false, lanes := 0, downs := min (P.downs + 1) (2 ^ 32 - 1), ide := if P.ide = 1 then 2 else P.ide })
    ((s.port p).up = false → exec (.linkDown p) s = .next s) ∧
    let lose (s : State) (e : Nat × Bool) : State :=
      let w := (s.frameWorld (e.1 * 128)).getD 0
      ((s.poisonLine w e.1).logMsc (s.home w e.1) (e.1 * 128) 15 w).worldCause w { cause := 0x55, addr := e.1 * 128 }
    let lost (s : State) : State := (s.hostHeld.filter (·.2)).foldl lose { s with hostHeld := [] }
    ((s.port p).up = true → (∀ e ∈ s.requests, e.2.port ≠ p) → (p < 2 → ∀ e ∈ s.hostHeld, e.2 = false) →
      (∀ e ∈ s.groups, e.2.state ≠ 2) →
      exec (.linkDown p) s = .next (fallen { s with hostHeld := if p < 2 then [] else s.hostHeld })) ∧
    ((s.port p).up = true →
      let s1 := s.onPort p (fun P => { P with
        up := false, lanes := 0, downs := min (P.downs + 1) (2 ^ 32 - 1), ide := if P.ide = 1 then 2 else P.ide })
      let s2 := (s.requests.filter (fun e => e.2.port == p)).foldl (fun (s : State) e => s.linkError e.1 e.2 0x50)
        { s1 with requests := s.requests.filter (fun e => e.2.port != p) }
      let s3 : State := { s2 with worlds := s2.worlds.map (fun (e : Nat × World) => (e.1, { e.2 with
        trust := { e.2.trust with streams := e.2.trust.streams.map (fun x => if x = p then 16 + p else x) } })) }
      let s4 := if p < 2 then lost s3 else s3
      let through (G : Group) (m : Nat) : Bool := bitAt G.members m && 2 + Config.poolPort (G.base + m) % 4 == p
      exec (.linkDown p) s = .next { s4 with groups := s4.groups.map (fun e => if 2 ≤ p ∧ e.2.state = 2 then
        (e.1, { e.2 with absent := addAll e.2.absent ((List.range 16).filter (through e.2)) }) else e) }) ∧
    (∀ id (r : Request) cause,
      (∀ n t k lane pc, r.kind = .read n → r.owner = .set t k lane pc →
        s.linkError id r cause = s.onSet t k (fun S => { S with answers := S.answers.set lane (badAnswer cause) })) ∧
      (∀ t, r.owner = .cue t →
        s.linkError id r cause = (s.dropWritten r).onCue t (fun C => { C with answers := C.answers.set 0 (badAnswer cause) })) ∧
      (∀ l, r.owner = .launch l →
        s.linkError id r cause = s.onLaunch l (fun L => { L with answers := L.answers.set 0 (badAnswer cause) })) ∧
      (∀ core e u o, r.owner = .op core e u → (s.coreAt core).ops.get? e = some o →
        s.linkError id r cause = s.holdOp core e (u / 32) cause 0 (o.pieceVa u)) ∧
      (∀ bs t k lane pc, r.kind = .write bs → r.owner = .set t k lane pc → s.linkError id r cause =
        (s.cleanBytes r.world (r.dpa / 128) (runTab r.dpa bs)).lateTrap r.launch t k { cause := cause, set := k, pc := pc, addr := r.dpa })) ∧
    ((s.port p).ide ≠ 2 → exec (.linkUp p) s = .next (s.onPort p (fun P => { P with up := true, lanes := portLanes p }))) ∧
    ((s.port p).ide = 2 → exec (.linkUp p) s = .next s) ∧
    exec .hostReset s = .next (lost s) ∧
    (∀ w l, isDram (l * 128) = true → (s.poisonLine w l).lines.get? (lineKey w l) = none ∧
      (∀ g ∈ [l * 2, l * 2 + 1], ((s.poisonLine w l).gran.getD g Gran0).poison = true)) ∧
    (∀ wr a v, s.hostMay a = true → a % 8 = 0 → (s.port 0).up = true ∨ (s.port 1).up = true → s.lineBusy 0 (a / 128) = false →
      let s0 := s.serve 0 (a / 128 * 128) 128
      (wr = false → exec (.hostMemAccess wr a v) s =
        .next { s0 with hostHeld := s0.hostHeld.set (a / 128) ((s.hostHeld.get? (a / 128)).getD false) }) ∧
      (wr = true → ∀ s1, ((s0.homeWrite 0 (runTab a (leBytes 8 v.toNat))).1).expose 0 [a / 128] = s1 →
        exec (.hostMemAccess wr a v) s = .next { s1 with hostHeld := s1.hostHeld.set (a / 128) true })) ∧
    (∀ a v, isOutside a = true → a % 8 = 0 →
      exec (.hostMemAccess true a v) s = .next { s with mem := s.mem.writeBytes a (leBytes 8 v.toNat) } ∧
      exec (.hostMemAccess false a v) s = .next s) ∧
    (∀ wr a v, s.hostMay a = false → isOutside a = false ∨ a % 8 ≠ 0 → exec (.hostMemAccess wr a v) s = .next s) ∧
    exec (.backInvalidate line) s = .next { s with hostHeld := s.hostHeld.del line } ∧
    (∀ w x, p < 4 → (s.world w).wins[p]? = some x → ∀ load y,
      y = (if load = 0 then min (x + 1) (s.world w).maxout else if load = 1 then x else if load = 2 then max 1 (x / 2) else max 1 (x / 4)) →
      exec (.cxlMemResponse w p load) s = .next (s.onWorld w (fun W => { W with wins := Sys2Proof.setAt W.wins p y })))

/-- 10 R232, 24 R475: the integrity checks of a port's data. A check that passes verifies the data; one that fails turns the stream insecure,
squashes the chunks that read the data, holds the copies that carried it, poisons its lines at their homes and reports cause 0x52 to every
world whose data was in flight; keying the stream again clears that. -/
def Sys2Proof.Claims.IntegrityChecks : Prop :=
  ∀ (s : State) (p w : Nat),
    exec (.ideCheckPass p) s = .next { s with unverified := s.unverified.filter (fun e => e.2 != p) } ∧
    ((∀ e ∈ s.unverified, e.2 ≠ p) → (∀ e ∈ s.requests, e.2.port ≠ p) →
      exec (.ideCheckFail p 0) s = .next (s.onPort p (fun P => { P with ide := 2 })) ∧
      (0 < w → exec (.ideCheckFail p (w + 1)) s = .next ((s.onWorld w (fun W => { W with trust := { W.trust with
        streams := addNew (W.trust.streams.filter (· != p)) (16 + p) } })).errorWorld w 0x52))) ∧
    (let bad (stream : Nat) : List Nat := Tab.keys (s.unverified.filter (fun e => e.2 == p && onStream stream (e.1 / 2 ^ 46)))
     let wiped (gs : List Nat) (s : State) : State :=
       let s := s.troupes.foldl (fun (s : State) e => e.2.setTab.foldl (fun (s : State) f =>
         if gs.any (fun g => g / 2 ^ 46 == s.worldOf e.2) then
           let s := s.onSet e.1 f.1 (fun S => S.forget (List.range 32))
           if f.2.closing.any (fun c => c.unverified.any gs.contains) then s.chunkFault e.1 f.1 0x52 0x08 true
           else if f.2.chunk.any (fun c => c.unverified.any gs.contains) then s.chunkFault e.1 f.1 0x52 0x08 false
           else s
         else s) s) s
       let s := s.cores.foldl (fun (s : State) e => e.2.ops.foldl (fun (s : State) o =>
         if o.2.unverified.any gs.contains then (s.onOp e.1 o.1 (fun o => { o with unverified := [] })).holdOp e.1 o.1
           (o.2.rowList.headD 0) 0x50 0 (o.2.pieceVa (o.2.pieces.headD 0)) else s) s) s
       (s.copies.filter (fun e => gs.any (fun g => e.1 / 2 ^ 45 == g / 2 ^ 46 && e.1 % 2 ^ 45 == g % 2 ^ 46 / 2))).foldl
         (fun (s : State) e => s.poisonLine (e.1 / 2 ^ 45) (e.1 % 2 ^ 45)) s
     let failed (stream : Nat) : State := (s.inFlight p stream (bad stream)).foldl (fun (s : State) v => s.worldCause v { cause := 0x52 })
       (wiped (bad stream) { s with unverified := s.unverified.filter (fun e => !(bad stream).contains e.1) })
     exec (.ideCheckFail p 0) s = .next ((failed 0).onPort p (fun P => { P with ide := 2 })) ∧
     (0 < w → exec (.ideCheckFail p (w + 1)) s = .next (((failed (w + 1)).onWorld w (fun W => { W with trust := { W.trust with
       streams := addNew (W.trust.streams.filter (· != p)) (16 + p) } })).errorWorld w 0x52))) ∧
    (∀ stream gs v, v ∈ s.inFlight p stream gs → (stream = 0 ∨ stream = v + 1) ∧ ((∃ e ∈ s.requests, e.2.port = p ∧ e.2.world = v) ∨
      (∃ g ∈ gs, g / 2 ^ 46 = v) ∨ (∃ e ∈ s.troupes, s.worldOf e.2 = v) ∨ ∃ e ∈ s.cores, ∃ o ∈ e.2.ops, o.2.unverified.any gs.contains = true)) ∧
    exec (.ideKm p 0) s = .next (s.onPort p (fun P => { P with ide := 1 })) ∧
    (w < 65 → p < 6 → exec (.ideKm p (w + 1)) s = .next (s.onWorld w (fun W => { W with trust := { W.trust with
      streams := addNew (W.trust.streams.filter (· != 16 + p)) p } })))

/-- Links go down and come back, the companion processor holds lines, and integrity checks end. -/
def Obligations.LinksAndIntegrity : Prop :=
  Sys2Proof.Claims.LinksAndTheHost ∧
  Sys2Proof.Claims.IntegrityChecks

/-- 04 R73, R74, R77, R78, R82-R88: the checks of granules and the care of rows. A read meets its key; it counts an activation, which checks
the row's 16 granules: one or two symbols are corrected, with a record and the hot list, and what cannot be corrected is poisoned; a version
or a tag that does not match is reported; hot rows are scrubbed and retired; the patrol visits rows; windows and periods end; background
zeroing writes the zero granules under SOURCE 4, clears PZ with the last one of a frame, and frees an unassigned slice whose frames are all
zeroed (24 R477).
The number of symbols in error, with 0 for none and numbers above 68 for a ciphertext that does not match its tag, is the model's operand (notes/assumptions/6). -/
def Obligations.RowsAndGranules : Prop :=
  ∀ (s : State) (k g n r : Nat),
    (∀ w, isDram (g * 64) = true → (s.slice (sliceAt (g * 64))).state ≠ 3 → s.frameWorld (g * 64) = some w →
      (n < 128 → exec (.granuleRead g n) s = .next ((s.upset (g * 64) n).bankRead w (g * 64) 0)) ∧
      (128 ≤ n → exec (.granuleRead g n) s = .next (s.upset (g * 64) (n % 128)))) ∧
    (isDram (g * 64) = false ∨ s.frameWorld (g * 64) = none ∨ (s.slice (sliceAt (g * 64))).state = 3 → exec (.granuleRead g n) s = .next s) ∧
    (∀ a, s.upset a 0 = s ∧ (s.pendingZero a = true → s.upset a n = s) ∧
      (0 < n → n ≤ 68 → s.pendingZero a = false → s.upset a n =
        { s with gran := s.gran.set (a / 64) { s.gran.getD (a / 64) Gran0 with syms := n } }) ∧
      (68 < n → s.pendingZero a = false → s.upset a n =
        { s with gran := s.gran.set (a / 64) { s.gran.getD (a / 64) Gran0 with bad := true } })) ∧
    (∀ w a src,
      let row := s.readRow (sliceAt a) (rowAt ((s.slice (sliceAt a)).frame (frameAt a)).striped a) src
      let x := row.gran.getD (a / 64) Gran0
      (isDram a = true → (s.slice (sliceAt a)).state ≠ 3 → s.frameWorld a ≠ some w → s.bankRead w a src = s.logErr a 9 0 src) ∧
      (isDram a = true → (s.slice (sliceAt a)).state ≠ 3 → s.frameWorld a = some w →
        (row.pendingZero a = true ∨ x.poison = true ∨ (x.bad = false ∧ x.ver = row.version a) → s.bankRead w a src = row) ∧
        (row.pendingZero a = false → x.poison = false → x.bad = true ∨ x.ver ≠ row.version a → s.bankRead w a src = row.logErr a 3 0 src))) ∧
    (∀ a src,
      let x := s.gran.getD (a / 64) Gran0
      let y : Gran := { x with syms := 0 }
      let row := rowAt ((s.slice (sliceAt a)).frame (frameAt a)).striped a
      (s.pendingZero a = true → s.checkSymbols src a = s) ∧
      (s.pendingZero a = false → x.poison = true → s.checkSymbols src a = s.logErr a 4 0 src) ∧
      (s.pendingZero a = false → x.poison = false → 2 < x.syms → s.checkSymbols src a = (s.poison a).logErr a 2 0 src) ∧
      (s.pendingZero a = false → x.poison = false → x.syms = 0 → s.checkSymbols src a = s) ∧
      (s.pendingZero a = false → x.poison = false → x.syms = 1 ∨ x.syms = 2 → s.checkSymbols src a =
        (((({ s with gran := if y = Gran0 then s.gran.del (a / 64) else s.gran.set (a / 64) y } : State).logErr a 1 x.syms src).warmRow (sliceAt a) row x.syms src).retireRows (sliceAt a)))) ∧
    ((s.slice k).scrub.copying ≠ some r → exec (.rowRetirementDone k r) s = .next s) ∧
    ((s.slice k).scrub.copying = some r → exec (.rowRetirementDone k r) s = .next ((((s.correctRow k r).onScrub k (fun x => { x with
      copying := none, retired := addNew x.retired r, retires := satN 32 (x.retires + 1), spares := x.spares.set (r % 128) (x.used r + 1)
      left := 8192 - x.sparesUsed - 1
      hot := x.hot.adjust ((r / 16) % 8) (fun l => l.filter (fun h => h.row != r)) })).logRow k r 6 0).retireRows k)) ∧
    (r < 65536 * 128 → ((s.slice k).frame (r / 128 / 16)).ownersel ≠ 0 → (s.slice k).state ≠ 3 →
      (s.slice k).scrub.inSet (r / 128 / 16) = false ∨ (s.slice k).scrub.due.contains r = true →
      exec (.patrolVisit k r) s = .next (((s.wear k r).readRow k r (if (s.slice k).scrub.due.contains r then 3 else 1)).onScrub k
        (fun x => { x with due := x.due.filter (· != r) }))) ∧
    ((s.slice k).scrub.inSet (r / 128 / 16) = true → (s.slice k).scrub.due.contains r = false → exec (.patrolVisit k r) s = .next s) ∧
    ((s.slice k).scrub.hoten = false → exec (.hotScrub k r) s = .next s) ∧
    ((s.slice k).scrub.hoten = true → (∃ h ∈ (s.slice k).scrub.hot.getD ((r / 16) % 8) [], h.row = r) →
      let found := s.wear k r
      exec (.hotScrub k r) s = .next (((found.readRow k r 2).onScrub k (fun x => { x with
        hot := x.hot.adjust ((r / 16) % 8) (fun l => l.filterMap (fun h =>
          if h.row ≠ r then some h
          else if found.cleanRow k r = false then some { h with clean := 0 }
          else if h.score ≠ 0 then some { h with score := h.score - 1, clean := 0 }
          else if 64 ≤ h.clean + 1 then none else some { h with clean := h.clean + 1 })) })).retireRows k)) ∧
    ((s.slice k).scrub.active = [] → exec (.patrolPeriodEnd k) s = .next (s.onScrub k (fun x => { x with
      marked := []
      active := (x.ckpt.filter (fun e => e.2.2.2.1)).map (fun e => (e.1, e.2.1, min 4096 (e.2.1 + e.2.2.1))) }))) ∧
    exec (.activationWindowExpiry k) s = .next (s.onScrub k (fun x => { x with acts := [], throttled := [] })) ∧
    (isDram (g * 64) = true → s.pendingZero (g * 64) = true → (s.slice (sliceAt (g * 64))).state ≠ 3 →
      let s1 := s.bankWrite (g * 64) 4
      let S := s1.slice (sliceAt (g * 64))
      exec (.zeroingWrite g) s = .next (if S.state = 2 ∧ S.frames.length = 4096 ∧ ∀ e ∈ S.frames, e.2.pz = false then
        s1.onSlice (sliceAt (g * 64)) (fun S => { S with state := 0 }) else s1)) ∧
    (∀ a src, let k := sliceAt a
      let f := frameAt a
      let s1 := s.writeRow a src
      (s.bankWrite a src = s1.freshen a) ∧
      (s1.pendingZero a = true → ((s1.slice k).frame f).fresh.length = 32767 → (((s1.freshen a).slice k).frame f).pz = false) ∧
      (s1.pendingZero a = true → ((s1.slice k).frame f).fresh.length ≠ 32767 →
        ((s1.freshen a).slice k).frame f = { (s1.slice k).frame f with fresh := addNew ((s1.slice k).frame f).fresh (a % 2 ^ 21 / 64) })) ∧
    (isDram (g * 64) = false ∨ s.pendingZero (g * 64) = false ∨ (s.slice (sliceAt (g * 64))).state = 3 → exec (.zeroingWrite g) s = .next s)

/-- 07 R151, R154, R156, R160, R161, R164, 24 R473: the leases. A grant walks its pages, pins them and keeps their translations; a page that
faults is reported to the driver or to management, in the order of occurrence, and the answer goes on or refuses; an answer counts while the
device takes the world's register writes (24 R471); a command of the driver takes a free entry; an entry that nothing uses is released, with
its pins and its translations.
That an unused entry is reclaimed at any time is the model's choice (notes/assumptions/26). -/
def Obligations.LeasesGrantAndRelease : Prop :=
  ∀ (s s' : State) (w i : Nat) (l l' : Lease),
    (l = (s.world w).leases.getD i Lease0 →
      (l.state ≠ 1 → exec (.leaseGrant w i) s = .next s) ∧
      (let waiter := if l.drv then 2 else 1
       l.state = 1 →
        (s.faultStands w waiter i 0 = true → exec (.leaseGrant w i) s = .next s) ∧
        (s.faultStands w waiter i 0 = false →
          (State.walkPages w ((List.range l.len).drop l.walked) s l = (s', l', none) →
            let u := ((s'.onLease w i (fun _ => l')).pinAll w l' true).onLease w i
              (fun l => { l with state := 2, waiter := none, last := s'.now })
            exec (.leaseGrant w i) s = .next (if l.drv = true ∧ (u.world w).lreq.busy = true ∧ (u.world w).lreq.index = i then
              u.onWorld w (fun W => { W with lreq := { W.lreq with busy := false, result := 0 } }) else u)) ∧
          (∀ va e, State.walkPages w ((List.range l.len).drop l.walked) s l = (s', l', some (va, e)) →
            let u := s'.onLease w i (fun _ => l')
            let n := u.grantIndex l
            exec (.leaseGrant w i) s = .next (u.reportFault w n n l.tcid va e waiter i 0) ∧
            u.reportFault w n n l.tcid va e waiter i 0 = match e with
              | .one => u.reportOne w n l.tcid va waiter i 0
              | .two g table => u.reportTwo w n l.tcid g table waiter i 0
              | .target g table => (u.reportTwo w n l.tcid g table waiter i 0).worldCause 0 { cause := 0x25, addr := g }))) ∧
      (l.rel = true → l.state = 2 → l.users = 0 → exec (.leaseRelease w i) s = .next (s.freeLease w i)) ∧
      (l.rel = false ∨ l.users ≠ 0 → exec (.leaseRelease w i) s = .next s) ∧
      (l.drv = false → l.state = 2 → l.users = 0 → 10 ^ 8 ≤ s.now - l.last → exec (.leaseReclaim w i) s = .next (s.freeLease w i)) ∧
      (l.drv = true ∨ l.users ≠ 0 ∨ s.now - l.last < 10 ^ 8 → exec (.leaseReclaim w i) s = .next s)) ∧
    ((s.world w).lreq.busy = false → exec (.driverLeaseRequest w) s = .next s) ∧
    (let l := (s.world w).leases.getD (s.world w).lreq.index Lease0
     (s.world w).lreq.busy = true → l.state = 1 → l.drv = true →
      exec (.driverLeaseRequest w) s = .next (s.grantMore w (s.world w).lreq.index)) ∧
    (let l := (s.world w).leases.getD (s.world w).lreq.index Lease0
     (s.world w).lreq.busy = true → l.state ≠ 1 ∨ l.drv = false →
      ((s.world w).lreq.len = 0 ∨ 2 ^ 36 < (s.world w).lreq.base + (s.world w).lreq.len → exec (.driverLeaseRequest w) s =
        .next (s.onWorld w (fun W => { W with lreq := { W.lreq with busy := false, result := 3 } }))) ∧
      (0 < (s.world w).lreq.len → (s.world w).lreq.base + (s.world w).lreq.len ≤ 2 ^ 36 →
        ((s.world w).freeEntry = none → exec (.driverLeaseRequest w) s =
          .next (s.onWorld w (fun W => { W with lreq := { W.lreq with busy := false, result := 2 } }))) ∧
        ((s.world w).freeEntry = some i → exec (.driverLeaseRequest w) s =
          .next ((s.onWorld w (fun W => { W with
            leases := W.leases.set i { Lease0 with state := 1, rw := W.lreq.acc, drv := true, base := W.lreq.base, tcid := W.lreq.tcid, len := W.lreq.len }
            lreq := { W.lreq with index := i, result := 1 } })).grantMore w i)))) ∧
    ((s.world w).flt.pend = false → exec (.faultRetry w) s = .next s) ∧
    ((s.world w).flt.pend = true → s.takesWrite w = true → exec (.faultRetry w) s = .next (s.nextOne w)) ∧
    (s.takesWrite w = false → exec (.faultRetry w) s = .next s ∧ exec (.faultAbort w) s = .next s) ∧
    ((s.world w).fltNext = [] → s.nextOne w = s.onWorld w (fun W => { W with flt := { W.flt with pend := false } })) ∧
    (∀ f fs, (s.world w).fltNext = f :: fs → s.nextOne w = (s.onWorld w (fun W => { W with flt := f, fltNext := fs })).interrupt w 64) ∧
    (let f := (s.world w).flt
     let s1 := s.nextOne w
     (f.pend = false → exec (.faultAbort w) s = .next s) ∧
     (∀ n, s.takesWrite w = true → f.pend = true → f.waiter = 1 → ((s.world w).leases.getD f.entry Lease0).waiter = some n →
       exec (.faultAbort w) s = .next ((s1.freeLease w f.entry).refuse n 5 f.lease)) ∧
     (s.takesWrite w = true → f.pend = true → f.waiter = 1 → ((s.world w).leases.getD f.entry Lease0).waiter = none →
       exec (.faultAbort w) s = .next (s1.freeLease w f.entry)) ∧
     (s.takesWrite w = true → f.pend = true → f.waiter = 4 → exec (.faultAbort w) s = .next (s1.refuse f.entry 5 (0x80 + f.core))) ∧
     (s.takesWrite w = true → f.pend = true → f.waiter = 5 → exec (.faultAbort w) s = .next (s1.refuse f.entry 5 0)) ∧
     (s.takesWrite w = true → f.pend = true → f.waiter = 6 → exec (.faultAbort w) s =
       .next (s1.onLaunch f.entry (fun L => { L with answers := L.answers.set 1 0x20 }))) ∧
     (s.takesWrite w = true → f.pend = true → f.waiter = 2 → exec (.faultAbort w) s =
       .next ((s1.freeLease w f.entry).onWorld w (fun W => { W with lreq := { W.lreq with busy := false, result := 3 } })))) ∧
    (s.s2f.pend = true → s.takesWrite 0 = true →
      let no : State := { s with s2f := { s.s2f with pend := false, resp := 2 } }
      exec .s2FaultRetry s = .next ({ s with s2f := { s.s2f with pend := false, resp := 1 } } : State).nextTwo ∧
      (s.s2f.waiter = 4 → exec .s2FaultDeny s = .next (no.refuse s.s2f.entry 5 (0x80 + s.s2f.core)).nextTwo) ∧
      (s.s2f.waiter = 5 → exec .s2FaultDeny s = .next (no.refuse s.s2f.entry 5 0).nextTwo) ∧
      (s.s2f.waiter = 3 → exec .s2FaultDeny s = .next no.nextTwo)) ∧
    (s.s2fNext = [] → s.nextTwo = s) ∧
    (∀ f fs, s.s2fNext = f :: fs → s.s2Busy = false → s.nextTwo = ({ s with s2f := f, s2fNext := fs } : State).interrupt 0 65) ∧
    (s.s2f.pend = false ∨ s.takesWrite 0 = false → exec .s2FaultRetry s = .next s ∧ exec .s2FaultDeny s = .next s) ∧
    ((s.world w).trust.s2inv = true → exec (.s2Invalidate w) s =
      .next ((if (s.world w).trust.s2tab.isSome then (s.dropTlb w (fun _ => true)).fixTables w else s.dropTlb w (fun _ => true)).onWorld w (fun W =>
      { W with trust := { W.trust with s2inv := false, s2gen := if s.lockedWorld w then satN 32 (W.trust.s2gen + 1) else W.trust.s2gen } })))

/-! ### Steps of the device: worlds, resets, groups and power -/

/-- 24 R469-R472, R474: the interface of a world. LOCK needs a configured interface with its slices and its tables, which are in force from
then on as they stand (07 R151), and freezes management's entries too, START a locked one; STOP and a function-level reset end the launches
of the world and wait for its quiesce point; an error ends them at once. A request that does not stand is answered so, with no other effect.
Measurement and key exchange answer unless an activation window is open; a refusal in the window has the ErrorCode Busy, 0x03. A device in
lock-down answers none of these messages.
The digests are free values (notes/assumptions/5). -/
def Obligations.InterfacesOfWorlds : Prop :=
  ∀ (s : State) (w n : Nat),
    (s.lockedDown = true → ∀ i ∈ [Instr.lockInterfaceRequest w, .startInterfaceRequest w, .stopInterfaceRequest w, .getMeasurements w n,
      .keyExchange w], exec i s = .next s) ∧
    (∀ r : Refused, r.code = some 3 ↔ r = .busy) ∧
    (s.lockedDown = false → s.mayLock w = true → exec (.lockInterfaceRequest w) s =
      .next ((({ (if s.frozen then s else s.fixTables 0).fixTables w with frozen := true } : State).onTrust w (fun t =>
        { t with tstate := 2, locked := true, s2gen := 0 })).answer w .lock none 0)) ∧
    (s.lockedDown = false → s.mayLock w = false →
      exec (.lockInterfaceRequest w) s = .next (s.answer w .lock (some .interfaceState) 0)) ∧
    (s.mayLock w = true → 1 ≤ w ∧ w ≤ 64 ∧ s.tstate w = 1 ∧ (s.world w).trust.s2valid = true ∧
      (s.world w).trust.minsl ≤ s.ownedCount w ∧ s.ownedCount w ≤ (s.world w).trust.maxsl) ∧
    (s.lockedDown = false → 1 ≤ w → w ≤ 64 → s.tstate w = 2 → (s.world w).trust.stopping = false →
      exec (.startInterfaceRequest w) s = .next ((s.onTrust w (fun t => { t with tstate := 3 })).answer w .start none 0)) ∧
    (s.lockedDown = false → s.tstate w ≠ 2 ∨ (s.world w).trust.stopping = true →
      exec (.startInterfaceRequest w) s = .next (s.answer w .start (some .interfaceState) 0)) ∧
    (s.lockedDown = false → 1 ≤ w → w ≤ 64 → 2 ≤ s.tstate w → exec (.stopInterfaceRequest w) s =
      .next (((s.endWorld w 0).onTrust w (fun t => { t with stopping := true })).answer w .stop none 0)) ∧
    (s.lockedDown = false → s.tstate w < 2 → exec (.stopInterfaceRequest w) s = .next (s.answer w .stop (some .interfaceState) 0)) ∧
    (1 ≤ w → w ≤ 64 → s.tstate w ≠ 0 →
      exec (.functionLevelReset w) s = .next ((s.endWorld w 0).onTrust w (fun t => { t with stopping := true }))) ∧
    exec .pfFunctionLevelReset s = .next ((s.endWorld 0 0).onTrust 0 (fun t => { t with stopping := true })) ∧
    (1 ≤ w → w ≤ 64 → s.tstate w = 2 ∨ s.tstate w = 3 → exec (.interfaceError w) s =
      .next ((s.endWorld w 0).onWorld w (fun W => { W with trust := { W.trust with tstate := 4 } }))) ∧
    (s.tstate w ≠ 2 → s.tstate w ≠ 3 → exec (.interfaceError w) s = .next s) ∧
    (s.activation = none →
      (s.lockedDown = false →
        let mayAsk : Prop := w = 0 ∧ 1 ≤ n ∧ n ≤ 3 ∨ 1 ≤ w ∧ w ≤ 64 ∧ (s.world w).trust.session = true ∧ 4 ≤ n ∧ n ≤ 6
        (mayAsk → exec (.getMeasurements w n) s = .next (s.answer w (.measure n) none (Config.measurement w n (s.measured w n)))) ∧
        (¬ mayAsk → exec (.getMeasurements w n) s = .next (s.answer w (.measure n) (some .other) 0)) ∧
        (w ≤ 64 → exec (.keyExchange w) s = .next ((s.onTrust w (fun t => { t with session := true })).answer w .exchange none 0))) ∧
      exec (.firmwareActivation n) s = .next { s with activation := some n }) ∧
    (∀ m, s.activation = some m →
      (s.lockedDown = false → exec (.getMeasurements w n) s = .next (s.answer w (.measure n) (some .busy) 0) ∧
        exec (.keyExchange w) s = .next (s.answer w .exchange (some .busy) 0)) ∧
      exec (.firmwareActivation n) s = .next s)

/-- 24 R474, R479, 25 R485, R486, R490, R491: the window of a new firmware ends with its image and a higher FWGEN in every world; cold reset
leaves the machine before bring-up; a slice is contained; a peer group forms, and a member that is away returns with the digest it had, or
is excluded: EXCL names the lowest member that is.
The digests are free values (notes/assumptions/5); what cold reset keeps beyond retired rows is notes/assumptions/31. -/
def Obligations.ResetsAndGroups : Prop :=
  ∀ (s : State) (n g m digest k : Nat),
    (s.activation = some n → ∃ t, exec .activationWindowEnd s = .next t ∧ t.activation = none ∧ t.image = n ∧
      (∀ w, w ≤ 64 → t.world w = { s.world w with trust := { (s.world w).trust with fwgen := ((s.world w).trust.fwgen + 1) % 2 ^ 16 } }) ∧
      { t with activation := s.activation, image := s.image, worlds := s.worlds } = s) ∧
    (s.activation = none → exec .activationWindowEnd s = .next s) ∧
    (∃ t, exec .coldReset s = .next t ∧ t.mem = s.mem.filter (fun c => isOutside c.1) ∧
      { t with tick := 0, mem := [], slices := [], interrupts := [], answers := [] } = State.reset ∧
      t.slices = (s.slices.filter (fun e => !e.2.scrub.retired.isEmpty)).map (fun e => (e.1, e.2.afterReset))) ∧
    (∀ S : Slice, S.afterReset.scrub.retired = S.scrub.retired ∧ S.afterReset.scrub.spares = S.scrub.spares ∧
      { S.afterReset with scrub := Slice0.scrub } = Slice0) ∧
    (k < 64 → exec (.containment k) s = .next (s.onSlice k (fun S => { S with state := 3 }))) ∧
    (s.takesWrite 0 = false → exec (.groupForm g) s = .next s) ∧
    (g < 8 → s.takesWrite 0 = true → exec (.groupForm g) s = .next (s.onGroup g (fun G =>
      { G with state := 1, excl := 0, epoch := (G.epoch + 1) % 2 ^ 32, digests := [], absent := [] }))) ∧
    ((s.group g).state = 1 → (∀ m, m < 16 → bitAt (s.group g).members m = true → (s.port ((s.group g).portOf m)).up = true) →
      exec (.groupFormed g) s = .next (s.onGroup g (fun G =>
        { G with state := 2, digests := G.memberList.map (fun m => (m, Config.peerDigest m s.tick)) }))) ∧
    ((s.group g).state ≠ 1 → exec (.groupFormed g) s = .next s) ∧
    (let out : Out := .next ((s.onGroup g (fun G =>
        { G with state := 3, excl := if G.state = 3 then min G.excl m else m, absent := G.absent.filter (· != m) })).interrupt 0 65)
     (s.group g).state = 2 ∨ (s.group g).state = 3 → (s.group g).absent.contains m = true →
      ((s.port ((s.group g).portOf m)).up = true →
        ((s.group g).digests.get? m = some digest → exec (.memberReturn g m digest) s =
          .next (s.onGroup g (fun G => { G with absent := G.absent.filter (· != m) }))) ∧
        ((s.group g).digests.get? m ≠ some digest → exec (.memberReturn g m digest) s = out)) ∧
      ((s.port ((s.group g).portOf m)).up = false → exec (.memberReturn g m digest) s = .next s) ∧
      exec (.memberAbsenceTimeout g m) s = out) ∧
    ((s.group g).absent.contains m = false →
      exec (.memberReturn g m digest) s = .next s ∧ exec (.memberAbsenceTimeout g m) s = .next s)

/-- 25 R487-R490, R492: performance levels, idle states, the thermal thresholds and the basic controls of a slice. A write of IDLE 3 is
ignored, and before READY every write but PWR_CTL's; an idle state comes into force when nothing remains on the slice, I2 with the lines
homed at it written back; above 105 degrees a slice trips, below 100 it recovers, above 115 the device locks down. -/
def Obligations.PowerAndBasicControls : Prop :=
  ∀ (s : State) (k n : Nat),
    (k < 64 →
      (n < 8 → s.takesWrite 0 = true → exec (.pwrLevelChange k n) s = .next (s.onSlice k (fun S => { S with level := n }))) ∧
      (n < 3 → s.takesWrite 0 = true → exec (.idleRequest k n) s = .next (s.onSlice k (fun S => { S with idle := n }))) ∧
      (n ≤ 105 → exec (.thermalTrip k n) s = .next (s.onSlice k (fun S => { S with temp := n }))) ∧
      (105 < n → n ≤ 115 → exec (.thermalTrip k n) s = .next (s.onSlice k (fun S => { S with trip := true, temp := n }))) ∧
      (115 < n → ∀ i ∈ [Instr.thermalTrip k n, .thermalLockdown k n], exec i s =
        .next ((s.onSlice k (fun S => { S with trip := true, temp := min n 255 })).lockDown 0)) ∧
      (n < 100 → exec (.thermalRecover k n) s = .next (s.onSlice k (fun S => { S with trip := false, temp := n }))) ∧
      (100 ≤ n → n ≤ 105 → exec (.thermalRecover k n) s = .next (s.onSlice k (fun S => { S with temp := n })))) ∧
    (3 ≤ n → exec (.idleRequest k n) s = .next s) ∧
    (105 < n → exec (.thermalRecover k n) s = .next s) ∧
    (n ≤ 115 → exec (.thermalLockdown k n) s = .next s) ∧
    (s.takesWrite 0 = false → ∀ i ∈ [Instr.pwrLevelChange k n, .idleRequest k n, .mscBasic, .schedBasic], exec i s = .next s) ∧
    (s.sliceIdle k = false → exec (.idleEnter k) s = .next s) ∧
    (s.sliceIdle k = true → (s.slice k).idle = 1 → (s.slice k).cur ≠ 1 →
      exec (.idleEnter k) s = .next (s.onSlice k (fun S => { S with cur := 1 }))) ∧
    (s.sliceIdle k = true → (s.slice k).idle = 2 → (s.slice k).cur ≠ 2 →
      let stuck (x : Nat × Nat) : Prop := s.lineBusy x.1 x.2 = true ∨ (isOutside (x.2 * 128) = true ∧ s.linkDown x.1 (x.2 * 128) = true ∧
        ∃ c, s.copies.get? (lineKey x.1 x.2) = some c ∧ c.dirty ≠ 0)
      ((∃ x ∈ s.homedAt k, stuck x) → exec (.idleEnter k) s = .next s) ∧
      ((∀ x ∈ s.homedAt k, ¬ stuck x) →
        let written := (s.homedAt k).foldl (fun (s : State) x => s.evictLine x.1 x.2) s
        exec (.idleEnter k) s = .next ((written.dropL1 (fun c _ => c / 16 == k)).onSlice k (fun S => { S with cur := 2 })))) ∧
    ((s.slice k).idle = 0 → (s.slice k).cur ≠ 0 → exec (.idleExitDone k) s = .next (s.onSlice k (fun S => { S with cur := 0 }))) ∧
    ((s.slice k).idle ≠ 0 → exec (.idleExitDone k) s = .next s) ∧
    (s.takesWrite 0 = true → exec .mscBasic s = .next { s with
      ctl := { s.ctl with retainw := 4, poolc := true }, slices := s.slices.map (fun e => (e.1, { e.2 with req := 0 })) }) ∧
    (s.takesWrite 0 = true → exec .schedBasic s = .next { s with ctl := { s.ctl with quant := 1024, promo := 10 } }) ∧
    (s.lockedDown = true → exec .pwrBasic s = .next s) ∧
    (s.lockedDown = false → exec .pwrBasic s = .next { s with
      ctl := { s.ctl with pkgcap := 2960 }, slices := s.slices.map (fun e => (e.1, { e.2 with level := 0, idle := 0 })) })

/-- 24 R476, 04 R79, R80, R90, R91, 06 R123, R127, 21 R432: commands that wait for a quiesce point of their world. Away from one nothing
happens. At one the homes that a placement hint names move first, outside lines follow the slices owned, and a carve takes effect, its storage
reading zero; a frame changes its form, losing its bytes and its lines; a versioned buffer is declared with windows over its pages, advances
its version, or loses its windows. -/
def Sys2Proof.Claims.QuiescedCommands : Prop :=
  ∀ (s : State) (w k : Nat),
    let still (v : Nat) : Prop := (∀ e ∈ s.launches, e.2.world = v → e.2.ending = false → e.2.stage = .placing → e.2.next ≠ 0) ∧
      (s.world v).outside = s.owned v ∧ (∀ k ∈ s.owned v, (s.slice k).req = (s.slice k).steps)
    (s.worldQuiet w = false → exec (.quiescePoint w) s = .next s ∧ exec (.vbufDeclare w) s = .next s ∧
      exec (.vbufAdvance w) s = .next s ∧ exec (.vbufWithdraw w) s = .next s) ∧
    (s.worldQuiet w = true →
      let s1 := s.performMoves w
      let s2 := (Tab.keys (s1.slices.filter (fun e => e.2.form.busy && e.2.form.world == w))).foldl (fun s k => s.changeForm k) s1
      let s3 := if (s2.world w).vcmd.busy then s2.vbufCommand w else s2
      let s4 := if s3.commandWorld = some w then s3.sliceCommand else s3
      ((s4.world w).trust.stopping = false ∨ (∃ e ∈ s4.launches, e.2.world = w) → exec (.quiescePoint w) s = .next s4) ∧
      ((s4.world w).trust.stopping = true → (∀ e ∈ s4.launches, e.2.world ≠ w) → exec (.quiescePoint w) s = .next (s4.finishStop w))) ∧
    (s.worldQuiet w = true → still w → (∀ e ∈ s.slices, e.2.form.busy = false) → (s.world w).vcmd.busy = false →
      s.commandWorld ≠ some w →
      ((s.world w).trust.stopping = false → exec (.quiescePoint w) s = .next s) ∧
      ((s.world w).trust.stopping = true → (∀ e ∈ s.launches, e.2.world ≠ w) → exec (.quiescePoint w) s = .next (s.finishStop w))) ∧
    (let hinted := s.launches.filter (fun e => e.2.world == w && e.2.stage == .placing && e.2.next == 0 && !e.2.ending)
     let place (s : State) (L : Launch) : State :=
       let hint := nfld (nfld (L.words.getD 10 0).toNat 0 16) 5 2
       let own := s.owned L.world
       let fs := s.hintFrames L
       ((List.range fs.length).zip fs).foldl (fun (s : State) e =>
         let h := if hint = 1 then own.getD (e.1 % own.length) e.2.1 else e.2.1
         let fr := (s.slice e.2.1).frame e.2.2
         if (hint = 1 ∨ hint = 2) ∧ fr.ownersel = 1 ∧ ¬ (fr.striped = true ∧ 0 < fr.pinned) ∧ (s.slice e.2.1).homes.getD e.2.2 e.2.1 ≠ h then
           s.moveHome e.2.1 e.2.2 h else s) s
     let s1 := (hinted.foldl (fun (s : State) e => place s e.2) s).rehome w
     s.performMoves w = (s1.owned w).foldl (fun (s : State) k =>
       if (s.slice k).req = (s.slice k).steps then s else s.carveTo k (s.slice k).req) s1) ∧
    (∀ n, let u := s.carveTo k n
      (u.slice k).steps = n ∧ ∀ a, 0x8000000000000 + k * 2 ^ 26 ≤ a → a < 0x8000000000000 + (k + 1) * 2 ^ 26 → u.mem.read a = 0) ∧
    (s.worldQuiet w = true → s.launches = [] → (s.world w).outside = s.owned w → s.owned w = [k] → (s.slice k).req ≠ (s.slice k).steps →
      let s1 := s.carveTo k (s.slice k).req
      (∀ e ∈ s1.slices, e.2.form.busy = false) → (s1.world w).vcmd.busy = false → s1.commandWorld ≠ some w →
      (s1.world w).trust.stopping = false → exec (.quiescePoint w) s = .next s1) ∧
    (let c := (s.slice k).form
     let fr := (s.slice k).frame c.frame
     let finish (s : State) (r : Nat) : State := s.onSlice k (fun S => { S with form := { S.form with busy := false, result := r } })
     c.busy = true → s.worldQuiet c.world = true → still c.world →
      (fr.striped = c.form → exec (.formChange k) s = .next (finish s 0)) ∧
      (fr.striped ≠ c.form → 0 < fr.pinned → exec (.formChange k) s = .next (finish s 2)) ∧
      (fr.striped ≠ c.form → fr.pinned = 0 → ¬ (fr.ownersel = 1 ∧ (s.slice k).owner = c.world ∨ fr.ownersel = 2 ∧ c.world = 0) →
        exec (.formChange k) s = .next (finish s 3)) ∧
      (fr.striped ≠ c.form → fr.pinned = 0 → fr.ownersel = 1 ∧ (s.slice k).owner = c.world ∨ fr.ownersel = 2 ∧ c.world = 0 →
        exec (.formChange k) s = .next (finish (((s.zeroFrame k c.frame).dropMapped (lineOfFrame k c.frame)).onFrame k c.frame
          (fun fr => { fr with striped := c.form })) 0))) ∧
    (let c := (s.world w).vcmd
     let b := (s.world w).vbufs.getD c.buf Vbuf0
     c.busy = true → s.worldQuiet w = true → still w →
      (c.op = 0 → c.len = 0 ∨ 2 ^ 36 < c.base + c.len → exec (.vbufDeclare w) s = .next (s.vbufDone w 6)) ∧
      (c.op = 0 → 0 < c.len → c.base + c.len ≤ 2 ^ 36 →
        (b.valid = true → exec (.vbufDeclare w) s = .next (s.vbufDone w 5)) ∧
        (b.valid = false →
          (∀ s0, State.vbufPages w c.tcid c.base c.len s = (s0, none) → exec (.vbufDeclare w) s = .next (s0.vbufDone w 2)) ∧
          (∀ s0 ps, State.vbufPages w c.tcid c.base c.len s = (s0, some ps) →
            let free (k : Nat) := (List.range 256).filter (fun i => (((s0.slice k).vwin.get? i).map (·.len)).getD 0 == 0)
            let other : Prop := ∃ e ∈ (s0.world w).vbufs, e.2.valid = true ∧ e.2.tcid = c.tcid ∧
              overlaps c.base (c.base + c.len) e.2.base (e.2.base + e.2.len) = true
            (other ∨ s0.runClash (pageRuns ps) = true → exec (.vbufDeclare w) s = .next (s0.vbufDone w 3)) ∧
            (¬ other → s0.runClash (pageRuns ps) = false → (∀ k, c.len ≤ (free k).length) →
              ∃ s1, s0.writeWindows w c.buf (pageRuns ps) = some s1 ∧ exec (.vbufDeclare w) s =
                .next ((s1.onWorld w (fun W => { W with
                  vbufs := W.vbufs.set c.buf { valid := true, base := c.base, tcid := c.tcid, len := c.len, ver := 1 } })).vbufDone w 0)) ∧
            (¬ other → s0.runClash (pageRuns ps) = false → s0.writeWindows w c.buf (pageRuns ps) = none →
              exec (.vbufDeclare w) s = .next (s0.vbufDone w 4))))) ∧
      (c.op = 1 → (b.valid = false → exec (.vbufAdvance w) s = .next (s.vbufDone w 5)) ∧
        (b.valid = true → b.ver ≠ 2 ^ 32 - 1 → exec (.vbufAdvance w) s =
          .next (((s.onWindows w c.buf (fun x => { x with ver := b.ver + 1 })).onWorld w (fun W =>
            { W with vbufs := W.vbufs.adjust c.buf (fun b' => { b' with ver := b.ver + 1 }) })).vbufDone w 0))) ∧
      (c.op = 2 → (b.valid = false → exec (.vbufWithdraw w) s = .next (s.vbufDone w 5)) ∧
        (b.valid = true → exec (.vbufWithdraw w) s =
          .next (((s.onWindows w c.buf (fun x => { x with len := 0 })).onWorld w (fun W =>
            { W with vbufs := W.vbufs.adjust c.buf (fun b' => { b' with valid := false }) })).vbufDone w 0))))

/-- 01 R16, 24 R476-R478, Tables 24-4 and 24-5: the slice command, at a quiesce point of its world. A tag above 64 is refused and logged as
a system fault; a bind or an unbind of tag 0 meets TSTATE 3 (the model's reading, log 50), and a device in lock-down takes no binding. Each
operation has its checks in order, each with
its RESULT; a bound world is configured with fresh keys; an assigned slice is the world's, with its frames pending zero; a released one
loses its owner and its bytes; a migrated one stands at the same positions of its destination. -/
def Sys2Proof.Claims.SliceCommands : Prop :=
  ∀ (s : State) (w : Nat),
    let c := s.sliceCmd
    let S := s.slice c.slice
    let still (v : Nat) : Prop := (∀ e ∈ s.launches, e.2.world = v → e.2.ending = false → e.2.stage = .placing → e.2.next ≠ 0) ∧
      (s.world v).outside = s.owned v ∧ (∀ k ∈ s.owned v, (s.slice k).req = (s.slice k).steps)
    (s.sliceDue 0 = none → exec .sliceBind s = .next s) ∧ (s.sliceDue 1 = none → exec .sliceUnbind s = .next s) ∧
    (s.sliceDue 2 = none → exec .sliceAssign s = .next s) ∧ (s.sliceDue 3 = none → exec .sliceRelease s = .next s) ∧
    (s.sliceDue 4 = none → exec .sliceMigrate s = .next s) ∧ (s.sliceDue 5 = none → exec .clearContainment s = .next s) ∧
    (∀ n v, s.sliceDue n = some v → n = c.op ∧ c.busy = true ∧ s.worldQuiet v = true) ∧
    (c.busy = true → w = (if c.op = 5 then S.owner else c.world) → s.worldQuiet w = true → still w →
      (c.op = 0 →
        (64 < c.world → exec .sliceBind s = .next ((s.badTag c.world).sliceDone 2)) ∧
        (c.world = 0 → exec .sliceBind s = .next (s.sliceDone 3)) ∧
        (0 < c.world → c.world ≤ 64 →
          (s.tstate c.world ≠ 0 ∨ s.lockedDown = true → exec .sliceBind s = .next (s.sliceDone 3)) ∧
          (s.tstate c.world = 0 → s.lockedDown = false →
            (c.maxsl < c.minsl ∨ 64 < c.maxsl → exec .sliceBind s = .next (s.sliceDone 6)) ∧
            (c.minsl ≤ c.maxsl → c.maxsl ≤ 64 → exec .sliceBind s = .next ((s.onWorld c.world (fun W =>
              { W with
                trust := { W.trust with
                  tstate := 1, minsl := c.minsl, maxsl := c.maxsl, keys := W.trust.keys + 1, keyed := true, locked := false, s2tab := none }
                budget := { W.budget with pctl := [] } })).sliceDone 0))))) ∧
      (c.op = 1 → 64 < c.world → exec .sliceUnbind s = .next ((s.badTag c.world).sliceDone 2)) ∧
      (c.op = 1 → c.world = 0 → exec .sliceUnbind s = .next (s.sliceDone 3)) ∧
      (c.op = 1 → 0 < c.world → c.world ≤ 64 →
        (s.tstate c.world ≠ 1 → exec .sliceUnbind s = .next (s.sliceDone 3)) ∧
        (s.tstate c.world = 1 → s.ownedCount c.world ≠ 0 → exec .sliceUnbind s = .next (s.sliceDone 8)) ∧
        (s.tstate c.world = 1 → s.ownedCount c.world = 0 → exec .sliceUnbind s = .next ((s.onWorld c.world (fun W =>
          { W with trust := { W.trust with tstate := 0, keyed := false, session := false, s2tab := none } })).sliceDone 0))) ∧
      (c.op = 2 → 64 < c.world → exec .sliceAssign s = .next ((s.badTag c.world).sliceDone 2)) ∧
      (c.op = 2 → c.world = 0 →
        (S.state = 1 ∨ S.state = 3 → exec .sliceAssign s = .next (s.sliceDone 4)) ∧
        (S.state ≠ 1 → S.state ≠ 3 → exec .sliceAssign s = .next ((((s.onSlice c.slice (fun S => { S with
          frames := (List.range 4096).map (fun f => (f, { S.frame f with ownersel := 2 })) })).onSlice c.slice
            (fun S => { S with owner := 0, state := 1 })).changeHands c.slice).rehome 0 |>.sliceDone 0))) ∧
      (c.op = 2 → 0 < c.world → c.world ≤ 64 →
        (s.tstate c.world = 0 ∨ 3 < s.tstate c.world → exec .sliceAssign s = .next (s.sliceDone 3)) ∧
        (0 < s.tstate c.world → s.tstate c.world ≤ 3 →
          ((s.world c.world).trust.maxsl ≤ s.ownedCount c.world → exec .sliceAssign s = .next (s.sliceDone 6)) ∧
          (s.ownedCount c.world < (s.world c.world).trust.maxsl →
            (S.state = 1 ∨ S.state = 3 → exec .sliceAssign s = .next (s.sliceDone 4)) ∧
            (S.state ≠ 1 → S.state ≠ 3 → exec .sliceAssign s = .next ((((s.wipeSlice c.slice 1 true).onSlice c.slice
              (fun S => { S with owner := c.world, state := 1 })).changeHands c.slice).rehome c.world |>.sliceDone 0))))) ∧
      (c.op = 3 → c.world ≤ 64 →
        (S.state ≠ 1 ∨ S.owner ≠ c.world → exec .sliceRelease s = .next (s.sliceDone 4)) ∧
        (S.state = 1 → S.owner = c.world → c.world ≠ 0 → s.lockedWorld c.world = true →
          s.ownedCount c.world ≤ (s.world c.world).trust.minsl → exec .sliceRelease s = .next (s.sliceDone 6)) ∧
        (S.state = 1 → S.owner = c.world →
          s.lockedWorld c.world = false ∨ c.world = 0 ∨ (s.world c.world).trust.minsl < s.ownedCount c.world →
          (S.anyPinned = true → exec .sliceRelease s = .next (s.sliceDone 5)) ∧
          (S.anyPinned = false → exec .sliceRelease s = .next ((s.releaseSlice c.slice).sliceDone 0)))) ∧
      (c.op = 4 → c.world ≤ 64 →
        (S.state ≠ 1 ∨ S.owner ≠ c.world ∨ c.slice = c.dest ∨ (s.slice c.dest).state ≠ 1 ∨ (s.slice c.dest).owner ≠ c.world →
          exec .sliceMigrate s = .next (s.sliceDone 4)) ∧
        (S.state = 1 → S.owner = c.world → (s.slice c.dest).state = 1 → (s.slice c.dest).owner = c.world → c.slice ≠ c.dest →
          ((∃ e ∈ (s.slice c.dest).frames, e.2.pz = false ∨ 0 < e.2.pinned) → exec .sliceMigrate s = .next (s.sliceDone 7)) ∧
          ((∀ e ∈ (s.slice c.dest).frames, e.2.pz = true ∧ e.2.pinned = 0) →
            (S.anyPinned = true → exec .sliceMigrate s = .next (s.sliceDone 5)) ∧
            (S.anyPinned = false →
              let s1 := (((s.settleLines (lineOfSlice c.slice)).dropMapped (fun l => lineOfSlice c.slice l || lineOfSlice c.dest l)).copySlice
                c.world c.slice c.dest).moveCode c.world c.slice c.dest
              let s2 := if (s.world c.world).trust.s2valid then
                (State.moveLeaves c.slice c.dest [0, 1, 2, 3] ((s.world c.world).trust.s2root * 4096) s1).moveImage c.world c.slice c.dest
                else s1
              let s3 := s2.onWorld c.world (fun W => { W with trust := { W.trust with s2gen := satN 32 (W.trust.s2gen + 1) } })
              exec .sliceMigrate s = .next (((s3.dropTlb c.world (fun _ => true)).releaseSlice c.slice).sliceDone 0))))) ∧
      (c.op = 4 → 64 < c.world → exec .sliceMigrate s = .next ((s.badTag c.world).sliceDone 2)) ∧
      (c.op = 3 → 64 < c.world → exec .sliceRelease s = .next ((s.badTag c.world).sliceDone 2)) ∧
      (c.op = 5 →
        (S.state ≠ 3 → exec .clearContainment s = .next (s.sliceDone 4)) ∧
        (S.state = 3 → exec .clearContainment s = .next ((s.releaseSlice c.slice).sliceDone 0))))

/-- Commands that take effect at a quiesce point: forms, versions and slices.
What a migration and a STOP do beyond the rules' words is notes/assumptions/31. -/
def Obligations.WorldCommands : Prop :=
  Sys2Proof.Claims.QuiescedCommands ∧
  Sys2Proof.Claims.SliceCommands

/-! ### Steps of the device: queues, launches, figures, contexts and registers -/

/-- 21 R426-R428, R430, R433-R436, R439, Tables 21-2 and 21-5: queues and the first steps of a launch. A doorbell sets WPTR of a slot that
the world has mapped, and one that overruns its ring stops the queue; a gang is mapped whole, each queue of its list in a free slot of its
own, or not at all, and each of its queues is unmapped at a record boundary; a dequeue takes the record at RPTR as the next launch; a launch
whose dependency is met starts its prologue or its admission.
The EADDR of a queue fault is notes/assumptions/17. -/
def Obligations.QueuesAndDequeue : Prop :=
  ∀ (s : State) (w i l : Nat) (v : Word) (L : Launch),
    (s.accepts w = true → (s.slot i).state ≠ 0 → (s.slot i).world = w →
      let s1 := s.onSlot i (fun q => { q with wptr := v.toNat })
      ((v.toNat + 2 ^ 32 - (s.slot i).rptr) % 2 ^ 32 ≤ 2 ^ (s.slot i).log2sz → exec (.doorbell w i v) s = .next s1) ∧
      (2 ^ (s.slot i).log2sz < (v.toNat + 2 ^ 32 - (s.slot i).rptr) % 2 ^ 32 →
        exec (.doorbell w i v) s = .next (s1.queueFault i 0x71 1 0x10 0))) ∧
    (s.accepts w = false ∨ (s.slot i).state = 0 ∨ (s.slot i).world ≠ w → exec (.doorbell w i v) s = .next s) ∧
    (let g := (s.world w).gang
     g.busy = true →
      (g.op = false →
        (s.accepts w = false → exec (.gangMap w) s = .next (s.gangDone w 5)) ∧
        (s.accepts w = true →
          (g.count = 0 ∨ 64 < g.count → exec (.gangMap w) s = .next (s.gangDone w 3)) ∧
          (0 < g.count → g.count ≤ 64 →
            (s.freeSlots.length < g.count → exec (.gangMap w) s = .next (s.gangDone w 2)) ∧
            (g.count ≤ s.freeSlots.length →
              (∀ s1, s.gangQueues w g = (s1, none) → exec (.gangMap w) s = .next (s1.gangDone w 3)) ∧
              (∀ s1 qs, s.gangQueues w g = (s1, some qs) →
                let mapped (s : State) (e : Nat × Slot) : State :=
                  let u := (s.onSlot e.1 (fun _ => { e.2 with last := s.newestOf e.2.world e.2.qid })).recordPut e.1 0x18 [1]
                  if (u.slot e.1).state = 1 ∧ 2 ^ e.2.log2sz < (e.2.wptr + 2 ^ 32 - e.2.rptr) % 2 ^ 32 then u.queueFault e.1 0x71 1 0x10 0 else u
                qs.length = g.count ∧ (∀ q ∈ qs, q.world = w ∧ q.gang = g.gang ∧ q.state = 1) ∧
                (s1.duplicateQid w qs = true → exec (.gangMap w) s = .next (s1.gangDone w 4)) ∧
                (s1.duplicateQid w qs = false →
                  exec (.gangMap w) s = .next (((s.freeSlots.zip qs).foldl mapped s1).gangDone w 0))))))) ∧
      (g.op = true →
        (s.accepts w = false → exec (.gangUnmap w) s = .next (s.gangDone w 5)) ∧
        (s.accepts w = true → (∀ e ∈ s.slots, e.2.gang ≠ g.gang) → exec (.gangUnmap w) s = .next (s.gangDone w 5)) ∧
        (let mine (s : State) : List Nat := Tab.keys (s.slots.filter (fun e => e.2.state != 0 && e.2.world == w && e.2.gang == g.gang))
         let busy (s : State) (n : Nat) : Prop := ∃ e ∈ s.launches, (e.2.stage = .prologue ∨ e.2.stage = .reading) ∧ e.2.ending = false ∧
           s.slotOf e.2 = some n
         let unmap (s : State) (n : Nat) : State :=
           let u := (s.recordPut n 0x14 (leBytes 4 (s.slot n).rptr)).recordPut n 0x18 [0]
           { u with slots := u.slots.del n }
         s.accepts w = true → mine s ≠ [] →
          let s1 := (mine s).foldl (fun s n => s.onSlot n (fun q => { q with state := 3 })) s
          (∀ n, s1.atBoundary n = true ↔ ¬ busy s1 n) ∧ (∀ n u, (unmap u n).slot n = Slot0) ∧
          (let s2 := ((mine s1).filter s1.atBoundary).foldl unmap s1
           (mine s2 ≠ [] → exec (.gangUnmap w) s = .next s2) ∧
           (mine s2 = [] → exec (.gangUnmap w) s = .next (s2.gangDone w 0)))))) ∧
    ((s.world w).gang.busy = false → exec (.gangMap w) s = .next s ∧ exec (.gangUnmap w) s = .next s) ∧
    (let q := s.slot i
     let va := q.ring + 128 * (q.rptr % 2 ^ q.log2sz)
     q.state = 1 → s.accepts q.world = true → s.activation = none → s.mayFollow q false = true →
      (q.wptr = q.rptr → exec (.launchDequeue i) s = .next s) ∧
      (q.wptr ≠ q.rptr →
        (∀ s1, s.choreoRead (.driver false) q.world va 128 = (s1, .error (.bad 0x20)) →
          exec (.launchDequeue i) s = .next (s1.queueFault i 0x71 4 va q.rptr)) ∧
        (∀ s1 c, c ≠ 0x20 → s.choreoRead (.driver false) q.world va 128 = (s1, .error (.bad c)) →
          exec (.launchDequeue i) s = .next (s1.queueFault i c 0 va q.rptr)) ∧
        (∀ s1 b ws, s.choreoRead (.driver false) q.world va 128 = (s1, .ok b) →
          ws = (List.range 16).map (fun k => BitVec.ofNat 64 (fieldAt b (8 * k) 8)) →
          s.mayFollow q (bitAt (nfld (ws.getD 10 0).toNat 0 16) 4) = true →
          let L : Launch := { Launch0 with
            world := q.world, slot := i, qid := q.qid, seq := q.rptr, tcid := q.tcid, vec := q.vec, prio := q.prio, words := ws, stage := .reading
            owned := !(s1.owned q.world).isEmpty }
          let s2 := ({ s1 with launches := s1.launches.set s1.nextId L, nextId := s1.nextId + 1 } : State).onSlot i (fun q =>
            { q with rptr := (q.rptr + 1) % 2 ^ 32, last := some s1.nextId })
          (∀ s3, s2.recordWrite i 0x14 (leBytes 4 (s2.slot i).rptr) q.rptr = (s3, true) →
            exec (.launchDequeue i) s = .next (s3.admitRecord s1.nextId L)) ∧
          (∀ s3, s2.recordWrite i 0x14 (leBytes 4 (s2.slot i).rptr) q.rptr = (s3, false) →
            exec (.launchDequeue i) s = .next (s3.faulted s1.nextId L))))) ∧
    (s.activation ≠ none → exec (.launchDequeue i) s = .next s) ∧
    (s.launches.get? l = some L → L.ending = false → s.faultStands L.world 5 l 0 = false →
      (L.stage = .reading → exec (.dependencyMet l) s = .next (s.admitRecord l L)) ∧
      (L.stage = .dependency →
        let goOn (s : State) (ws : List DWord) : State := s.onLaunch l (fun L => Launch.prologueRun { L with words := ws })
        (L.word 12 = 0 → L.boundFields = [] → exec (.dependencyMet l) s = .next (goOn s L.words)) ∧
        (∀ a b s1 x, L.word 12 ≠ 0 → s.usable L.world L.tcid (L.word 12) = .dpa a → s.choreoDpa L.world L.tcid (L.word 12) = .dpa b →
          (s.lookReads (.context L.tcid) L.world (L.word 12)).depWord L.world a = (s1, .ok x) →
          (0 < sextNat 64 x → exec (.dependencyMet l) s = .next s1) ∧
          (sextNat 64 x ≤ 0 → ∀ s2 ws, s1.bind L = (s2, .ok ws) → exec (.dependencyMet l) s = .next (goOn s2 ws))) ∧
        (∀ a b s1 c, L.word 12 ≠ 0 → s.usable L.world L.tcid (L.word 12) = .dpa a → s.choreoDpa L.world L.tcid (L.word 12) = .dpa b →
          (s.lookReads (.context L.tcid) L.world (L.word 12)).depWord L.world a = (s1, .error c) →
          exec (.dependencyMet l) s = .next (s1.refuse l 9 0)) ∧
        (∀ s1 ws, L.word 12 = 0 → s.bind L = (s1, .ok ws) → exec (.dependencyMet l) s = .next (goOn s1 ws)) ∧
        (∀ s1 c, L.word 12 = 0 → s.bind L = (s1, .error (.bad c)) → exec (.dependencyMet l) s = .next (s1.refuse l 9 0)) ∧
        (∀ s1 va e, L.word 12 = 0 → s.bind L = (s1, .error (.wait va e)) → exec (.dependencyMet l) s = .next (s1.awaitTwo l va e))))

/-- 07 R159, 09 R211, 20 R408-R413, R419-R422, 21 R433, R437, R496: a launch is checked, takes its leases one by one, is placed, staged and
started, and ends with its run. A decision takes the budgets that the host wrote; a head whose gate is open and whose queue has the deficit is
placed, whatever else the machine holds: each company's troupes stand on the cores of one slice, which of the slices that can take it has
the most free set slots, each on the core that has the most. A head that has waited its period rises; a measure of at least 10 microseconds
paces the cores of a world beyond its budgets, its near-bank units charged beside it (05 R97).
The activity of a world's units is two operands (notes/assumptions/28). -/
def Obligations.LaunchesRun : Prop :=
  ∀ (s : State) (w i l t power scratch : Nat) (L : Launch) (T : Troupe),
    (s.launches.get? l = some L → L.ending = false →
      (L.stage = .admission → exec (.launchAdmission l) s = .next (s.checkLaunch l L) ∧
        (recordBad L.words = true → exec (.launchAdmission l) s = .next (s.refuse l 1 0)) ∧
        (recordBad L.words = false → L.desc.bad = none →
          (∀ h ∈ L.desc.layouts, ((s.world L.world).layouts.get? h).isSome = true) → s.rangeBad l L = none → L.leaseBad = none →
          L.stageBad = none → L.owned = true → s.owned L.world ≠ [] →
          (∀ d, s.neverFits L = some d → exec (.launchAdmission l) s = .next (s.refuse l 8 d)) ∧
          (s.neverFits L = none → exec (.launchAdmission l) s =
            .next (s.onLaunch l (fun L => { L with stage := .granting 0, uses := [], wins := [], rngs := [] }))))) ∧
      (∀ n, L.stage = .granting n →
        (∀ e, L.desc.leases[n]? = some e → exec (.launchAdmission l) s = .next (s.bindLease l L n e)) ∧
        (L.desc.leases[n]? = none → exec (.launchAdmission l) s = .next (s.admitted l L)))) ∧
    ((∀ e ∈ s.launches, e.2.world ≠ w) →
      (s.quiescing w = true → exec (.placementDecision w) s = .next s) ∧
      (s.accepts w = false → exec (.placementDecision w) s = .next s)) ∧
    (let mine := Tab.keys (s.launches.filter (fun e => e.2.world == w && !e.2.ending))
     let s1 := mine.foldl (fun s l => s.endCompanies l) s
     s1.quiescing w = false → s1.accepts w = true →
      let s2 := (if s1.worldQuiet w then s1.performMoves w else s1).onWorld w (fun W => { W with budget :=
        { W.budget with inForce := { core := W.budget.core, pwr := W.budget.pwr, bw := W.budget.bw } } })
      exec (.placementDecision w) s = .next ((State.rounds w [0, 1, 2, 3] s2).noteWaits w)) ∧
    (∀ (h : Head) (fuel : Nat), s.headOf w l = some h → s.launches.get? h.launch = some L →
      let cost := h.companies.length * L.desc.sets * L.desc.troupes
      (∀ g, s.gate w L h = .error g → State.spend w l (fuel + 1) s = s) ∧
      (∀ ps n, s.gate w L h = .ok ps → s.slotOf L = some n →
        ((s.slot n).deficit < cost → State.spend w l (fuel + 1) s = s) ∧
        (cost ≤ (s.slot n).deficit → State.spend w l (fuel + 1) s = State.spend w l fuel
          (((s.placeHead h.launch L h ps).onSlot n (fun q =>
            { q with deficit := q.deficit - cost, eprio := q.prio, waited := 0, reserved := false })).onWorld w (fun W =>
              { W with budget := { W.budget with last := L.slot + 1 } })))) ∧
      (∀ ps, s.gate w L h = .ok ps → (s.planOf w).companies L h.companies = some ps ∧ ps.map (·.1) = h.companies ∧
        (L.isMicro = false → ∀ p ∈ ps, p.2.length = L.desc.troupes ∧
          ∃ k ∈ s.openSlices w, ∀ x ∈ p.2, ∃ j, j < 16 ∧ x = .core (16 * k + j)) ∧
        (h.saved = false →
          let news := ps.flatMap (fun p => p.2.mapIdx (fun j x => L.troupe h.launch p.1 j x))
          (s.placeHead h.launch L h ps).troupes =
            (news.mapIdx (fun j T => (s.nextId + j, T))).foldl (fun (m : Tab Troupe) e => Tab.set m e.1 e.2) s.troupes))) ∧
    (∀ (P P' : Plan) (d : Desc) (ps : List Place), P.core d = some (ps, P') →
      ∃ k loads is l', (k, loads) ∈ P.cores ∧ packTroupes d d.troupes loads = some (is, l') ∧ ps = is.map (fun j => Place.core (16 * k + j)) ∧
        P'.cores = P.cores.set k l' ∧ ∀ e ∈ P.cores, (packTroupes d d.troupes e.2).isSome = true → freeSets e.2 ≤ freeSets loads) ∧
    (∀ (d : Desc) (loads : List Load) (j : Nat), bestCore d loads = some j →
      j < 16 ∧ ((loads.getD j Load0).of d).ok = true ∧ ∀ n, n < 16 → ((loads.getD n Load0).of d).ok = true →
        (loads.getD j Load0).sets ≤ (loads.getD n Load0).sets ∧ ((loads.getD n Load0).sets = (loads.getD j Load0).sets → j ≤ n)) ∧
    (s.troupes.get? t = some T → (s.launchOf T).ending = false →
      (T.staged = true → exec (.stagingCopy t) s = .next s) ∧
      (T.staged = false →
        (T.place.isUnit = false →
          let pieces := (s.launchOf T).stagePieces.drop T.stagedTo
          (∀ s1 T', State.stageAll (s.launchOf T) pieces s T = (s1, T', none) →
            exec (.stagingCopy t) s = .next (s1.onTroupe t (fun T => { T with spad := T'.spad, staged := true, stagedTo := T'.stagedTo }))) ∧
          (∀ s1 T' n va e, State.stageAll (s.launchOf T) pieces s T = (s1, T', some (n, .translate va e)) →
            let s2 := s1.onTroupe t (fun T => { T with spad := T'.spad, stagedTo := T'.stagedTo })
            (s2.faultStands (s.launchOf T).world 4 T.launch n = true → exec (.stagingCopy t) s = .next s2) ∧
            (s2.faultStands (s.launchOf T).world 4 T.launch n = false → exec (.stagingCopy t) s =
              .next (s2.reportFault (s.launchOf T).world 31 31 (s.launchOf T).tcid va e 4 T.launch n)))) ∧
        ((s.launchOf T).desc.stages = [] → T.place.isUnit = false →
          exec (.stagingCopy t) s = .next (s.onTroupe t (fun U => { U with spad := T.spad, staged := true, stagedTo := T.stagedTo }))) ∧
        (T.place.isUnit = true → exec (.stagingCopy t) s = .next (s.onTroupe t (fun T => { T with staged := true })))) ∧
      (T.started = false →
        ((∃ e ∈ s.troupes, e.2.launch = T.launch ∧ e.2.staged = false) → exec (.troupeStart t) s = .next s) ∧
        ((∀ e ∈ s.troupes, e.2.launch = T.launch → e.2.staged = true) → exec (.troupeStart t) s = .next (s.onTroupe t (fun T => { T with
          started := true
          setTab := T.setTab.map (fun (e : Nat × SetState) =>
            (e.1, { e.2 with threads := e.2.threads.map (fun th => { th with since := s.cycle.toNat }) })) }))))) ∧
    (s.launches.get? l = some L → L.ending = true → L.stage ≠ .done →
      let s1 := (s.troupesOf l).foldl (fun s e => s.dropHeld e.1 e.2) s
      (s1.runQuiet l = true → s1.enginesDone l = true →
        let s2 := (s1.troupesOf l).foldl (fun s e => s.dropTroupe e.1) (s1.uncharge l (s1.companiesOf l))
        exec (.gridRunEnd l) s = .next (((s2.releaseRun l).freeContexts l).complete l)) ∧
      (s1.runQuiet l = false ∨ s1.enginesDone l = false → exec (.gridRunEnd l) s = .next s1)) ∧
    (s.launches.get? l = some L → L.stage = .done → exec (.gridRunEnd l) s = .next (s.complete l)) ∧
    (s.launches.get? l = some L → L.ending = false → s.troupesOf l = [] → L.stage = .running → L.next = L.companies → L.ended = L.companies →
      L.saved = [] → s.runQuiet l = true →
      let s1 := (s.releaseRun l).onLaunch l (fun L => { L with runs := (L.runs + 1) % 2 ^ 32 })
      (L.again = false → exec (.gridRunEnd l) s = .next ((s1.onLaunch l (fun L => { L with ending := true })).complete l)) ∧
      (L.again = true → exec (.gridRunEnd l) s = .next (s1.onLaunch l (fun L => Launch.prologueRun { L with next := 0, ended := 0 })))) ∧
    ((s.slot i).waited = 0 ∨ s.now < (s.slot i).waited - 1 + s.ctl.promo * 1000000 → exec (.priorityPromotion i) s = .next s) ∧
    ((s.slot i).waited ≠ 0 → (s.slot i).waited - 1 + s.ctl.promo * 1000000 ≤ s.now →
      exec (.priorityPromotion i) s = .next (s.onSlot i (fun q => { q with eprio := q.eprio - 1, reserved := true, waited := 1 + s.now }))) ∧
    (let m := (s.world w).budget.meter
     (s.now < m.since + 10000 → exec (.pacingWindow w power scratch) s = .next s) ∧
     (m.since + 10000 ≤ s.now →
      let own := m.links - m.own
      let watts := (power + scratch) * 65536 + s.leakage w + s.slicePower w + s.linkPower w own (s.allLinks - m.all)
      let band := (own * 10000 / (s.now - m.since) + 2499) / 2500
      let beyond := decide (s.powerBudget w < watts + (s.unitsOf w).length * 140800) || decide (s.linkBudget w < band)
      ∃ u, exec (.pacingWindow w power scratch) s = .next u ∧
        u.world w = { s.world w with budget := { (s.world w).budget with
          pwrUsed := watts, bwUsed := band, paced := beyond
          meter := { links := m.links, busy := [], since := s.now, own := m.links, all := s.allLinks } } } ∧
        (∀ k c, k ∈ s.owned w → c < 16 → (u.coreAt (16 * k + c)).paced = beyond) ∧
        { u with worlds := s.worlds, cores := s.cores } = s))

/-- 16 R375, R379, 20 R414-R417, R421, 05 R94: who issues next. A round puts the figures of a core, at most eight, on the agenda, aged ones
first, each with the ready threads of the core at its leader's PC, one for each lane; the cue streams of a core that are ready take turns in
the order of their placement; a unit takes the next set of its round that is ready; threads age, and join and yield end.
That the parts of a figure issue set by set, and that the steps of the device come in the order of the free schedule, is the model's choice (notes/assumptions/2). -/
def Obligations.FiguresForm : Prop :=
  ∀ (s : State) (c t k u j : Nat) (S : SetState),
    (s.coreTurn c = false → exec (.bundlerRound c) s = .next s ∧ exec (.cueIssue c) s = .next s) ∧
    (s.coreTurn c = true → ∃ v, exec (.bundlerRound c) s = .next v ∧
      let rs := s.ready c
      let go := (roundOfCore (readyTable (s.coreAt c).pcTable rs) rs).1
      go.length ≤ 8 ∧ (∀ r, oldest rs = some r → go.head? = some (r.lead rs).1) ∧
      ((rs.filter (fun r => r.aged.isSome)).length ≤ 8 → ∀ r ∈ rs, ∀ n, inMask r.fig.mask n = true → (r.ages.get? n).isSome = true →
        ∃ fs ∈ go, ∃ f ∈ fs, f.troupe = r.fig.troupe ∧ f.set = r.fig.set ∧ f.pc = r.fig.pc ∧ inMask f.mask n = true) ∧
      (∃ spare, v.agenda = go.flatten.map (fun f => Turn.issue (.step f)) ++ .spare spare :: s.agenda) ∧
      { v with agenda := s.agenda, cores := s.cores } = s) ∧
    (∀ (r : Ready) (rs : List Ready),
      (r.lead rs).1.Pairwise (fun a b => a.mask &&& b.mask = 0) ∧
      (∀ f ∈ (r.lead rs).1, f = r.fig ∨ (r.conv = false ∧ f.more = true ∧ ∃ x ∈ rs, x.code = r.code ∧ x.conv = false ∧
        f.troupe = x.fig.troupe ∧ f.set = x.fig.set ∧ f.pc = x.fig.pc ∧ f.mask &&& ~~~ x.fig.mask = 0))) ∧
    (∀ T, s.coreTurn c = true → (t, T) ∈ s.troupes → s.troupes.get? t = some T → T.place = .core c → cueCan s T = true →
      let rival (e : Nat × Troupe) : Prop := e ∈ s.troupes ∧ e.2.place = .core c ∧ cueCan s e.2 = true ∧ e ≠ (t, T)
      let last := (s.coreAt c).cueTurn
      (last < T.order t ∧ (∀ e, rival e → last < e.2.order e.1 → T.order t < e.2.order e.1)) ∨
        (T.order t ≤ last ∧ ∀ e, rival e → e.2.order e.1 ≤ last ∧ T.order t < e.2.order e.1) →
      exec (.cueIssue c) s = .next { s.onCore c (fun C => { C with cueTurn := T.order t }) with
        cur := some { agent := .cue t, group := T.cue.pc, word := T.cue.pc, hints := [] } }) ∧
    ((∀ e ∈ s.troupes, ¬ (e.2.place = .core c ∧ cueCan s e.2 = true)) → exec (.cueIssue c) s = .next s) ∧
    (s.setAt? t k = some S →
      ((S.lane j).live = true → (S.lane j).hold = .ready → (S.lane j).since + 512 ≤ s.cycle.toNat →
        exec (.threadAged t k j) s = .next (s.onSet t k (fun S => S.onLanes (maskBit j) (fun _ th => { th with aged := true })))) ∧
      ((S.lane j).live = false ∨ (S.lane j).hold ≠ .ready ∨ s.cycle.toNat < (S.lane j).since + 512 →
        exec (.threadAged t k j) s = .next s)) ∧
    exec (.joinTimeout t k) s = .next (s.onSet t k (fun S =>
      { S.onLanes (maskOf (fun j => (S.lane j).hold == .join)) (fun _ th => { th with hold := .ready }) with
        joined := (BitVec.ofNat 32 S.joined ||| maskOf (fun j => (S.lane j).hold == .join)).toNat })) ∧
    (k ≠ 255 → exec (.yieldExpiry t k) s = .next (s.onSet t k (fun S =>
      S.onLanes (maskOf (fun j => (S.lane j).hold == .yield)) (fun _ th => { th with hold := .ready })))) ∧
    exec (.yieldExpiry t 255) s = .next (s.onCue t (fun C => { C with idle := false })) ∧
    (s.unitSets k u = [] → exec (.nbSetIssue k u) s = .next s) ∧
    (let sets := s.unitSets k u
     let s1 := sets.foldl (fun s e => s.holdSet e) s
     let turn := ((s1.slice k).unit u).turn
     let able (e : Nat × Nat) : Prop := ∃ T S, s1.troupes.get? e.1 = some T ∧ s1.setAt? e.1 e.2 = some S ∧ canIssue s1 T S = true ∧
       ∃ th ∈ S.threads, th.ready = true ∨ (th.live = true ∧ th.hold = .yield)
     ((∀ e ∈ sets, ¬ able e) → exec (.nbSetIssue k u) s = .next s1) ∧
     (∀ d p S, d < sets.length → p = (turn + d) % sets.length → sets[p]? = some (t, j) → sets.Nodup → able (t, j) → s1.setAt? t j = some S →
      (∀ n, n < d → ∀ e, sets[(turn + n) % sets.length]? = some e → ¬ able e) →
      let s2 := s1.onUnit k u (fun U => { U with turn := p + 1 })
      ((∃ th ∈ S.threads, th.live = true ∧ th.hold = .yield) → exec (.nbSetIssue k u) s = .next (s2.onSet t j (fun S =>
        S.onLanes (maskOf (fun n => (S.lane n).hold == .yield)) (fun _ th => { th with hold := .ready })))) ∧
      (∀ pc, (∀ th ∈ S.threads, ¬ (th.live = true ∧ th.hold = .yield)) → S.unitPc s1.cycle.toNat = some pc →
        exec (.nbSetIssue k u) s = .next (s2.begin (.step
          { troupe := t, set := j, mask := maskOf (fun n => (S.lane n).ready && (S.lane n).pc == pc), pc := pc, more := false })))))

/-- 22 R457-R462: pre-emption. A command has its checks in order, each with its RESULT; where the area has room for every company of the
troupes that it names, it halts them all and no other; the troupes of a core are saved together once the commits and engines of each have
finished; held companies of the launches named wait for their release; a company that has places again is restored with all its troupes, if
its context carries its tags.
The tag is a free value (notes/assumptions/5), and so is where the area holds a company (notes/assumptions/30). -/
def Obligations.ContextsMove : Prop :=
  ∀ (s : State) (page core l company : Nat) (L : Launch) (c : SavedCompany),
    (let P := s.preemptCmd page
     let done (s : State) (r : Nat) : State := s.onPreempt page (fun c => { c with busy := false, result := r, going := false })
     let ends (i : Instr) (op : Nat) : Prop :=
      (P.busy = false ∨ P.op ≠ op → exec i s = .next s) ∧
      (P.busy = true → P.op = op → P.going = false →
        (64 < s.preemptWorld page ∨ s.preemptSlotBad page = true → exec i s = .next (done (s.badTag (s.preemptWorld page)) 2)) ∧
        (s.preemptWorld page ≤ 64 → s.preemptSlotBad page = false →
          (s.preemptTroupes page = [] → exec i s = .next (done s 4)) ∧
          (s.preemptTroupes page ≠ [] →
            let ts := s.preemptTroupes page
            let room := State.makeContexts (s.preemptWorld page) (companiesIn ts) s
            (room = none → exec i s = .next (done s 3)) ∧
            (∀ s1, room = some s1 → ∃ u, exec i s = .next u ∧
              u = (ts.foldl (fun s e => s.haltTroupe page e.1 e.2) s1).onPreempt page (fun c => { c with going := true }) ∧
              (∀ e ∈ ts, ∃ T, u.troupes.get? e.1 = some T ∧ T.halted = true ∧ T.cmd = page + 1) ∧
              (∀ n, (∀ e ∈ ts, e.1 ≠ n) → u.troupes.get? n = s.troupes.get? n))))) ∧
      (P.busy = true → P.op = op → P.going = true →
        ((∃ e ∈ s.troupes, e.2.cmd = page + 1) → exec i s = .next s) ∧
        ((∀ e ∈ s.troupes, e.2.cmd ≠ page + 1) → exec i s = .next (done s 0)))
     ends (.preemptRequeue page) 0 ∧ ends (.preemptHold page) 1 ∧
      (P.busy = true → P.op = 2 →
        (64 < s.preemptWorld page ∨ s.preemptSlotBad page = true →
          exec (.releaseHeld page) s = .next (done (s.badTag (s.preemptWorld page)) 2)) ∧
        (s.preemptWorld page ≤ 64 → s.preemptSlotBad page = false → exec (.releaseHeld page) s =
          .next (done { s with launches := s.launches.map (fun e => if s.preemptNames page e.2 then
            (e.1, { e.2 with saved := e.2.saved.map (fun x => { x with held := false }) }) else e) } 0)))) ∧
    (∀ w n p, s.areaGap w n = some p → p + n ≤ (s.world w).area.len ∧ ∀ x ∈ s.areaTaken w, overlaps x.1 (x.1 + x.2) p (p + n) = false) ∧
    (let p := placeOfTag core
     let taken (e : Nat × Troupe) : Prop := e ∈ s.troupes ∧ e.2.cmd ≠ 0 ∧ (s.launchOf e.2).ending = false
     let lower : Prop := p.isUnit = false ∧ ∃ e, taken e ∧ e.2.place.isUnit = false ∧ e.2.place.slice = p.slice ∧ e.2.place.coreNo < p.coreNo
     let ts := s.troupes.filter (fun e => e.2.place == p && (e.2.cmd != 0 && !(s.launchOf e.2).ending))
     (lower ∨ (∃ e ∈ ts, s.saveReady e.1 e.2 = false) → exec (.contextSave core) s = .next s.finishPreempts) ∧
     (¬ lower → (∀ e ∈ ts, s.saveReady e.1 e.2 = true) →
       exec (.contextSave core) s = .next (ts.foldl (fun s e => s.saveTroupe e.1 e.2) s).finishPreempts)) ∧
    (s.launches.get? l = some L → L.saved.find? (fun c => c.company == company && !c.places.isEmpty) = some c → L.ending = false →
      s.roomForOps c = true →
      let cap := s.contextCap L.world c.page c.pages
      (s.areaHeld cap = false → exec (.contextRestore l company) s = .next (s.contextFault l cap.base)) ∧
      (s.areaHeld cap = true →
        (∀ s1, s.areaRead cap (L.desc.troupes * L.desc.contextBytes) = (s1, none) →
          exec (.contextRestore l company) s = .next (s1.restoreFault l c cap.base)) ∧
        (∀ s1 bs, s.areaRead cap (L.desc.troupes * L.desc.contextBytes) = (s1, some bs) →
          (s1.carriesTags l L c bs = false → exec (.contextRestore l company) s = .next (s1.restoreFault l c cap.base)) ∧
          (s1.carriesTags l L c bs = true →
            let s2 := (s1.onWorld L.world (fun W => { W with area := { W.area with used := W.area.used - c.pages } })).onLaunch l
              (fun L => { L with saved := L.saved.filter (fun x => x.company != company) })
            exec (.contextRestore l company) s = .next (c.troupes.foldl (fun s e => s.restoreTroupe c bs e.1 e.2) s2))))) ∧
    (s.launches.get? l = none → exec (.contextRestore l company) s = .next s)

/-- 00 R6, 25 R481, R490, Table 25-1: a write of a register. A function that is not served changes nothing; a field that the write reaches
takes its bits, a reserved value is ignored, and a command register starts its command with RESULT 1; while it is BUSY its fields are stored
for software to read back, and the command goes on with its own. -/
def Obligations.RegisterWrites : Prop :=
  ∀ (s : State) (w off : Nat) (v : DWord),
    let x := v.toNat
    (s.servesWrites w off = false → exec (.registerWrite w off v) s = .next s) ∧
    (off % 8 ≠ 0 → exec (.registerWrite w off v) s = .next s) ∧
    (s.servesWrites w off = true → off % 8 = 0 → exec (.registerWrite w off v) s = .next (s.writeAt w off x)) ∧
    (w ≤ 64 → s.lockedDown = false → s.ctl.ready = true → s.tstate w ≠ 4 →
      ((s.world w).gang.busy = true → exec (.registerWrite w 0x108 v) s = .next s) ∧
      ((s.world w).gang.busy = false → exec (.registerWrite w 0x108 v) s = .next (s.onWorld w (fun W =>
        { W with gang := { W.gang with gang := nfld x 0 20, op := bitAt x 32, busy := true, result := 1 } }))) ∧
      ((s.preemptCmd w).busy = true → exec (.registerWrite w 0x300 v) s = .next (s.onPreempt w (fun c =>
        if bitAt x 21 then c else { c with later := [(0, x)] }))) ∧
      (∀ n, n < 256 → exec (.registerWrite w (0x40100 + 8 * n) v) s = .next (s.onWorld w (fun W =>
        { W with ctx := W.ctx.set n (nfld x 0 1 + nfld x 12 40 * 4096) }))) ∧
      ((s.world w).lreq.busy = true → exec (.registerWrite w 0x40080 v) s = .next (s.onWorld w (fun W =>
        { W with lreq := { W.lreq with later := W.lreq.later.set 0x80 x } }))) ∧
      ((s.world w).lreq.busy = false → exec (.registerWrite w 0x40080 v) s = .next (s.onWorld w (fun W => { W with lreq :=
        { W.lreq.seen with acc := bitAt x 4, base := nfld x 12 36, tcid := nfld x 48 8, busy := bitAt x 0, result := if bitAt x 0 then 1 else W.lreq.seen.result } }))) ∧
      exec (.registerWrite w 0x60000 v) s = .next (s.onWorld w (fun W =>
        { W with trap := { W.trap with valid := bitAt x 0, code := nfld x 12 36 } })) ∧
      (∀ n, n < 16 → 10 ≤ nfld x 0 8 →
        let e := (s.world w).budget.pctl.getD n (0, false, 0)
        exec (.registerWrite w (0x3000 + 16 * n) v) s = .next (s.onWorld w (fun W =>
          { W with budget := { W.budget with pctl := W.budget.pctl.set n (e.1, bitAt x 8, e.2.2) } }))) ∧
      (w ≠ 0 → 0xC00000 ≤ off → exec (.registerWrite w off v) s = .next s) ∧
      (w = 0 →
        ((s.sliceCmd).busy = true → exec (.registerWrite w 0x1000300 v) s =
          .next { s with sliceCmd := { s.sliceCmd with later := [(0, x)] } }) ∧
        ((s.sliceCmd).busy = false → exec (.registerWrite w 0x1000300 v) s = .next { s with sliceCmd :=
          { op := nfld x 0 3, slice := nfld x 4 6, dest := nfld x 10 6, world := nfld x 16 7, minsl := nfld x 23 7, maxsl := nfld x 30 7
            busy := bitAt x 37 && decide (nfld x 0 3 < 6), result := if bitAt x 37 && decide (nfld x 0 3 < 6) then 1 else s.sliceCmd.result
            later := [] } }) ∧
        (∀ n, n ≤ 64 → s.lockedWorld n = true → exec (.registerWrite w (0x1003000 + 8 * n) v) s = .next s) ∧
        (100 ≤ nfld x 0 12 → nfld x 0 12 ≤ 2960 → exec (.registerWrite w 0x1810000 v) s =
          .next { s with ctl := { s.ctl with pkgcap := nfld x 0 12 } }) ∧
        (nfld x 0 12 < 100 ∨ 2960 < nfld x 0 12 → exec (.registerWrite w 0x1810000 v) s = .next s)))

/-! ### The machine as a whole -/

/-- 02 R27, R53, 20 R415, 25 R490: a step runs the word that its issue names: where the word lies in the code section and can be read, the
step is the meaning of what it decodes to, after the counters have advanced and the word's home has served it; a word that decodes to an
instruction, with nothing in its group against it, is that instruction. With no issue in progress a step is the next one of bring-up, then
the device step at the head of the agenda, or the start of the issue that stands there, in a cycle in which the core may issue.
The agenda, and the free schedule behind it, are the model's (notes/assumptions/2). -/
def Obligations.StepRunsDecoded : Prop :=
  ∀ (s : State),
    (∀ u c, s.pass.cur = some u → s.pass.codeOf u.agent = some c → c.desc.inCode u.word = true → s.pass.fetchBad c u.word = none →
      let s1 := s.pass.fetched c u.word 4
      step s = exec (decodeAt (s.pass.decodeCtx u) (s.pass.codeWord c u.word)) s1 ∧
      (∀ i, decode (s.pass.decodeCtx u).profile (s.pass.codeWord c u.word) = .ok i → contextFaults (s.pass.decodeCtx u) i = [] →
        step s = exec i s1) ∧
      (∀ r, decode (s.pass.decodeCtx u).profile (s.pass.codeWord c u.word) = .error r →
        rowOf (s.pass.decodeCtx u).profile (s.pass.codeWord c u.word) = none → step s = exec (.illegalInstruction r) s1)) ∧
    (s.pass.cur = none →
      (s.pass.bringUp < 6 → step s = .next s.pass.bringUpStep) ∧
      (6 ≤ s.pass.bringUp → ∀ rest,
        (∀ i, s.pass.agenda = .event i :: rest → isTurn i = true → step s = exec i { s.pass with agenda := rest }) ∧
        (∀ f, s.pass.agenda = .issue (.step f) :: rest →
          (s.pass.troupeTurn f.troupe = true → step s = .next (({ s.pass with agenda := .settle f :: rest } : State).begin (.step f))) ∧
          (s.pass.troupeTurn f.troupe = false → step s = .next { s.pass with agenda := passOn rest })) ∧
        (∀ f, s.pass.agenda = .settle f :: rest → step s = .next (({ s.pass with agenda := rest } : State).settleFigure f)) ∧
        (∀ t, s.pass.agenda = .issue (.cue t) :: rest → s.pass.troupeTurn t = true →
          step s = .next (({ s.pass with agenda := rest } : State).begin (.cue t))))) ∧
    s.pass.tick = s.tick + 1 ∧ s.pass.cur = s.cur ∧ s.pass.bringUp = s.bringUp ∧ s.pass.agenda = s.agenda ∧
    { s.pass with tick := s.tick, cycle := s.cycle, worlds := s.worlds } = s

/-- 20 R414, R415, 13 R293, R295, 10 R212, R214, R217, 22 R446: where a step instruction issues. In a started, running set with no trap, no
wait and no transaction, the figure's ready threads at the group's address issue it together, active where their guard holds, with a chunk
opened or counted; a set-convergent one needs every live thread; one that stands alone needs every chunk before it committed. No set of a
locked-down device, of a halted troupe or of an ended launch issues. -/
def Obligations.IssueConditions : Prop :=
  (∀ (s : State) (i : Instr) (f : Figure) (u : Issue) (T : Troupe) (S : SetState),
    s.cur = some u → u.agent = .step f → s.troupes.get? f.troupe = some T → s.setAt? f.troupe f.set = some S →
    T.started = true → T.halted = false → (s.launchOf T).ending = false → s.lockedDown = false →
    S.trapReady = none → S.waiting = none → S.traps = [] → S.handler = none → S.inTx = false →
    f.here u S ≠ 0 → (convergentIn i false = true → f.here u S = S.live) → owing i S (f.here u S) = [] →
    popsOf i = [] → pushOf i = none →
    let ctx (S1 : SetState) : Ctx :=
      { t := f.troupe, k := f.set, T := T, S := S1, mask := f.here u S, act := activeOf i u S (f.here u S), issue := u,
        now := s.cycle.toNat, named := if T.place.isUnit || activeOf i u S (f.here u S) == 0 then [] else namedRegs i }
    (T.place.isUnit = true → S.chunks = [] → Issues s i (ctx S)) ∧
    (T.place.isUnit = false → (∀ o, i ≠ .txBeg o) →
      (isAlone i false (isSystem u.hints) = false →
        (S.chunk = none → (∀ c, S.closing = some c → c.trap = none) →
          Issues s i (ctx ((S.openChunk u.group u.group).onChunk (fun c => { c with count := 1 })))) ∧
        (∀ c, S.chunk = some c → S.closing = none → c.phase = .running → c.trap = none → c.count < S.limit →
          Issues s i (ctx (S.onChunk (fun c => { c with count := c.count + 1 }))))) ∧
      (isAlone i false (isSystem u.hints) = true → S.chunk = none → S.closing = none → activeOf i u S (f.here u S) ≠ 0 →
        Issues s i (ctx S)))) ∧
  (∀ (s : State) (i : Instr) (c : Ctx), Issues s i c →
    s.lockedDown = false ∧ c.T.halted = false ∧ c.T.started = true ∧ (s.launchOf c.T).ending = false ∧
    (convergentIn i c.S.handler.isSome = true → c.mask = c.S.live))

/-- 02 R27-R34, Tables 2-1, 2-3, 2-7 and 2-9, and the words that the spec's own listings give: each decodes to the instruction that it stands for. -/
def Obligations.DecodeWords : Prop :=
  decode .core 0x02201041 = .ok (.add 8 2 4 0 1) ∧
  decode .core 0x0C181033 = .ok (.div 6 2 3 1 1) ∧
  decode .core 0x26141841 = .ok (.bfx 5 3 4 0 1) ∧
  decode .core 0x34141FE0 = .ok (.addi 5 3 0x1FC 0 ) ∧
  decode .core 0x42141844 = .ok (.sel 5 3 4 2) ∧
  decode .core 0x86100009 = .ok (.sysr 4 9) ∧
  decode .core 0x88181800 = .ok (.ballot 6 3 0) ∧
  decode .core 0x9A100000 = .ok (.elect 1 0 0) ∧
  decode .core 0xF6100202 = .ok (.sysw 4 0x202) ∧
  decode .core 0xC4002003 = .ok (.feClr 4 0 3) ∧
  decode .cue 0x74150202 = .ok (.cueSysw 21 0x202) ∧
  decode .cue 0x56001418 = .ok (.tcpyIn 20 24) ∧
  decode .cue 0x30101003 = .ok (.saddi 16 16 3) ∧
  decode .core 0x00000000 = .error 0x00 ∧
  decode .prologue 0x56001418 = .error 0x05

/-- 02 R27-R34, R51-R53: decoding and encoding agree. A well-formed instruction of a front end's map that its profile admits is read back
from its word with every operand at every value that the encoding admits; and a word that decodes is the word of the well-formed instruction
that it decodes to. -/
def Obligations.DecodeEncode : Prop :=
  (∀ (p : Profile) (i : Instr), i.wf = true → i.side ≠ .event → (i.side = .step → p = .core ∨ p = .nearBank) →
    (i.side = .cue → p = .cue ∨ p = .prologue) → profileFaults p (encode i) = [] → decode p (encode i) = .ok i) ∧
  (∀ (p : Profile) (w : Word) (i : Instr), decode p w = .ok i → i.wf = true ∧ encode i = w ∧ i.side ≠ .event)

/-- Memory keeps its canonical form: from every state whose memory has it, a step that gives a next state gives one whose memory has it. -/
def Obligations.StepKeepsForm : Prop := ∀ s t : State, s.mem.wf = true → step s = .next t → t.mem.wf = true

/-- 25 R490, Table 24-1, 04 R74, 06 R142: the machine right after cold reset. Nothing has been brought up and nothing runs; memory lists
nothing and has the canonical form; worlds 1 to 64 are unbound and management's interface reads RUN; slices are unassigned, with every frame
pending zero; the links are down.
The fields bringUp, cur and agenda are the model's own (notes/assumptions/2), and that an unlisted byte outside the device reads 0 is notes/assumptions/3. -/
def Obligations.ResetState : Prop :=
  let r := State.reset
  r.mem = [] ∧ r.mem.wf = true ∧ (∀ a, r.mem.read a = 0) ∧ r.bringUp = 0 ∧ r.cur = none ∧ r.agenda = [] ∧ r.lockedDown = false ∧
  r.ctl.ready = false ∧ r.cycle = 0 ∧ r.troupes = [] ∧ r.launches = [] ∧ r.slots = [] ∧ r.tstate 0 = 3 ∧ (∀ w, w ≠ 0 → r.tstate w = 0) ∧
  (∀ k, (r.slice k).state = 0 ∧ (r.slice k).owner = 0 ∧ ∀ f, ((r.slice k).frame f).pz = true ∧ ((r.slice k).frame f).ownersel = 0) ∧
  (∀ p, (r.port p).up = false)
end

