-- ==== Sys2Proof/Laws/Context.lean ====
section
/-! SUPPORT. The bytes of a saved context (22 R461, R462). -/

namespace Sys2Proof.Machine

theorem length_headerOf (s : State) (l : Nat) (L : Launch) (c : SavedCompany) : (s.headerOf l L c).length = 24 := by
  simp [State.headerOf, leBytes]

theorem length_sectionsOf (s : State) (l : Nat) (L : Launch) (c : SavedCompany) (i : Nat) : (s.sectionsOf l L c i).length = 4096 := by
  unfold State.sectionsOf
  split <;> simp [length_headerOf]

/-- What a save writes carries its tags, whatever stands behind the device sections. -/
theorem carriesTags_self (s : State) (l : Nat) (L : Launch) (c : SavedCompany) (bs : List Byte) (h : L.desc.troupes = 1) :
    s.carriesTags l L c (s.sectionsOf l L c 0 ++ bs) = true := by
  simp [State.carriesTags, h, List.range_succ, length_sectionsOf]

end Sys2Proof.Machine
end

