-- ==== Sys2Proof/Laws/Tab.lean ====
section
/-! SUPPORT. Tables and lists: reading after an update. -/

namespace Sys2Proof

@[simp] theorem Tab.get?_nil {α : Type} (n : Nat) : Tab.get? ([] : Tab α) n = none := rfl

theorem Tab.get?_cons {α : Type} (k : Nat) (v : α) (t : Tab α) (n : Nat) :
    Tab.get? ((k, v) :: t) n = if k = n then some v else Tab.get? t n := rfl

@[simp] theorem Tab.get?_set_self {α : Type} (t : Tab α) (n : Nat) (x : α) : Tab.get? (Tab.set t n x) n = some x := by
  induction t with
  | nil => simp [Tab.set, Tab.get?]
  | cons e t ih =>
    obtain ⟨k, v⟩ := e
    simp only [Tab.set]
    split
    · simp [Tab.get?]
    · split
      · simp [Tab.get?]
      · simp [Tab.get?, ih]; omega

theorem Tab.get?_set_ne {α : Type} (t : Tab α) {n m : Nat} (x : α) (h : m ≠ n) :
    Tab.get? (Tab.set t n x) m = Tab.get? t m := by
  induction t with
  | nil => simp [Tab.set, Tab.get?]; omega
  | cons e t ih =>
    obtain ⟨k, v⟩ := e
    simp only [Tab.set]
    split
    · simp only [Tab.get?]; rw [if_neg (Ne.symm h)]
    · split
      · subst n; simp only [Tab.get?]; rw [if_neg (Ne.symm h), if_neg (Ne.symm h)]
      · simp only [Tab.get?, ih]

theorem Tab.get?_set {α : Type} (t : Tab α) (n m : Nat) (x : α) :
    Tab.get? (Tab.set t n x) m = if m = n then some x else Tab.get? t m := by
  split
  · subst m; simp
  · exact Tab.get?_set_ne t x ‹_›

theorem Tab.getD_set {α : Type} (t : Tab α) (n m : Nat) (x d : α) :
    Tab.getD (Tab.set t n x) m d = if m = n then x else Tab.getD t m d := by
  simp only [Tab.getD, Tab.get?_set]; split <;> simp

@[simp] theorem Tab.getD_set_self {α : Type} (t : Tab α) (n : Nat) (x d : α) : Tab.getD (Tab.set t n x) n d = x := by
  simp [Tab.getD]

theorem Tab.getD_set_ne {α : Type} (t : Tab α) {n m : Nat} (x d : α) (h : m ≠ n) :
    Tab.getD (Tab.set t n x) m d = Tab.getD t m d := by simp [Tab.getD, Tab.get?_set_ne t x h]

theorem Tab.get?_adjust {α : Type} (t : Tab α) (n m : Nat) (f : α → α) :
    Tab.get? (Tab.adjust t n f) m = if m = n then (Tab.get? t m).map f else Tab.get? t m := by
  induction t with
  | nil => simp [Tab.adjust]
  | cons e t ih =>
    obtain ⟨k, v⟩ := e
    have ih' : Tab.get? (List.map (fun e => if e.1 = n then (e.1, f e.2) else e) t) m =
        if m = n then (Tab.get? t m).map f else Tab.get? t m := ih
    by_cases h1 : k = n <;> by_cases h2 : k = m <;> by_cases h3 : m = n <;>
      simp_all [Tab.adjust, Tab.get?]

@[simp] theorem Tab.get?_adjust_self {α : Type} (t : Tab α) (n : Nat) (f : α → α) :
    Tab.get? (Tab.adjust t n f) n = (Tab.get? t n).map f := by simp [Tab.get?_adjust]

theorem Tab.get?_adjust_ne {α : Type} (t : Tab α) {n m : Nat} (f : α → α) (h : m ≠ n) :
    Tab.get? (Tab.adjust t n f) m = Tab.get? t m := by simp [Tab.get?_adjust, h]

theorem Tab.get?_map {α β : Type} (t : Tab α) (f : α → β) (n : Nat) :
    Tab.get? (t.map (fun e => (e.1, f e.2))) n = (Tab.get? t n).map f := by
  induction t with
  | nil => rfl
  | cons e t ih =>
    obtain ⟨k, v⟩ := e
    simp only [List.map_cons, Tab.get?_cons, ih]
    split <;> rfl

theorem Tab.get?_del {α : Type} (t : Tab α) (n m : Nat) :
    Tab.get? (Tab.del t n) m = if m = n then none else Tab.get? t m := by
  induction t with
  | nil => simp [Tab.del]
  | cons e t ih =>
    obtain ⟨k, v⟩ := e
    have ih' : Tab.get? (List.filter (fun e => e.1 != n) t) m = if m = n then none else Tab.get? t m := ih
    by_cases h1 : k = n <;> by_cases h2 : k = m <;> by_cases h3 : m = n <;>
      simp_all [Tab.del, Tab.get?]

/-- Writing the entries of a table into another: keys of the table get a value, others keep theirs. -/
theorem Tab.getD_foldl_set_ne {α : Type} (es : List (Nat × α)) (t : Tab α) (r : Nat) (d : α)
    (h : Tab.get? es r = none) : Tab.getD (es.foldl (fun v e => Tab.set v e.1 e.2) t) r d = Tab.getD t r d := by
  induction es generalizing t with
  | nil => rfl
  | cons e es ih =>
    obtain ⟨k, v⟩ := e
    simp only [Tab.get?] at h
    split at h
    · cases h
    · rw [List.foldl_cons, ih _ h, Tab.getD_set_ne]; omega

theorem modAt_length {α : Type} (l : List α) (n : Nat) (f : α → α) : (modAt l n f).length = l.length := by
  induction l generalizing n with
  | nil => rfl
  | cons h t ih => cases n <;> simp [modAt, ih]

theorem modAt_getD_self {α : Type} (l : List α) (n : Nat) (f : α → α) (d : α) (h : n < l.length) :
    (modAt l n f).getD n d = f (l.getD n d) := by
  induction l generalizing n with
  | nil => simp at h
  | cons x t ih =>
    cases n with
    | zero => simp [modAt]
    | succ n => simpa [modAt] using ih n (by simpa using h)

theorem modAt_getD_ne {α : Type} (l : List α) (n m : Nat) (f : α → α) (d : α) (h : m ≠ n) :
    (modAt l n f).getD m d = l.getD m d := by
  induction l generalizing n m with
  | nil => rfl
  | cons x t ih =>
    cases n with
    | zero => cases m with
      | zero => exact absurd rfl h
      | succ m => simp [modAt]
    | succ n => cases m with
      | zero => simp [modAt]
      | succ m => simpa [modAt] using ih n m (by omega)

theorem modAt_of_ge {α : Type} (l : List α) (n : Nat) (f : α → α) (h : l.length ≤ n) : modAt l n f = l := by
  induction l generalizing n with
  | nil => rfl
  | cons x t ih =>
    cases n with
    | zero => simp at h
    | succ n => rw [modAt, ih n (by simpa using h)]

/-! ### Masks -/

theorem inMask_or_bit (m : Word) (i j : Nat) (hi : i < 32) :
    inMask (m ||| maskBit i) j = (inMask m j || decide (i = j)) := by
  simp only [inMask, maskBit, BitVec.getLsbD_or, BitVec.getLsbD_ofNat, Nat.testBit_two_pow]
  by_cases h : i = j
  · subst h; simp [hi]
  · simp [h]

theorem inMask_foldl (f : Nat → Bool) (l : List Nat) (m : Word) (j : Nat) (h : ∀ i ∈ l, i < 32) :
    inMask (l.foldl (fun m i => if f i then m ||| maskBit i else m) m) j =
      (inMask m j || l.any (fun i => f i && decide (i = j))) := by
  induction l generalizing m with
  | nil => simp
  | cons i l ih =>
    rw [List.foldl_cons, ih _ (fun k hk => h k (List.mem_cons_of_mem _ hk))]
    have hi := h i List.mem_cons_self
    by_cases hf : f i = true
    · simp [hf, inMask_or_bit _ _ _ hi, Bool.or_assoc]
    · simp [Bool.eq_false_iff.mpr hf]

/-- Membership in a mask that a test builds. -/
@[simp] theorem inMask_maskOf (f : Nat → Bool) (j : Nat) : inMask (maskOf f) j = (decide (j < 32) && f j) := by
  have h := inMask_foldl f (List.range 32) 0#32 j (fun i hi => List.mem_range.mp hi)
  rw [maskOf, h]
  have h0 : inMask 0#32 j = false := by simp [inMask]
  rw [h0, Bool.false_or, Bool.eq_iff_iff]
  simp only [List.any_eq_true, List.mem_range, Bool.and_eq_true, decide_eq_true_eq]
  constructor
  · rintro ⟨i, hi, hf, rfl⟩; exact ⟨hi, hf⟩
  · rintro ⟨hj, hf⟩; exact ⟨j, hj, hf, rfl⟩

theorem inMask_lt {m : Word} {j : Nat} (h : inMask m j = true) : j < 32 := by
  by_cases hj : j < 32
  · exact hj
  · simp [inMask, BitVec.getLsbD_of_ge m j (by omega)] at h

theorem mem_lanesOf {m : Word} {j : Nat} : j ∈ lanesOf m ↔ inMask m j = true := by
  simp only [lanesOf, List.mem_filter, List.mem_range]
  exact ⟨fun h => h.2, fun h => ⟨inMask_lt h, h⟩⟩

end Sys2Proof
end

