-- ==== Sys2Proof/Laws/State.lean ====
section
/-! SUPPORT. What each update of the state leaves alone, one lemma per field, and what it changes. -/

namespace Sys2Proof.Machine

variable (s : State)


/-! ### onSlice -/

@[simp] theorem State.onSlice_cycle (k : Nat) (f : Slice → Slice) : (s.onSlice k f).cycle = s.cycle := rfl
@[simp] theorem State.onSlice_tick (k : Nat) (f : Slice → Slice) : (s.onSlice k f).tick = s.tick := rfl
@[simp] theorem State.onSlice_bringUp (k : Nat) (f : Slice → Slice) : (s.onSlice k f).bringUp = s.bringUp := rfl
@[simp] theorem State.onSlice_lockedDown (k : Nat) (f : Slice → Slice) : (s.onSlice k f).lockedDown = s.lockedDown := rfl
@[simp] theorem State.onSlice_agenda (k : Nat) (f : Slice → Slice) : (s.onSlice k f).agenda = s.agenda := rfl
@[simp] theorem State.onSlice_cur (k : Nat) (f : Slice → Slice) : (s.onSlice k f).cur = s.cur := rfl
@[simp] theorem State.onSlice_mem (k : Nat) (f : Slice → Slice) : (s.onSlice k f).mem = s.mem := rfl
@[simp] theorem State.onSlice_gran (k : Nat) (f : Slice → Slice) : (s.onSlice k f).gran = s.gran := rfl
@[simp] theorem State.onSlice_copies (k : Nat) (f : Slice → Slice) : (s.onSlice k f).copies = s.copies := rfl
@[simp] theorem State.onSlice_lines (k : Nat) (f : Slice → Slice) : (s.onSlice k f).lines = s.lines := rfl
@[simp] theorem State.onSlice_drains (k : Nat) (f : Slice → Slice) : (s.onSlice k f).drains = s.drains := rfl
@[simp] theorem State.onSlice_grants (k : Nat) (f : Slice → Slice) : (s.onSlice k f).grants = s.grants := rfl
@[simp] theorem State.onSlice_requests (k : Nat) (f : Slice → Slice) : (s.onSlice k f).requests = s.requests := rfl
@[simp] theorem State.onSlice_hostHeld (k : Nat) (f : Slice → Slice) : (s.onSlice k f).hostHeld = s.hostHeld := rfl
@[simp] theorem State.onSlice_unverified (k : Nat) (f : Slice → Slice) : (s.onSlice k f).unverified = s.unverified := rfl
@[simp] theorem State.onSlice_interrupts (k : Nat) (f : Slice → Slice) : (s.onSlice k f).interrupts = s.interrupts := rfl
@[simp] theorem State.onSlice_answers (k : Nat) (f : Slice → Slice) : (s.onSlice k f).answers = s.answers := rfl
@[simp] theorem State.onSlice_cores (k : Nat) (f : Slice → Slice) : (s.onSlice k f).cores = s.cores := rfl
@[simp] theorem State.onSlice_clusters (k : Nat) (f : Slice → Slice) : (s.onSlice k f).clusters = s.clusters := rfl
@[simp] theorem State.onSlice_worlds (k : Nat) (f : Slice → Slice) : (s.onSlice k f).worlds = s.worlds := rfl
@[simp] theorem State.onSlice_slots (k : Nat) (f : Slice → Slice) : (s.onSlice k f).slots = s.slots := rfl
@[simp] theorem State.onSlice_launches (k : Nat) (f : Slice → Slice) : (s.onSlice k f).launches = s.launches := rfl
@[simp] theorem State.onSlice_troupes (k : Nat) (f : Slice → Slice) : (s.onSlice k f).troupes = s.troupes := rfl
@[simp] theorem State.onSlice_nextId (k : Nat) (f : Slice → Slice) : (s.onSlice k f).nextId = s.nextId := rfl
@[simp] theorem State.onSlice_ports (k : Nat) (f : Slice → Slice) : (s.onSlice k f).ports = s.ports := rfl
@[simp] theorem State.onSlice_groups (k : Nat) (f : Slice → Slice) : (s.onSlice k f).groups = s.groups := rfl
@[simp] theorem State.onSlice_sliceCmd (k : Nat) (f : Slice → Slice) : (s.onSlice k f).sliceCmd = s.sliceCmd := rfl
@[simp] theorem State.onSlice_ctl (k : Nat) (f : Slice → Slice) : (s.onSlice k f).ctl = s.ctl := rfl
@[simp] theorem State.onSlice_s2f (k : Nat) (f : Slice → Slice) : (s.onSlice k f).s2f = s.s2f := rfl
@[simp] theorem State.onSlice_s2fNext (k : Nat) (f : Slice → Slice) : (s.onSlice k f).s2fNext = s.s2fNext := rfl
@[simp] theorem State.onSlice_mgmtPreempt (k : Nat) (f : Slice → Slice) : (s.onSlice k f).mgmtPreempt = s.mgmtPreempt := rfl
@[simp] theorem State.onSlice_frozen (k : Nat) (f : Slice → Slice) : (s.onSlice k f).frozen = s.frozen := rfl
@[simp] theorem State.onSlice_activation (k : Nat) (f : Slice → Slice) : (s.onSlice k f).activation = s.activation := rfl
@[simp] theorem State.onSlice_image (k : Nat) (f : Slice → Slice) : (s.onSlice k f).image = s.image := rfl

/-! ### onCore -/

@[simp] theorem State.onCore_cycle (c : Nat) (f : Core → Core) : (s.onCore c f).cycle = s.cycle := rfl
@[simp] theorem State.onCore_tick (c : Nat) (f : Core → Core) : (s.onCore c f).tick = s.tick := rfl
@[simp] theorem State.onCore_bringUp (c : Nat) (f : Core → Core) : (s.onCore c f).bringUp = s.bringUp := rfl
@[simp] theorem State.onCore_lockedDown (c : Nat) (f : Core → Core) : (s.onCore c f).lockedDown = s.lockedDown := rfl
@[simp] theorem State.onCore_agenda (c : Nat) (f : Core → Core) : (s.onCore c f).agenda = s.agenda := rfl
@[simp] theorem State.onCore_cur (c : Nat) (f : Core → Core) : (s.onCore c f).cur = s.cur := rfl
@[simp] theorem State.onCore_mem (c : Nat) (f : Core → Core) : (s.onCore c f).mem = s.mem := rfl
@[simp] theorem State.onCore_gran (c : Nat) (f : Core → Core) : (s.onCore c f).gran = s.gran := rfl
@[simp] theorem State.onCore_copies (c : Nat) (f : Core → Core) : (s.onCore c f).copies = s.copies := rfl
@[simp] theorem State.onCore_lines (c : Nat) (f : Core → Core) : (s.onCore c f).lines = s.lines := rfl
@[simp] theorem State.onCore_drains (c : Nat) (f : Core → Core) : (s.onCore c f).drains = s.drains := rfl
@[simp] theorem State.onCore_grants (c : Nat) (f : Core → Core) : (s.onCore c f).grants = s.grants := rfl
@[simp] theorem State.onCore_requests (c : Nat) (f : Core → Core) : (s.onCore c f).requests = s.requests := rfl
@[simp] theorem State.onCore_hostHeld (c : Nat) (f : Core → Core) : (s.onCore c f).hostHeld = s.hostHeld := rfl
@[simp] theorem State.onCore_unverified (c : Nat) (f : Core → Core) : (s.onCore c f).unverified = s.unverified := rfl
@[simp] theorem State.onCore_interrupts (c : Nat) (f : Core → Core) : (s.onCore c f).interrupts = s.interrupts := rfl
@[simp] theorem State.onCore_answers (c : Nat) (f : Core → Core) : (s.onCore c f).answers = s.answers := rfl
@[simp] theorem State.onCore_slices (c : Nat) (f : Core → Core) : (s.onCore c f).slices = s.slices := rfl
@[simp] theorem State.onCore_clusters (c : Nat) (f : Core → Core) : (s.onCore c f).clusters = s.clusters := rfl
@[simp] theorem State.onCore_worlds (c : Nat) (f : Core → Core) : (s.onCore c f).worlds = s.worlds := rfl
@[simp] theorem State.onCore_slots (c : Nat) (f : Core → Core) : (s.onCore c f).slots = s.slots := rfl
@[simp] theorem State.onCore_launches (c : Nat) (f : Core → Core) : (s.onCore c f).launches = s.launches := rfl
@[simp] theorem State.onCore_troupes (c : Nat) (f : Core → Core) : (s.onCore c f).troupes = s.troupes := rfl
@[simp] theorem State.onCore_nextId (c : Nat) (f : Core → Core) : (s.onCore c f).nextId = s.nextId := rfl
@[simp] theorem State.onCore_ports (c : Nat) (f : Core → Core) : (s.onCore c f).ports = s.ports := rfl
@[simp] theorem State.onCore_groups (c : Nat) (f : Core → Core) : (s.onCore c f).groups = s.groups := rfl
@[simp] theorem State.onCore_sliceCmd (c : Nat) (f : Core → Core) : (s.onCore c f).sliceCmd = s.sliceCmd := rfl
@[simp] theorem State.onCore_ctl (c : Nat) (f : Core → Core) : (s.onCore c f).ctl = s.ctl := rfl
@[simp] theorem State.onCore_s2f (c : Nat) (f : Core → Core) : (s.onCore c f).s2f = s.s2f := rfl
@[simp] theorem State.onCore_s2fNext (c : Nat) (f : Core → Core) : (s.onCore c f).s2fNext = s.s2fNext := rfl
@[simp] theorem State.onCore_mgmtPreempt (c : Nat) (f : Core → Core) : (s.onCore c f).mgmtPreempt = s.mgmtPreempt := rfl
@[simp] theorem State.onCore_frozen (c : Nat) (f : Core → Core) : (s.onCore c f).frozen = s.frozen := rfl
@[simp] theorem State.onCore_activation (c : Nat) (f : Core → Core) : (s.onCore c f).activation = s.activation := rfl
@[simp] theorem State.onCore_image (c : Nat) (f : Core → Core) : (s.onCore c f).image = s.image := rfl

/-! ### onCluster -/

@[simp] theorem State.onCluster_cycle (c : Nat) (f : Cluster → Cluster) : (s.onCluster c f).cycle = s.cycle := rfl
@[simp] theorem State.onCluster_tick (c : Nat) (f : Cluster → Cluster) : (s.onCluster c f).tick = s.tick := rfl
@[simp] theorem State.onCluster_bringUp (c : Nat) (f : Cluster → Cluster) : (s.onCluster c f).bringUp = s.bringUp := rfl
@[simp] theorem State.onCluster_lockedDown (c : Nat) (f : Cluster → Cluster) : (s.onCluster c f).lockedDown = s.lockedDown := rfl
@[simp] theorem State.onCluster_agenda (c : Nat) (f : Cluster → Cluster) : (s.onCluster c f).agenda = s.agenda := rfl
@[simp] theorem State.onCluster_cur (c : Nat) (f : Cluster → Cluster) : (s.onCluster c f).cur = s.cur := rfl
@[simp] theorem State.onCluster_mem (c : Nat) (f : Cluster → Cluster) : (s.onCluster c f).mem = s.mem := rfl
@[simp] theorem State.onCluster_gran (c : Nat) (f : Cluster → Cluster) : (s.onCluster c f).gran = s.gran := rfl
@[simp] theorem State.onCluster_copies (c : Nat) (f : Cluster → Cluster) : (s.onCluster c f).copies = s.copies := rfl
@[simp] theorem State.onCluster_lines (c : Nat) (f : Cluster → Cluster) : (s.onCluster c f).lines = s.lines := rfl
@[simp] theorem State.onCluster_drains (c : Nat) (f : Cluster → Cluster) : (s.onCluster c f).drains = s.drains := rfl
@[simp] theorem State.onCluster_grants (c : Nat) (f : Cluster → Cluster) : (s.onCluster c f).grants = s.grants := rfl
@[simp] theorem State.onCluster_requests (c : Nat) (f : Cluster → Cluster) : (s.onCluster c f).requests = s.requests := rfl
@[simp] theorem State.onCluster_hostHeld (c : Nat) (f : Cluster → Cluster) : (s.onCluster c f).hostHeld = s.hostHeld := rfl
@[simp] theorem State.onCluster_unverified (c : Nat) (f : Cluster → Cluster) : (s.onCluster c f).unverified = s.unverified := rfl
@[simp] theorem State.onCluster_interrupts (c : Nat) (f : Cluster → Cluster) : (s.onCluster c f).interrupts = s.interrupts := rfl
@[simp] theorem State.onCluster_answers (c : Nat) (f : Cluster → Cluster) : (s.onCluster c f).answers = s.answers := rfl
@[simp] theorem State.onCluster_slices (c : Nat) (f : Cluster → Cluster) : (s.onCluster c f).slices = s.slices := rfl
@[simp] theorem State.onCluster_cores (c : Nat) (f : Cluster → Cluster) : (s.onCluster c f).cores = s.cores := rfl
@[simp] theorem State.onCluster_worlds (c : Nat) (f : Cluster → Cluster) : (s.onCluster c f).worlds = s.worlds := rfl
@[simp] theorem State.onCluster_slots (c : Nat) (f : Cluster → Cluster) : (s.onCluster c f).slots = s.slots := rfl
@[simp] theorem State.onCluster_launches (c : Nat) (f : Cluster → Cluster) : (s.onCluster c f).launches = s.launches := rfl
@[simp] theorem State.onCluster_troupes (c : Nat) (f : Cluster → Cluster) : (s.onCluster c f).troupes = s.troupes := rfl
@[simp] theorem State.onCluster_nextId (c : Nat) (f : Cluster → Cluster) : (s.onCluster c f).nextId = s.nextId := rfl
@[simp] theorem State.onCluster_ports (c : Nat) (f : Cluster → Cluster) : (s.onCluster c f).ports = s.ports := rfl
@[simp] theorem State.onCluster_groups (c : Nat) (f : Cluster → Cluster) : (s.onCluster c f).groups = s.groups := rfl
@[simp] theorem State.onCluster_sliceCmd (c : Nat) (f : Cluster → Cluster) : (s.onCluster c f).sliceCmd = s.sliceCmd := rfl
@[simp] theorem State.onCluster_ctl (c : Nat) (f : Cluster → Cluster) : (s.onCluster c f).ctl = s.ctl := rfl
@[simp] theorem State.onCluster_s2f (c : Nat) (f : Cluster → Cluster) : (s.onCluster c f).s2f = s.s2f := rfl
@[simp] theorem State.onCluster_s2fNext (c : Nat) (f : Cluster → Cluster) : (s.onCluster c f).s2fNext = s.s2fNext := rfl
@[simp] theorem State.onCluster_mgmtPreempt (c : Nat) (f : Cluster → Cluster) : (s.onCluster c f).mgmtPreempt = s.mgmtPreempt := rfl
@[simp] theorem State.onCluster_frozen (c : Nat) (f : Cluster → Cluster) : (s.onCluster c f).frozen = s.frozen := rfl
@[simp] theorem State.onCluster_activation (c : Nat) (f : Cluster → Cluster) : (s.onCluster c f).activation = s.activation := rfl
@[simp] theorem State.onCluster_image (c : Nat) (f : Cluster → Cluster) : (s.onCluster c f).image = s.image := rfl

/-! ### onWorld -/

@[simp] theorem State.onWorld_cycle (w : Nat) (f : World → World) : (s.onWorld w f).cycle = s.cycle := rfl
@[simp] theorem State.onWorld_tick (w : Nat) (f : World → World) : (s.onWorld w f).tick = s.tick := rfl
@[simp] theorem State.onWorld_bringUp (w : Nat) (f : World → World) : (s.onWorld w f).bringUp = s.bringUp := rfl
@[simp] theorem State.onWorld_lockedDown (w : Nat) (f : World → World) : (s.onWorld w f).lockedDown = s.lockedDown := rfl
@[simp] theorem State.onWorld_agenda (w : Nat) (f : World → World) : (s.onWorld w f).agenda = s.agenda := rfl
@[simp] theorem State.onWorld_cur (w : Nat) (f : World → World) : (s.onWorld w f).cur = s.cur := rfl
@[simp] theorem State.onWorld_mem (w : Nat) (f : World → World) : (s.onWorld w f).mem = s.mem := rfl
@[simp] theorem State.onWorld_gran (w : Nat) (f : World → World) : (s.onWorld w f).gran = s.gran := rfl
@[simp] theorem State.onWorld_copies (w : Nat) (f : World → World) : (s.onWorld w f).copies = s.copies := rfl
@[simp] theorem State.onWorld_lines (w : Nat) (f : World → World) : (s.onWorld w f).lines = s.lines := rfl
@[simp] theorem State.onWorld_drains (w : Nat) (f : World → World) : (s.onWorld w f).drains = s.drains := rfl
@[simp] theorem State.onWorld_grants (w : Nat) (f : World → World) : (s.onWorld w f).grants = s.grants := rfl
@[simp] theorem State.onWorld_requests (w : Nat) (f : World → World) : (s.onWorld w f).requests = s.requests := rfl
@[simp] theorem State.onWorld_hostHeld (w : Nat) (f : World → World) : (s.onWorld w f).hostHeld = s.hostHeld := rfl
@[simp] theorem State.onWorld_unverified (w : Nat) (f : World → World) : (s.onWorld w f).unverified = s.unverified := rfl
@[simp] theorem State.onWorld_interrupts (w : Nat) (f : World → World) : (s.onWorld w f).interrupts = s.interrupts := rfl
@[simp] theorem State.onWorld_answers (w : Nat) (f : World → World) : (s.onWorld w f).answers = s.answers := rfl
@[simp] theorem State.onWorld_slices (w : Nat) (f : World → World) : (s.onWorld w f).slices = s.slices := rfl
@[simp] theorem State.onWorld_cores (w : Nat) (f : World → World) : (s.onWorld w f).cores = s.cores := rfl
@[simp] theorem State.onWorld_clusters (w : Nat) (f : World → World) : (s.onWorld w f).clusters = s.clusters := rfl
@[simp] theorem State.onWorld_slots (w : Nat) (f : World → World) : (s.onWorld w f).slots = s.slots := rfl
@[simp] theorem State.onWorld_launches (w : Nat) (f : World → World) : (s.onWorld w f).launches = s.launches := rfl
@[simp] theorem State.onWorld_troupes (w : Nat) (f : World → World) : (s.onWorld w f).troupes = s.troupes := rfl
@[simp] theorem State.onWorld_nextId (w : Nat) (f : World → World) : (s.onWorld w f).nextId = s.nextId := rfl
@[simp] theorem State.onWorld_ports (w : Nat) (f : World → World) : (s.onWorld w f).ports = s.ports := rfl
@[simp] theorem State.onWorld_groups (w : Nat) (f : World → World) : (s.onWorld w f).groups = s.groups := rfl
@[simp] theorem State.onWorld_sliceCmd (w : Nat) (f : World → World) : (s.onWorld w f).sliceCmd = s.sliceCmd := rfl
@[simp] theorem State.onWorld_ctl (w : Nat) (f : World → World) : (s.onWorld w f).ctl = s.ctl := rfl
@[simp] theorem State.onWorld_s2f (w : Nat) (f : World → World) : (s.onWorld w f).s2f = s.s2f := rfl
@[simp] theorem State.onWorld_s2fNext (w : Nat) (f : World → World) : (s.onWorld w f).s2fNext = s.s2fNext := rfl
@[simp] theorem State.onWorld_mgmtPreempt (w : Nat) (f : World → World) : (s.onWorld w f).mgmtPreempt = s.mgmtPreempt := rfl
@[simp] theorem State.onWorld_frozen (w : Nat) (f : World → World) : (s.onWorld w f).frozen = s.frozen := rfl
@[simp] theorem State.onWorld_activation (w : Nat) (f : World → World) : (s.onWorld w f).activation = s.activation := rfl
@[simp] theorem State.onWorld_image (w : Nat) (f : World → World) : (s.onWorld w f).image = s.image := rfl

/-! ### onSlot -/

@[simp] theorem State.onSlot_cycle (i : Nat) (f : Slot → Slot) : (s.onSlot i f).cycle = s.cycle := rfl
@[simp] theorem State.onSlot_tick (i : Nat) (f : Slot → Slot) : (s.onSlot i f).tick = s.tick := rfl
@[simp] theorem State.onSlot_bringUp (i : Nat) (f : Slot → Slot) : (s.onSlot i f).bringUp = s.bringUp := rfl
@[simp] theorem State.onSlot_lockedDown (i : Nat) (f : Slot → Slot) : (s.onSlot i f).lockedDown = s.lockedDown := rfl
@[simp] theorem State.onSlot_agenda (i : Nat) (f : Slot → Slot) : (s.onSlot i f).agenda = s.agenda := rfl
@[simp] theorem State.onSlot_cur (i : Nat) (f : Slot → Slot) : (s.onSlot i f).cur = s.cur := rfl
@[simp] theorem State.onSlot_mem (i : Nat) (f : Slot → Slot) : (s.onSlot i f).mem = s.mem := rfl
@[simp] theorem State.onSlot_gran (i : Nat) (f : Slot → Slot) : (s.onSlot i f).gran = s.gran := rfl
@[simp] theorem State.onSlot_copies (i : Nat) (f : Slot → Slot) : (s.onSlot i f).copies = s.copies := rfl
@[simp] theorem State.onSlot_lines (i : Nat) (f : Slot → Slot) : (s.onSlot i f).lines = s.lines := rfl
@[simp] theorem State.onSlot_drains (i : Nat) (f : Slot → Slot) : (s.onSlot i f).drains = s.drains := rfl
@[simp] theorem State.onSlot_grants (i : Nat) (f : Slot → Slot) : (s.onSlot i f).grants = s.grants := rfl
@[simp] theorem State.onSlot_requests (i : Nat) (f : Slot → Slot) : (s.onSlot i f).requests = s.requests := rfl
@[simp] theorem State.onSlot_hostHeld (i : Nat) (f : Slot → Slot) : (s.onSlot i f).hostHeld = s.hostHeld := rfl
@[simp] theorem State.onSlot_unverified (i : Nat) (f : Slot → Slot) : (s.onSlot i f).unverified = s.unverified := rfl
@[simp] theorem State.onSlot_interrupts (i : Nat) (f : Slot → Slot) : (s.onSlot i f).interrupts = s.interrupts := rfl
@[simp] theorem State.onSlot_answers (i : Nat) (f : Slot → Slot) : (s.onSlot i f).answers = s.answers := rfl
@[simp] theorem State.onSlot_slices (i : Nat) (f : Slot → Slot) : (s.onSlot i f).slices = s.slices := rfl
@[simp] theorem State.onSlot_cores (i : Nat) (f : Slot → Slot) : (s.onSlot i f).cores = s.cores := rfl
@[simp] theorem State.onSlot_clusters (i : Nat) (f : Slot → Slot) : (s.onSlot i f).clusters = s.clusters := rfl
@[simp] theorem State.onSlot_worlds (i : Nat) (f : Slot → Slot) : (s.onSlot i f).worlds = s.worlds := rfl
@[simp] theorem State.onSlot_launches (i : Nat) (f : Slot → Slot) : (s.onSlot i f).launches = s.launches := rfl
@[simp] theorem State.onSlot_troupes (i : Nat) (f : Slot → Slot) : (s.onSlot i f).troupes = s.troupes := rfl
@[simp] theorem State.onSlot_nextId (i : Nat) (f : Slot → Slot) : (s.onSlot i f).nextId = s.nextId := rfl
@[simp] theorem State.onSlot_ports (i : Nat) (f : Slot → Slot) : (s.onSlot i f).ports = s.ports := rfl
@[simp] theorem State.onSlot_groups (i : Nat) (f : Slot → Slot) : (s.onSlot i f).groups = s.groups := rfl
@[simp] theorem State.onSlot_sliceCmd (i : Nat) (f : Slot → Slot) : (s.onSlot i f).sliceCmd = s.sliceCmd := rfl
@[simp] theorem State.onSlot_ctl (i : Nat) (f : Slot → Slot) : (s.onSlot i f).ctl = s.ctl := rfl
@[simp] theorem State.onSlot_s2f (i : Nat) (f : Slot → Slot) : (s.onSlot i f).s2f = s.s2f := rfl
@[simp] theorem State.onSlot_s2fNext (i : Nat) (f : Slot → Slot) : (s.onSlot i f).s2fNext = s.s2fNext := rfl
@[simp] theorem State.onSlot_mgmtPreempt (i : Nat) (f : Slot → Slot) : (s.onSlot i f).mgmtPreempt = s.mgmtPreempt := rfl
@[simp] theorem State.onSlot_frozen (i : Nat) (f : Slot → Slot) : (s.onSlot i f).frozen = s.frozen := rfl
@[simp] theorem State.onSlot_activation (i : Nat) (f : Slot → Slot) : (s.onSlot i f).activation = s.activation := rfl
@[simp] theorem State.onSlot_image (i : Nat) (f : Slot → Slot) : (s.onSlot i f).image = s.image := rfl

/-! ### onLaunch -/

@[simp] theorem State.onLaunch_cycle (l : Nat) (f : Launch → Launch) : (s.onLaunch l f).cycle = s.cycle := rfl
@[simp] theorem State.onLaunch_tick (l : Nat) (f : Launch → Launch) : (s.onLaunch l f).tick = s.tick := rfl
@[simp] theorem State.onLaunch_bringUp (l : Nat) (f : Launch → Launch) : (s.onLaunch l f).bringUp = s.bringUp := rfl
@[simp] theorem State.onLaunch_lockedDown (l : Nat) (f : Launch → Launch) : (s.onLaunch l f).lockedDown = s.lockedDown := rfl
@[simp] theorem State.onLaunch_agenda (l : Nat) (f : Launch → Launch) : (s.onLaunch l f).agenda = s.agenda := rfl
@[simp] theorem State.onLaunch_cur (l : Nat) (f : Launch → Launch) : (s.onLaunch l f).cur = s.cur := rfl
@[simp] theorem State.onLaunch_mem (l : Nat) (f : Launch → Launch) : (s.onLaunch l f).mem = s.mem := rfl
@[simp] theorem State.onLaunch_gran (l : Nat) (f : Launch → Launch) : (s.onLaunch l f).gran = s.gran := rfl
@[simp] theorem State.onLaunch_copies (l : Nat) (f : Launch → Launch) : (s.onLaunch l f).copies = s.copies := rfl
@[simp] theorem State.onLaunch_lines (l : Nat) (f : Launch → Launch) : (s.onLaunch l f).lines = s.lines := rfl
@[simp] theorem State.onLaunch_drains (l : Nat) (f : Launch → Launch) : (s.onLaunch l f).drains = s.drains := rfl
@[simp] theorem State.onLaunch_grants (l : Nat) (f : Launch → Launch) : (s.onLaunch l f).grants = s.grants := rfl
@[simp] theorem State.onLaunch_requests (l : Nat) (f : Launch → Launch) : (s.onLaunch l f).requests = s.requests := rfl
@[simp] theorem State.onLaunch_hostHeld (l : Nat) (f : Launch → Launch) : (s.onLaunch l f).hostHeld = s.hostHeld := rfl
@[simp] theorem State.onLaunch_unverified (l : Nat) (f : Launch → Launch) : (s.onLaunch l f).unverified = s.unverified := rfl
@[simp] theorem State.onLaunch_interrupts (l : Nat) (f : Launch → Launch) : (s.onLaunch l f).interrupts = s.interrupts := rfl
@[simp] theorem State.onLaunch_answers (l : Nat) (f : Launch → Launch) : (s.onLaunch l f).answers = s.answers := rfl
@[simp] theorem State.onLaunch_slices (l : Nat) (f : Launch → Launch) : (s.onLaunch l f).slices = s.slices := rfl
@[simp] theorem State.onLaunch_cores (l : Nat) (f : Launch → Launch) : (s.onLaunch l f).cores = s.cores := rfl
@[simp] theorem State.onLaunch_clusters (l : Nat) (f : Launch → Launch) : (s.onLaunch l f).clusters = s.clusters := rfl
@[simp] theorem State.onLaunch_worlds (l : Nat) (f : Launch → Launch) : (s.onLaunch l f).worlds = s.worlds := rfl
@[simp] theorem State.onLaunch_slots (l : Nat) (f : Launch → Launch) : (s.onLaunch l f).slots = s.slots := rfl
@[simp] theorem State.onLaunch_troupes (l : Nat) (f : Launch → Launch) : (s.onLaunch l f).troupes = s.troupes := rfl
@[simp] theorem State.onLaunch_nextId (l : Nat) (f : Launch → Launch) : (s.onLaunch l f).nextId = s.nextId := rfl
@[simp] theorem State.onLaunch_ports (l : Nat) (f : Launch → Launch) : (s.onLaunch l f).ports = s.ports := rfl
@[simp] theorem State.onLaunch_groups (l : Nat) (f : Launch → Launch) : (s.onLaunch l f).groups = s.groups := rfl
@[simp] theorem State.onLaunch_sliceCmd (l : Nat) (f : Launch → Launch) : (s.onLaunch l f).sliceCmd = s.sliceCmd := rfl
@[simp] theorem State.onLaunch_ctl (l : Nat) (f : Launch → Launch) : (s.onLaunch l f).ctl = s.ctl := rfl
@[simp] theorem State.onLaunch_s2f (l : Nat) (f : Launch → Launch) : (s.onLaunch l f).s2f = s.s2f := rfl
@[simp] theorem State.onLaunch_s2fNext (l : Nat) (f : Launch → Launch) : (s.onLaunch l f).s2fNext = s.s2fNext := rfl
@[simp] theorem State.onLaunch_mgmtPreempt (l : Nat) (f : Launch → Launch) : (s.onLaunch l f).mgmtPreempt = s.mgmtPreempt := rfl
@[simp] theorem State.onLaunch_frozen (l : Nat) (f : Launch → Launch) : (s.onLaunch l f).frozen = s.frozen := rfl
@[simp] theorem State.onLaunch_activation (l : Nat) (f : Launch → Launch) : (s.onLaunch l f).activation = s.activation := rfl
@[simp] theorem State.onLaunch_image (l : Nat) (f : Launch → Launch) : (s.onLaunch l f).image = s.image := rfl

/-! ### onTroupe -/

@[simp] theorem State.onTroupe_cycle (t : Nat) (f : Troupe → Troupe) : (s.onTroupe t f).cycle = s.cycle := rfl
@[simp] theorem State.onTroupe_tick (t : Nat) (f : Troupe → Troupe) : (s.onTroupe t f).tick = s.tick := rfl
@[simp] theorem State.onTroupe_bringUp (t : Nat) (f : Troupe → Troupe) : (s.onTroupe t f).bringUp = s.bringUp := rfl
@[simp] theorem State.onTroupe_lockedDown (t : Nat) (f : Troupe → Troupe) : (s.onTroupe t f).lockedDown = s.lockedDown := rfl
@[simp] theorem State.onTroupe_agenda (t : Nat) (f : Troupe → Troupe) : (s.onTroupe t f).agenda = s.agenda := rfl
@[simp] theorem State.onTroupe_cur (t : Nat) (f : Troupe → Troupe) : (s.onTroupe t f).cur = s.cur := rfl
@[simp] theorem State.onTroupe_mem (t : Nat) (f : Troupe → Troupe) : (s.onTroupe t f).mem = s.mem := rfl
@[simp] theorem State.onTroupe_gran (t : Nat) (f : Troupe → Troupe) : (s.onTroupe t f).gran = s.gran := rfl
@[simp] theorem State.onTroupe_copies (t : Nat) (f : Troupe → Troupe) : (s.onTroupe t f).copies = s.copies := rfl
@[simp] theorem State.onTroupe_lines (t : Nat) (f : Troupe → Troupe) : (s.onTroupe t f).lines = s.lines := rfl
@[simp] theorem State.onTroupe_drains (t : Nat) (f : Troupe → Troupe) : (s.onTroupe t f).drains = s.drains := rfl
@[simp] theorem State.onTroupe_grants (t : Nat) (f : Troupe → Troupe) : (s.onTroupe t f).grants = s.grants := rfl
@[simp] theorem State.onTroupe_requests (t : Nat) (f : Troupe → Troupe) : (s.onTroupe t f).requests = s.requests := rfl
@[simp] theorem State.onTroupe_hostHeld (t : Nat) (f : Troupe → Troupe) : (s.onTroupe t f).hostHeld = s.hostHeld := rfl
@[simp] theorem State.onTroupe_unverified (t : Nat) (f : Troupe → Troupe) : (s.onTroupe t f).unverified = s.unverified := rfl
@[simp] theorem State.onTroupe_interrupts (t : Nat) (f : Troupe → Troupe) : (s.onTroupe t f).interrupts = s.interrupts := rfl
@[simp] theorem State.onTroupe_answers (t : Nat) (f : Troupe → Troupe) : (s.onTroupe t f).answers = s.answers := rfl
@[simp] theorem State.onTroupe_slices (t : Nat) (f : Troupe → Troupe) : (s.onTroupe t f).slices = s.slices := rfl
@[simp] theorem State.onTroupe_cores (t : Nat) (f : Troupe → Troupe) : (s.onTroupe t f).cores = s.cores := rfl
@[simp] theorem State.onTroupe_clusters (t : Nat) (f : Troupe → Troupe) : (s.onTroupe t f).clusters = s.clusters := rfl
@[simp] theorem State.onTroupe_worlds (t : Nat) (f : Troupe → Troupe) : (s.onTroupe t f).worlds = s.worlds := rfl
@[simp] theorem State.onTroupe_slots (t : Nat) (f : Troupe → Troupe) : (s.onTroupe t f).slots = s.slots := rfl
@[simp] theorem State.onTroupe_launches (t : Nat) (f : Troupe → Troupe) : (s.onTroupe t f).launches = s.launches := rfl
@[simp] theorem State.onTroupe_nextId (t : Nat) (f : Troupe → Troupe) : (s.onTroupe t f).nextId = s.nextId := rfl
@[simp] theorem State.onTroupe_ports (t : Nat) (f : Troupe → Troupe) : (s.onTroupe t f).ports = s.ports := rfl
@[simp] theorem State.onTroupe_groups (t : Nat) (f : Troupe → Troupe) : (s.onTroupe t f).groups = s.groups := rfl
@[simp] theorem State.onTroupe_sliceCmd (t : Nat) (f : Troupe → Troupe) : (s.onTroupe t f).sliceCmd = s.sliceCmd := rfl
@[simp] theorem State.onTroupe_ctl (t : Nat) (f : Troupe → Troupe) : (s.onTroupe t f).ctl = s.ctl := rfl
@[simp] theorem State.onTroupe_s2f (t : Nat) (f : Troupe → Troupe) : (s.onTroupe t f).s2f = s.s2f := rfl
@[simp] theorem State.onTroupe_s2fNext (t : Nat) (f : Troupe → Troupe) : (s.onTroupe t f).s2fNext = s.s2fNext := rfl
@[simp] theorem State.onTroupe_mgmtPreempt (t : Nat) (f : Troupe → Troupe) : (s.onTroupe t f).mgmtPreempt = s.mgmtPreempt := rfl
@[simp] theorem State.onTroupe_frozen (t : Nat) (f : Troupe → Troupe) : (s.onTroupe t f).frozen = s.frozen := rfl
@[simp] theorem State.onTroupe_activation (t : Nat) (f : Troupe → Troupe) : (s.onTroupe t f).activation = s.activation := rfl
@[simp] theorem State.onTroupe_image (t : Nat) (f : Troupe → Troupe) : (s.onTroupe t f).image = s.image := rfl

/-! ### onSet -/

@[simp] theorem State.onSet_cycle (t k : Nat) (f : SetState → SetState) : (s.onSet t k f).cycle = s.cycle := rfl
@[simp] theorem State.onSet_tick (t k : Nat) (f : SetState → SetState) : (s.onSet t k f).tick = s.tick := rfl
@[simp] theorem State.onSet_bringUp (t k : Nat) (f : SetState → SetState) : (s.onSet t k f).bringUp = s.bringUp := rfl
@[simp] theorem State.onSet_lockedDown (t k : Nat) (f : SetState → SetState) : (s.onSet t k f).lockedDown = s.lockedDown := rfl
@[simp] theorem State.onSet_agenda (t k : Nat) (f : SetState → SetState) : (s.onSet t k f).agenda = s.agenda := rfl
@[simp] theorem State.onSet_cur (t k : Nat) (f : SetState → SetState) : (s.onSet t k f).cur = s.cur := rfl
@[simp] theorem State.onSet_mem (t k : Nat) (f : SetState → SetState) : (s.onSet t k f).mem = s.mem := rfl
@[simp] theorem State.onSet_gran (t k : Nat) (f : SetState → SetState) : (s.onSet t k f).gran = s.gran := rfl
@[simp] theorem State.onSet_copies (t k : Nat) (f : SetState → SetState) : (s.onSet t k f).copies = s.copies := rfl
@[simp] theorem State.onSet_lines (t k : Nat) (f : SetState → SetState) : (s.onSet t k f).lines = s.lines := rfl
@[simp] theorem State.onSet_drains (t k : Nat) (f : SetState → SetState) : (s.onSet t k f).drains = s.drains := rfl
@[simp] theorem State.onSet_grants (t k : Nat) (f : SetState → SetState) : (s.onSet t k f).grants = s.grants := rfl
@[simp] theorem State.onSet_requests (t k : Nat) (f : SetState → SetState) : (s.onSet t k f).requests = s.requests := rfl
@[simp] theorem State.onSet_hostHeld (t k : Nat) (f : SetState → SetState) : (s.onSet t k f).hostHeld = s.hostHeld := rfl
@[simp] theorem State.onSet_unverified (t k : Nat) (f : SetState → SetState) : (s.onSet t k f).unverified = s.unverified := rfl
@[simp] theorem State.onSet_interrupts (t k : Nat) (f : SetState → SetState) : (s.onSet t k f).interrupts = s.interrupts := rfl
@[simp] theorem State.onSet_answers (t k : Nat) (f : SetState → SetState) : (s.onSet t k f).answers = s.answers := rfl
@[simp] theorem State.onSet_slices (t k : Nat) (f : SetState → SetState) : (s.onSet t k f).slices = s.slices := rfl
@[simp] theorem State.onSet_cores (t k : Nat) (f : SetState → SetState) : (s.onSet t k f).cores = s.cores := rfl
@[simp] theorem State.onSet_clusters (t k : Nat) (f : SetState → SetState) : (s.onSet t k f).clusters = s.clusters := rfl
@[simp] theorem State.onSet_worlds (t k : Nat) (f : SetState → SetState) : (s.onSet t k f).worlds = s.worlds := rfl
@[simp] theorem State.onSet_slots (t k : Nat) (f : SetState → SetState) : (s.onSet t k f).slots = s.slots := rfl
@[simp] theorem State.onSet_launches (t k : Nat) (f : SetState → SetState) : (s.onSet t k f).launches = s.launches := rfl
@[simp] theorem State.onSet_nextId (t k : Nat) (f : SetState → SetState) : (s.onSet t k f).nextId = s.nextId := rfl
@[simp] theorem State.onSet_ports (t k : Nat) (f : SetState → SetState) : (s.onSet t k f).ports = s.ports := rfl
@[simp] theorem State.onSet_groups (t k : Nat) (f : SetState → SetState) : (s.onSet t k f).groups = s.groups := rfl
@[simp] theorem State.onSet_sliceCmd (t k : Nat) (f : SetState → SetState) : (s.onSet t k f).sliceCmd = s.sliceCmd := rfl
@[simp] theorem State.onSet_ctl (t k : Nat) (f : SetState → SetState) : (s.onSet t k f).ctl = s.ctl := rfl
@[simp] theorem State.onSet_s2f (t k : Nat) (f : SetState → SetState) : (s.onSet t k f).s2f = s.s2f := rfl
@[simp] theorem State.onSet_s2fNext (t k : Nat) (f : SetState → SetState) : (s.onSet t k f).s2fNext = s.s2fNext := rfl
@[simp] theorem State.onSet_mgmtPreempt (t k : Nat) (f : SetState → SetState) : (s.onSet t k f).mgmtPreempt = s.mgmtPreempt := rfl
@[simp] theorem State.onSet_frozen (t k : Nat) (f : SetState → SetState) : (s.onSet t k f).frozen = s.frozen := rfl
@[simp] theorem State.onSet_activation (t k : Nat) (f : SetState → SetState) : (s.onSet t k f).activation = s.activation := rfl
@[simp] theorem State.onSet_image (t k : Nat) (f : SetState → SetState) : (s.onSet t k f).image = s.image := rfl

/-! ### onCue -/

@[simp] theorem State.onCue_cycle (t : Nat) (f : Cue → Cue) : (s.onCue t f).cycle = s.cycle := rfl
@[simp] theorem State.onCue_tick (t : Nat) (f : Cue → Cue) : (s.onCue t f).tick = s.tick := rfl
@[simp] theorem State.onCue_bringUp (t : Nat) (f : Cue → Cue) : (s.onCue t f).bringUp = s.bringUp := rfl
@[simp] theorem State.onCue_lockedDown (t : Nat) (f : Cue → Cue) : (s.onCue t f).lockedDown = s.lockedDown := rfl
@[simp] theorem State.onCue_agenda (t : Nat) (f : Cue → Cue) : (s.onCue t f).agenda = s.agenda := rfl
@[simp] theorem State.onCue_cur (t : Nat) (f : Cue → Cue) : (s.onCue t f).cur = s.cur := rfl
@[simp] theorem State.onCue_mem (t : Nat) (f : Cue → Cue) : (s.onCue t f).mem = s.mem := rfl
@[simp] theorem State.onCue_gran (t : Nat) (f : Cue → Cue) : (s.onCue t f).gran = s.gran := rfl
@[simp] theorem State.onCue_copies (t : Nat) (f : Cue → Cue) : (s.onCue t f).copies = s.copies := rfl
@[simp] theorem State.onCue_lines (t : Nat) (f : Cue → Cue) : (s.onCue t f).lines = s.lines := rfl
@[simp] theorem State.onCue_drains (t : Nat) (f : Cue → Cue) : (s.onCue t f).drains = s.drains := rfl
@[simp] theorem State.onCue_grants (t : Nat) (f : Cue → Cue) : (s.onCue t f).grants = s.grants := rfl
@[simp] theorem State.onCue_requests (t : Nat) (f : Cue → Cue) : (s.onCue t f).requests = s.requests := rfl
@[simp] theorem State.onCue_hostHeld (t : Nat) (f : Cue → Cue) : (s.onCue t f).hostHeld = s.hostHeld := rfl
@[simp] theorem State.onCue_unverified (t : Nat) (f : Cue → Cue) : (s.onCue t f).unverified = s.unverified := rfl
@[simp] theorem State.onCue_interrupts (t : Nat) (f : Cue → Cue) : (s.onCue t f).interrupts = s.interrupts := rfl
@[simp] theorem State.onCue_answers (t : Nat) (f : Cue → Cue) : (s.onCue t f).answers = s.answers := rfl
@[simp] theorem State.onCue_slices (t : Nat) (f : Cue → Cue) : (s.onCue t f).slices = s.slices := rfl
@[simp] theorem State.onCue_cores (t : Nat) (f : Cue → Cue) : (s.onCue t f).cores = s.cores := rfl
@[simp] theorem State.onCue_clusters (t : Nat) (f : Cue → Cue) : (s.onCue t f).clusters = s.clusters := rfl
@[simp] theorem State.onCue_worlds (t : Nat) (f : Cue → Cue) : (s.onCue t f).worlds = s.worlds := rfl
@[simp] theorem State.onCue_slots (t : Nat) (f : Cue → Cue) : (s.onCue t f).slots = s.slots := rfl
@[simp] theorem State.onCue_launches (t : Nat) (f : Cue → Cue) : (s.onCue t f).launches = s.launches := rfl
@[simp] theorem State.onCue_nextId (t : Nat) (f : Cue → Cue) : (s.onCue t f).nextId = s.nextId := rfl
@[simp] theorem State.onCue_ports (t : Nat) (f : Cue → Cue) : (s.onCue t f).ports = s.ports := rfl
@[simp] theorem State.onCue_groups (t : Nat) (f : Cue → Cue) : (s.onCue t f).groups = s.groups := rfl
@[simp] theorem State.onCue_sliceCmd (t : Nat) (f : Cue → Cue) : (s.onCue t f).sliceCmd = s.sliceCmd := rfl
@[simp] theorem State.onCue_ctl (t : Nat) (f : Cue → Cue) : (s.onCue t f).ctl = s.ctl := rfl
@[simp] theorem State.onCue_s2f (t : Nat) (f : Cue → Cue) : (s.onCue t f).s2f = s.s2f := rfl
@[simp] theorem State.onCue_s2fNext (t : Nat) (f : Cue → Cue) : (s.onCue t f).s2fNext = s.s2fNext := rfl
@[simp] theorem State.onCue_mgmtPreempt (t : Nat) (f : Cue → Cue) : (s.onCue t f).mgmtPreempt = s.mgmtPreempt := rfl
@[simp] theorem State.onCue_frozen (t : Nat) (f : Cue → Cue) : (s.onCue t f).frozen = s.frozen := rfl
@[simp] theorem State.onCue_activation (t : Nat) (f : Cue → Cue) : (s.onCue t f).activation = s.activation := rfl
@[simp] theorem State.onCue_image (t : Nat) (f : Cue → Cue) : (s.onCue t f).image = s.image := rfl

/-! ### onFrame -/

@[simp] theorem State.onFrame_cycle (k n : Nat) (f : Frame → Frame) : (s.onFrame k n f).cycle = s.cycle := rfl
@[simp] theorem State.onFrame_tick (k n : Nat) (f : Frame → Frame) : (s.onFrame k n f).tick = s.tick := rfl
@[simp] theorem State.onFrame_bringUp (k n : Nat) (f : Frame → Frame) : (s.onFrame k n f).bringUp = s.bringUp := rfl
@[simp] theorem State.onFrame_lockedDown (k n : Nat) (f : Frame → Frame) : (s.onFrame k n f).lockedDown = s.lockedDown := rfl
@[simp] theorem State.onFrame_agenda (k n : Nat) (f : Frame → Frame) : (s.onFrame k n f).agenda = s.agenda := rfl
@[simp] theorem State.onFrame_cur (k n : Nat) (f : Frame → Frame) : (s.onFrame k n f).cur = s.cur := rfl
@[simp] theorem State.onFrame_mem (k n : Nat) (f : Frame → Frame) : (s.onFrame k n f).mem = s.mem := rfl
@[simp] theorem State.onFrame_gran (k n : Nat) (f : Frame → Frame) : (s.onFrame k n f).gran = s.gran := rfl
@[simp] theorem State.onFrame_copies (k n : Nat) (f : Frame → Frame) : (s.onFrame k n f).copies = s.copies := rfl
@[simp] theorem State.onFrame_lines (k n : Nat) (f : Frame → Frame) : (s.onFrame k n f).lines = s.lines := rfl
@[simp] theorem State.onFrame_drains (k n : Nat) (f : Frame → Frame) : (s.onFrame k n f).drains = s.drains := rfl
@[simp] theorem State.onFrame_grants (k n : Nat) (f : Frame → Frame) : (s.onFrame k n f).grants = s.grants := rfl
@[simp] theorem State.onFrame_requests (k n : Nat) (f : Frame → Frame) : (s.onFrame k n f).requests = s.requests := rfl
@[simp] theorem State.onFrame_hostHeld (k n : Nat) (f : Frame → Frame) : (s.onFrame k n f).hostHeld = s.hostHeld := rfl
@[simp] theorem State.onFrame_unverified (k n : Nat) (f : Frame → Frame) : (s.onFrame k n f).unverified = s.unverified := rfl
@[simp] theorem State.onFrame_interrupts (k n : Nat) (f : Frame → Frame) : (s.onFrame k n f).interrupts = s.interrupts := rfl
@[simp] theorem State.onFrame_answers (k n : Nat) (f : Frame → Frame) : (s.onFrame k n f).answers = s.answers := rfl
@[simp] theorem State.onFrame_cores (k n : Nat) (f : Frame → Frame) : (s.onFrame k n f).cores = s.cores := rfl
@[simp] theorem State.onFrame_clusters (k n : Nat) (f : Frame → Frame) : (s.onFrame k n f).clusters = s.clusters := rfl
@[simp] theorem State.onFrame_worlds (k n : Nat) (f : Frame → Frame) : (s.onFrame k n f).worlds = s.worlds := rfl
@[simp] theorem State.onFrame_slots (k n : Nat) (f : Frame → Frame) : (s.onFrame k n f).slots = s.slots := rfl
@[simp] theorem State.onFrame_launches (k n : Nat) (f : Frame → Frame) : (s.onFrame k n f).launches = s.launches := rfl
@[simp] theorem State.onFrame_troupes (k n : Nat) (f : Frame → Frame) : (s.onFrame k n f).troupes = s.troupes := rfl
@[simp] theorem State.onFrame_nextId (k n : Nat) (f : Frame → Frame) : (s.onFrame k n f).nextId = s.nextId := rfl
@[simp] theorem State.onFrame_ports (k n : Nat) (f : Frame → Frame) : (s.onFrame k n f).ports = s.ports := rfl
@[simp] theorem State.onFrame_groups (k n : Nat) (f : Frame → Frame) : (s.onFrame k n f).groups = s.groups := rfl
@[simp] theorem State.onFrame_sliceCmd (k n : Nat) (f : Frame → Frame) : (s.onFrame k n f).sliceCmd = s.sliceCmd := rfl
@[simp] theorem State.onFrame_ctl (k n : Nat) (f : Frame → Frame) : (s.onFrame k n f).ctl = s.ctl := rfl
@[simp] theorem State.onFrame_s2f (k n : Nat) (f : Frame → Frame) : (s.onFrame k n f).s2f = s.s2f := rfl
@[simp] theorem State.onFrame_s2fNext (k n : Nat) (f : Frame → Frame) : (s.onFrame k n f).s2fNext = s.s2fNext := rfl
@[simp] theorem State.onFrame_mgmtPreempt (k n : Nat) (f : Frame → Frame) : (s.onFrame k n f).mgmtPreempt = s.mgmtPreempt := rfl
@[simp] theorem State.onFrame_frozen (k n : Nat) (f : Frame → Frame) : (s.onFrame k n f).frozen = s.frozen := rfl
@[simp] theorem State.onFrame_activation (k n : Nat) (f : Frame → Frame) : (s.onFrame k n f).activation = s.activation := rfl
@[simp] theorem State.onFrame_image (k n : Nat) (f : Frame → Frame) : (s.onFrame k n f).image = s.image := rfl

/-! ### onUnit -/

@[simp] theorem State.onUnit_cycle (k n : Nat) (f : NbUnit → NbUnit) : (s.onUnit k n f).cycle = s.cycle := rfl
@[simp] theorem State.onUnit_tick (k n : Nat) (f : NbUnit → NbUnit) : (s.onUnit k n f).tick = s.tick := rfl
@[simp] theorem State.onUnit_bringUp (k n : Nat) (f : NbUnit → NbUnit) : (s.onUnit k n f).bringUp = s.bringUp := rfl
@[simp] theorem State.onUnit_lockedDown (k n : Nat) (f : NbUnit → NbUnit) : (s.onUnit k n f).lockedDown = s.lockedDown := rfl
@[simp] theorem State.onUnit_agenda (k n : Nat) (f : NbUnit → NbUnit) : (s.onUnit k n f).agenda = s.agenda := rfl
@[simp] theorem State.onUnit_cur (k n : Nat) (f : NbUnit → NbUnit) : (s.onUnit k n f).cur = s.cur := rfl
@[simp] theorem State.onUnit_mem (k n : Nat) (f : NbUnit → NbUnit) : (s.onUnit k n f).mem = s.mem := rfl
@[simp] theorem State.onUnit_gran (k n : Nat) (f : NbUnit → NbUnit) : (s.onUnit k n f).gran = s.gran := rfl
@[simp] theorem State.onUnit_copies (k n : Nat) (f : NbUnit → NbUnit) : (s.onUnit k n f).copies = s.copies := rfl
@[simp] theorem State.onUnit_lines (k n : Nat) (f : NbUnit → NbUnit) : (s.onUnit k n f).lines = s.lines := rfl
@[simp] theorem State.onUnit_drains (k n : Nat) (f : NbUnit → NbUnit) : (s.onUnit k n f).drains = s.drains := rfl
@[simp] theorem State.onUnit_grants (k n : Nat) (f : NbUnit → NbUnit) : (s.onUnit k n f).grants = s.grants := rfl
@[simp] theorem State.onUnit_requests (k n : Nat) (f : NbUnit → NbUnit) : (s.onUnit k n f).requests = s.requests := rfl
@[simp] theorem State.onUnit_hostHeld (k n : Nat) (f : NbUnit → NbUnit) : (s.onUnit k n f).hostHeld = s.hostHeld := rfl
@[simp] theorem State.onUnit_unverified (k n : Nat) (f : NbUnit → NbUnit) : (s.onUnit k n f).unverified = s.unverified := rfl
@[simp] theorem State.onUnit_interrupts (k n : Nat) (f : NbUnit → NbUnit) : (s.onUnit k n f).interrupts = s.interrupts := rfl
@[simp] theorem State.onUnit_answers (k n : Nat) (f : NbUnit → NbUnit) : (s.onUnit k n f).answers = s.answers := rfl
@[simp] theorem State.onUnit_cores (k n : Nat) (f : NbUnit → NbUnit) : (s.onUnit k n f).cores = s.cores := rfl
@[simp] theorem State.onUnit_clusters (k n : Nat) (f : NbUnit → NbUnit) : (s.onUnit k n f).clusters = s.clusters := rfl
@[simp] theorem State.onUnit_worlds (k n : Nat) (f : NbUnit → NbUnit) : (s.onUnit k n f).worlds = s.worlds := rfl
@[simp] theorem State.onUnit_slots (k n : Nat) (f : NbUnit → NbUnit) : (s.onUnit k n f).slots = s.slots := rfl
@[simp] theorem State.onUnit_launches (k n : Nat) (f : NbUnit → NbUnit) : (s.onUnit k n f).launches = s.launches := rfl
@[simp] theorem State.onUnit_troupes (k n : Nat) (f : NbUnit → NbUnit) : (s.onUnit k n f).troupes = s.troupes := rfl
@[simp] theorem State.onUnit_nextId (k n : Nat) (f : NbUnit → NbUnit) : (s.onUnit k n f).nextId = s.nextId := rfl
@[simp] theorem State.onUnit_ports (k n : Nat) (f : NbUnit → NbUnit) : (s.onUnit k n f).ports = s.ports := rfl
@[simp] theorem State.onUnit_groups (k n : Nat) (f : NbUnit → NbUnit) : (s.onUnit k n f).groups = s.groups := rfl
@[simp] theorem State.onUnit_sliceCmd (k n : Nat) (f : NbUnit → NbUnit) : (s.onUnit k n f).sliceCmd = s.sliceCmd := rfl
@[simp] theorem State.onUnit_ctl (k n : Nat) (f : NbUnit → NbUnit) : (s.onUnit k n f).ctl = s.ctl := rfl
@[simp] theorem State.onUnit_s2f (k n : Nat) (f : NbUnit → NbUnit) : (s.onUnit k n f).s2f = s.s2f := rfl
@[simp] theorem State.onUnit_s2fNext (k n : Nat) (f : NbUnit → NbUnit) : (s.onUnit k n f).s2fNext = s.s2fNext := rfl
@[simp] theorem State.onUnit_mgmtPreempt (k n : Nat) (f : NbUnit → NbUnit) : (s.onUnit k n f).mgmtPreempt = s.mgmtPreempt := rfl
@[simp] theorem State.onUnit_frozen (k n : Nat) (f : NbUnit → NbUnit) : (s.onUnit k n f).frozen = s.frozen := rfl
@[simp] theorem State.onUnit_activation (k n : Nat) (f : NbUnit → NbUnit) : (s.onUnit k n f).activation = s.activation := rfl
@[simp] theorem State.onUnit_image (k n : Nat) (f : NbUnit → NbUnit) : (s.onUnit k n f).image = s.image := rfl

/-! ### onPort -/

@[simp] theorem State.onPort_cycle (p : Nat) (f : Port → Port) : (s.onPort p f).cycle = s.cycle := rfl
@[simp] theorem State.onPort_tick (p : Nat) (f : Port → Port) : (s.onPort p f).tick = s.tick := rfl
@[simp] theorem State.onPort_bringUp (p : Nat) (f : Port → Port) : (s.onPort p f).bringUp = s.bringUp := rfl
@[simp] theorem State.onPort_lockedDown (p : Nat) (f : Port → Port) : (s.onPort p f).lockedDown = s.lockedDown := rfl
@[simp] theorem State.onPort_agenda (p : Nat) (f : Port → Port) : (s.onPort p f).agenda = s.agenda := rfl
@[simp] theorem State.onPort_cur (p : Nat) (f : Port → Port) : (s.onPort p f).cur = s.cur := rfl
@[simp] theorem State.onPort_mem (p : Nat) (f : Port → Port) : (s.onPort p f).mem = s.mem := rfl
@[simp] theorem State.onPort_gran (p : Nat) (f : Port → Port) : (s.onPort p f).gran = s.gran := rfl
@[simp] theorem State.onPort_copies (p : Nat) (f : Port → Port) : (s.onPort p f).copies = s.copies := rfl
@[simp] theorem State.onPort_lines (p : Nat) (f : Port → Port) : (s.onPort p f).lines = s.lines := rfl
@[simp] theorem State.onPort_drains (p : Nat) (f : Port → Port) : (s.onPort p f).drains = s.drains := rfl
@[simp] theorem State.onPort_grants (p : Nat) (f : Port → Port) : (s.onPort p f).grants = s.grants := rfl
@[simp] theorem State.onPort_requests (p : Nat) (f : Port → Port) : (s.onPort p f).requests = s.requests := rfl
@[simp] theorem State.onPort_hostHeld (p : Nat) (f : Port → Port) : (s.onPort p f).hostHeld = s.hostHeld := rfl
@[simp] theorem State.onPort_unverified (p : Nat) (f : Port → Port) : (s.onPort p f).unverified = s.unverified := rfl
@[simp] theorem State.onPort_interrupts (p : Nat) (f : Port → Port) : (s.onPort p f).interrupts = s.interrupts := rfl
@[simp] theorem State.onPort_answers (p : Nat) (f : Port → Port) : (s.onPort p f).answers = s.answers := rfl
@[simp] theorem State.onPort_slices (p : Nat) (f : Port → Port) : (s.onPort p f).slices = s.slices := rfl
@[simp] theorem State.onPort_cores (p : Nat) (f : Port → Port) : (s.onPort p f).cores = s.cores := rfl
@[simp] theorem State.onPort_clusters (p : Nat) (f : Port → Port) : (s.onPort p f).clusters = s.clusters := rfl
@[simp] theorem State.onPort_worlds (p : Nat) (f : Port → Port) : (s.onPort p f).worlds = s.worlds := rfl
@[simp] theorem State.onPort_slots (p : Nat) (f : Port → Port) : (s.onPort p f).slots = s.slots := rfl
@[simp] theorem State.onPort_launches (p : Nat) (f : Port → Port) : (s.onPort p f).launches = s.launches := rfl
@[simp] theorem State.onPort_troupes (p : Nat) (f : Port → Port) : (s.onPort p f).troupes = s.troupes := rfl
@[simp] theorem State.onPort_nextId (p : Nat) (f : Port → Port) : (s.onPort p f).nextId = s.nextId := rfl
@[simp] theorem State.onPort_groups (p : Nat) (f : Port → Port) : (s.onPort p f).groups = s.groups := rfl
@[simp] theorem State.onPort_sliceCmd (p : Nat) (f : Port → Port) : (s.onPort p f).sliceCmd = s.sliceCmd := rfl
@[simp] theorem State.onPort_ctl (p : Nat) (f : Port → Port) : (s.onPort p f).ctl = s.ctl := rfl
@[simp] theorem State.onPort_s2f (p : Nat) (f : Port → Port) : (s.onPort p f).s2f = s.s2f := rfl
@[simp] theorem State.onPort_s2fNext (p : Nat) (f : Port → Port) : (s.onPort p f).s2fNext = s.s2fNext := rfl
@[simp] theorem State.onPort_mgmtPreempt (p : Nat) (f : Port → Port) : (s.onPort p f).mgmtPreempt = s.mgmtPreempt := rfl
@[simp] theorem State.onPort_frozen (p : Nat) (f : Port → Port) : (s.onPort p f).frozen = s.frozen := rfl
@[simp] theorem State.onPort_activation (p : Nat) (f : Port → Port) : (s.onPort p f).activation = s.activation := rfl
@[simp] theorem State.onPort_image (p : Nat) (f : Port → Port) : (s.onPort p f).image = s.image := rfl

/-! ### onGroup -/

@[simp] theorem State.onGroup_cycle (g : Nat) (f : Group → Group) : (s.onGroup g f).cycle = s.cycle := rfl
@[simp] theorem State.onGroup_tick (g : Nat) (f : Group → Group) : (s.onGroup g f).tick = s.tick := rfl
@[simp] theorem State.onGroup_bringUp (g : Nat) (f : Group → Group) : (s.onGroup g f).bringUp = s.bringUp := rfl
@[simp] theorem State.onGroup_lockedDown (g : Nat) (f : Group → Group) : (s.onGroup g f).lockedDown = s.lockedDown := rfl
@[simp] theorem State.onGroup_agenda (g : Nat) (f : Group → Group) : (s.onGroup g f).agenda = s.agenda := rfl
@[simp] theorem State.onGroup_cur (g : Nat) (f : Group → Group) : (s.onGroup g f).cur = s.cur := rfl
@[simp] theorem State.onGroup_mem (g : Nat) (f : Group → Group) : (s.onGroup g f).mem = s.mem := rfl
@[simp] theorem State.onGroup_gran (g : Nat) (f : Group → Group) : (s.onGroup g f).gran = s.gran := rfl
@[simp] theorem State.onGroup_copies (g : Nat) (f : Group → Group) : (s.onGroup g f).copies = s.copies := rfl
@[simp] theorem State.onGroup_lines (g : Nat) (f : Group → Group) : (s.onGroup g f).lines = s.lines := rfl
@[simp] theorem State.onGroup_drains (g : Nat) (f : Group → Group) : (s.onGroup g f).drains = s.drains := rfl
@[simp] theorem State.onGroup_grants (g : Nat) (f : Group → Group) : (s.onGroup g f).grants = s.grants := rfl
@[simp] theorem State.onGroup_requests (g : Nat) (f : Group → Group) : (s.onGroup g f).requests = s.requests := rfl
@[simp] theorem State.onGroup_hostHeld (g : Nat) (f : Group → Group) : (s.onGroup g f).hostHeld = s.hostHeld := rfl
@[simp] theorem State.onGroup_unverified (g : Nat) (f : Group → Group) : (s.onGroup g f).unverified = s.unverified := rfl
@[simp] theorem State.onGroup_interrupts (g : Nat) (f : Group → Group) : (s.onGroup g f).interrupts = s.interrupts := rfl
@[simp] theorem State.onGroup_answers (g : Nat) (f : Group → Group) : (s.onGroup g f).answers = s.answers := rfl
@[simp] theorem State.onGroup_slices (g : Nat) (f : Group → Group) : (s.onGroup g f).slices = s.slices := rfl
@[simp] theorem State.onGroup_cores (g : Nat) (f : Group → Group) : (s.onGroup g f).cores = s.cores := rfl
@[simp] theorem State.onGroup_clusters (g : Nat) (f : Group → Group) : (s.onGroup g f).clusters = s.clusters := rfl
@[simp] theorem State.onGroup_worlds (g : Nat) (f : Group → Group) : (s.onGroup g f).worlds = s.worlds := rfl
@[simp] theorem State.onGroup_slots (g : Nat) (f : Group → Group) : (s.onGroup g f).slots = s.slots := rfl
@[simp] theorem State.onGroup_launches (g : Nat) (f : Group → Group) : (s.onGroup g f).launches = s.launches := rfl
@[simp] theorem State.onGroup_troupes (g : Nat) (f : Group → Group) : (s.onGroup g f).troupes = s.troupes := rfl
@[simp] theorem State.onGroup_nextId (g : Nat) (f : Group → Group) : (s.onGroup g f).nextId = s.nextId := rfl
@[simp] theorem State.onGroup_ports (g : Nat) (f : Group → Group) : (s.onGroup g f).ports = s.ports := rfl
@[simp] theorem State.onGroup_sliceCmd (g : Nat) (f : Group → Group) : (s.onGroup g f).sliceCmd = s.sliceCmd := rfl
@[simp] theorem State.onGroup_ctl (g : Nat) (f : Group → Group) : (s.onGroup g f).ctl = s.ctl := rfl
@[simp] theorem State.onGroup_s2f (g : Nat) (f : Group → Group) : (s.onGroup g f).s2f = s.s2f := rfl
@[simp] theorem State.onGroup_s2fNext (g : Nat) (f : Group → Group) : (s.onGroup g f).s2fNext = s.s2fNext := rfl
@[simp] theorem State.onGroup_mgmtPreempt (g : Nat) (f : Group → Group) : (s.onGroup g f).mgmtPreempt = s.mgmtPreempt := rfl
@[simp] theorem State.onGroup_frozen (g : Nat) (f : Group → Group) : (s.onGroup g f).frozen = s.frozen := rfl
@[simp] theorem State.onGroup_activation (g : Nat) (f : Group → Group) : (s.onGroup g f).activation = s.activation := rfl
@[simp] theorem State.onGroup_image (g : Nat) (f : Group → Group) : (s.onGroup g f).image = s.image := rfl

/-! ### first -/

@[simp] theorem State.first_cycle (ts : List Turn) : (s.first ts).cycle = s.cycle := rfl
@[simp] theorem State.first_tick (ts : List Turn) : (s.first ts).tick = s.tick := rfl
@[simp] theorem State.first_bringUp (ts : List Turn) : (s.first ts).bringUp = s.bringUp := rfl
@[simp] theorem State.first_lockedDown (ts : List Turn) : (s.first ts).lockedDown = s.lockedDown := rfl
@[simp] theorem State.first_cur (ts : List Turn) : (s.first ts).cur = s.cur := rfl
@[simp] theorem State.first_mem (ts : List Turn) : (s.first ts).mem = s.mem := rfl
@[simp] theorem State.first_gran (ts : List Turn) : (s.first ts).gran = s.gran := rfl
@[simp] theorem State.first_copies (ts : List Turn) : (s.first ts).copies = s.copies := rfl
@[simp] theorem State.first_lines (ts : List Turn) : (s.first ts).lines = s.lines := rfl
@[simp] theorem State.first_drains (ts : List Turn) : (s.first ts).drains = s.drains := rfl
@[simp] theorem State.first_grants (ts : List Turn) : (s.first ts).grants = s.grants := rfl
@[simp] theorem State.first_requests (ts : List Turn) : (s.first ts).requests = s.requests := rfl
@[simp] theorem State.first_hostHeld (ts : List Turn) : (s.first ts).hostHeld = s.hostHeld := rfl
@[simp] theorem State.first_unverified (ts : List Turn) : (s.first ts).unverified = s.unverified := rfl
@[simp] theorem State.first_interrupts (ts : List Turn) : (s.first ts).interrupts = s.interrupts := rfl
@[simp] theorem State.first_answers (ts : List Turn) : (s.first ts).answers = s.answers := rfl
@[simp] theorem State.first_slices (ts : List Turn) : (s.first ts).slices = s.slices := rfl
@[simp] theorem State.first_cores (ts : List Turn) : (s.first ts).cores = s.cores := rfl
@[simp] theorem State.first_clusters (ts : List Turn) : (s.first ts).clusters = s.clusters := rfl
@[simp] theorem State.first_worlds (ts : List Turn) : (s.first ts).worlds = s.worlds := rfl
@[simp] theorem State.first_slots (ts : List Turn) : (s.first ts).slots = s.slots := rfl
@[simp] theorem State.first_launches (ts : List Turn) : (s.first ts).launches = s.launches := rfl
@[simp] theorem State.first_troupes (ts : List Turn) : (s.first ts).troupes = s.troupes := rfl
@[simp] theorem State.first_nextId (ts : List Turn) : (s.first ts).nextId = s.nextId := rfl
@[simp] theorem State.first_ports (ts : List Turn) : (s.first ts).ports = s.ports := rfl
@[simp] theorem State.first_groups (ts : List Turn) : (s.first ts).groups = s.groups := rfl
@[simp] theorem State.first_sliceCmd (ts : List Turn) : (s.first ts).sliceCmd = s.sliceCmd := rfl
@[simp] theorem State.first_ctl (ts : List Turn) : (s.first ts).ctl = s.ctl := rfl
@[simp] theorem State.first_s2f (ts : List Turn) : (s.first ts).s2f = s.s2f := rfl
@[simp] theorem State.first_s2fNext (ts : List Turn) : (s.first ts).s2fNext = s.s2fNext := rfl
@[simp] theorem State.first_mgmtPreempt (ts : List Turn) : (s.first ts).mgmtPreempt = s.mgmtPreempt := rfl
@[simp] theorem State.first_frozen (ts : List Turn) : (s.first ts).frozen = s.frozen := rfl
@[simp] theorem State.first_activation (ts : List Turn) : (s.first ts).activation = s.activation := rfl
@[simp] theorem State.first_image (ts : List Turn) : (s.first ts).image = s.image := rfl

/-! ### endIssue -/

@[simp] theorem State.endIssue_cycle : s.endIssue.cycle = s.cycle := rfl
@[simp] theorem State.endIssue_tick : s.endIssue.tick = s.tick := rfl
@[simp] theorem State.endIssue_bringUp : s.endIssue.bringUp = s.bringUp := rfl
@[simp] theorem State.endIssue_lockedDown : s.endIssue.lockedDown = s.lockedDown := rfl
@[simp] theorem State.endIssue_agenda : s.endIssue.agenda = s.agenda := rfl
@[simp] theorem State.endIssue_mem : s.endIssue.mem = s.mem := rfl
@[simp] theorem State.endIssue_gran : s.endIssue.gran = s.gran := rfl
@[simp] theorem State.endIssue_copies : s.endIssue.copies = s.copies := rfl
@[simp] theorem State.endIssue_lines : s.endIssue.lines = s.lines := rfl
@[simp] theorem State.endIssue_drains : s.endIssue.drains = s.drains := rfl
@[simp] theorem State.endIssue_grants : s.endIssue.grants = s.grants := rfl
@[simp] theorem State.endIssue_requests : s.endIssue.requests = s.requests := rfl
@[simp] theorem State.endIssue_hostHeld : s.endIssue.hostHeld = s.hostHeld := rfl
@[simp] theorem State.endIssue_unverified : s.endIssue.unverified = s.unverified := rfl
@[simp] theorem State.endIssue_interrupts : s.endIssue.interrupts = s.interrupts := rfl
@[simp] theorem State.endIssue_answers : s.endIssue.answers = s.answers := rfl
@[simp] theorem State.endIssue_slices : s.endIssue.slices = s.slices := rfl
@[simp] theorem State.endIssue_cores : s.endIssue.cores = s.cores := rfl
@[simp] theorem State.endIssue_clusters : s.endIssue.clusters = s.clusters := rfl
@[simp] theorem State.endIssue_worlds : s.endIssue.worlds = s.worlds := rfl
@[simp] theorem State.endIssue_slots : s.endIssue.slots = s.slots := rfl
@[simp] theorem State.endIssue_launches : s.endIssue.launches = s.launches := rfl
@[simp] theorem State.endIssue_troupes : s.endIssue.troupes = s.troupes := rfl
@[simp] theorem State.endIssue_nextId : s.endIssue.nextId = s.nextId := rfl
@[simp] theorem State.endIssue_ports : s.endIssue.ports = s.ports := rfl
@[simp] theorem State.endIssue_groups : s.endIssue.groups = s.groups := rfl
@[simp] theorem State.endIssue_sliceCmd : s.endIssue.sliceCmd = s.sliceCmd := rfl
@[simp] theorem State.endIssue_ctl : s.endIssue.ctl = s.ctl := rfl
@[simp] theorem State.endIssue_s2f : s.endIssue.s2f = s.s2f := rfl
@[simp] theorem State.endIssue_s2fNext : s.endIssue.s2fNext = s.s2fNext := rfl
@[simp] theorem State.endIssue_mgmtPreempt : s.endIssue.mgmtPreempt = s.mgmtPreempt := rfl
@[simp] theorem State.endIssue_frozen : s.endIssue.frozen = s.frozen := rfl
@[simp] theorem State.endIssue_activation : s.endIssue.activation = s.activation := rfl
@[simp] theorem State.endIssue_image : s.endIssue.image = s.image := rfl

/-! ### interrupt -/

@[simp] theorem State.interrupt_cycle (w v : Nat) : (s.interrupt w v).cycle = s.cycle := rfl
@[simp] theorem State.interrupt_tick (w v : Nat) : (s.interrupt w v).tick = s.tick := rfl
@[simp] theorem State.interrupt_bringUp (w v : Nat) : (s.interrupt w v).bringUp = s.bringUp := rfl
@[simp] theorem State.interrupt_lockedDown (w v : Nat) : (s.interrupt w v).lockedDown = s.lockedDown := rfl
@[simp] theorem State.interrupt_agenda (w v : Nat) : (s.interrupt w v).agenda = s.agenda := rfl
@[simp] theorem State.interrupt_cur (w v : Nat) : (s.interrupt w v).cur = s.cur := rfl
@[simp] theorem State.interrupt_mem (w v : Nat) : (s.interrupt w v).mem = s.mem := rfl
@[simp] theorem State.interrupt_gran (w v : Nat) : (s.interrupt w v).gran = s.gran := rfl
@[simp] theorem State.interrupt_copies (w v : Nat) : (s.interrupt w v).copies = s.copies := rfl
@[simp] theorem State.interrupt_lines (w v : Nat) : (s.interrupt w v).lines = s.lines := rfl
@[simp] theorem State.interrupt_drains (w v : Nat) : (s.interrupt w v).drains = s.drains := rfl
@[simp] theorem State.interrupt_grants (w v : Nat) : (s.interrupt w v).grants = s.grants := rfl
@[simp] theorem State.interrupt_requests (w v : Nat) : (s.interrupt w v).requests = s.requests := rfl
@[simp] theorem State.interrupt_hostHeld (w v : Nat) : (s.interrupt w v).hostHeld = s.hostHeld := rfl
@[simp] theorem State.interrupt_unverified (w v : Nat) : (s.interrupt w v).unverified = s.unverified := rfl
@[simp] theorem State.interrupt_answers (w v : Nat) : (s.interrupt w v).answers = s.answers := rfl
@[simp] theorem State.interrupt_slices (w v : Nat) : (s.interrupt w v).slices = s.slices := rfl
@[simp] theorem State.interrupt_cores (w v : Nat) : (s.interrupt w v).cores = s.cores := rfl
@[simp] theorem State.interrupt_clusters (w v : Nat) : (s.interrupt w v).clusters = s.clusters := rfl
@[simp] theorem State.interrupt_worlds (w v : Nat) : (s.interrupt w v).worlds = s.worlds := rfl
@[simp] theorem State.interrupt_slots (w v : Nat) : (s.interrupt w v).slots = s.slots := rfl
@[simp] theorem State.interrupt_launches (w v : Nat) : (s.interrupt w v).launches = s.launches := rfl
@[simp] theorem State.interrupt_troupes (w v : Nat) : (s.interrupt w v).troupes = s.troupes := rfl
@[simp] theorem State.interrupt_nextId (w v : Nat) : (s.interrupt w v).nextId = s.nextId := rfl
@[simp] theorem State.interrupt_ports (w v : Nat) : (s.interrupt w v).ports = s.ports := rfl
@[simp] theorem State.interrupt_groups (w v : Nat) : (s.interrupt w v).groups = s.groups := rfl
@[simp] theorem State.interrupt_sliceCmd (w v : Nat) : (s.interrupt w v).sliceCmd = s.sliceCmd := rfl
@[simp] theorem State.interrupt_ctl (w v : Nat) : (s.interrupt w v).ctl = s.ctl := rfl
@[simp] theorem State.interrupt_s2f (w v : Nat) : (s.interrupt w v).s2f = s.s2f := rfl
@[simp] theorem State.interrupt_s2fNext (w v : Nat) : (s.interrupt w v).s2fNext = s.s2fNext := rfl
@[simp] theorem State.interrupt_mgmtPreempt (w v : Nat) : (s.interrupt w v).mgmtPreempt = s.mgmtPreempt := rfl
@[simp] theorem State.interrupt_frozen (w v : Nat) : (s.interrupt w v).frozen = s.frozen := rfl
@[simp] theorem State.interrupt_activation (w v : Nat) : (s.interrupt w v).activation = s.activation := rfl
@[simp] theorem State.interrupt_image (w v : Nat) : (s.interrupt w v).image = s.image := rfl

/-! ### log -/

@[simp] theorem State.log_cycle (w : Nat) (tr : Trap) : (s.log w tr).cycle = s.cycle := rfl
@[simp] theorem State.log_tick (w : Nat) (tr : Trap) : (s.log w tr).tick = s.tick := rfl
@[simp] theorem State.log_bringUp (w : Nat) (tr : Trap) : (s.log w tr).bringUp = s.bringUp := rfl
@[simp] theorem State.log_lockedDown (w : Nat) (tr : Trap) : (s.log w tr).lockedDown = s.lockedDown := rfl
@[simp] theorem State.log_agenda (w : Nat) (tr : Trap) : (s.log w tr).agenda = s.agenda := rfl
@[simp] theorem State.log_cur (w : Nat) (tr : Trap) : (s.log w tr).cur = s.cur := rfl
@[simp] theorem State.log_mem (w : Nat) (tr : Trap) : (s.log w tr).mem = s.mem := rfl
@[simp] theorem State.log_gran (w : Nat) (tr : Trap) : (s.log w tr).gran = s.gran := rfl
@[simp] theorem State.log_copies (w : Nat) (tr : Trap) : (s.log w tr).copies = s.copies := rfl
@[simp] theorem State.log_lines (w : Nat) (tr : Trap) : (s.log w tr).lines = s.lines := rfl
@[simp] theorem State.log_drains (w : Nat) (tr : Trap) : (s.log w tr).drains = s.drains := rfl
@[simp] theorem State.log_grants (w : Nat) (tr : Trap) : (s.log w tr).grants = s.grants := rfl
@[simp] theorem State.log_requests (w : Nat) (tr : Trap) : (s.log w tr).requests = s.requests := rfl
@[simp] theorem State.log_hostHeld (w : Nat) (tr : Trap) : (s.log w tr).hostHeld = s.hostHeld := rfl
@[simp] theorem State.log_unverified (w : Nat) (tr : Trap) : (s.log w tr).unverified = s.unverified := rfl
@[simp] theorem State.log_interrupts (w : Nat) (tr : Trap) : (s.log w tr).interrupts = s.interrupts := rfl
@[simp] theorem State.log_answers (w : Nat) (tr : Trap) : (s.log w tr).answers = s.answers := rfl
@[simp] theorem State.log_slices (w : Nat) (tr : Trap) : (s.log w tr).slices = s.slices := rfl
@[simp] theorem State.log_cores (w : Nat) (tr : Trap) : (s.log w tr).cores = s.cores := rfl
@[simp] theorem State.log_clusters (w : Nat) (tr : Trap) : (s.log w tr).clusters = s.clusters := rfl
@[simp] theorem State.log_slots (w : Nat) (tr : Trap) : (s.log w tr).slots = s.slots := rfl
@[simp] theorem State.log_launches (w : Nat) (tr : Trap) : (s.log w tr).launches = s.launches := rfl
@[simp] theorem State.log_troupes (w : Nat) (tr : Trap) : (s.log w tr).troupes = s.troupes := rfl
@[simp] theorem State.log_nextId (w : Nat) (tr : Trap) : (s.log w tr).nextId = s.nextId := rfl
@[simp] theorem State.log_ports (w : Nat) (tr : Trap) : (s.log w tr).ports = s.ports := rfl
@[simp] theorem State.log_groups (w : Nat) (tr : Trap) : (s.log w tr).groups = s.groups := rfl
@[simp] theorem State.log_sliceCmd (w : Nat) (tr : Trap) : (s.log w tr).sliceCmd = s.sliceCmd := rfl
@[simp] theorem State.log_ctl (w : Nat) (tr : Trap) : (s.log w tr).ctl = s.ctl := rfl
@[simp] theorem State.log_s2f (w : Nat) (tr : Trap) : (s.log w tr).s2f = s.s2f := rfl
@[simp] theorem State.log_s2fNext (w : Nat) (tr : Trap) : (s.log w tr).s2fNext = s.s2fNext := rfl
@[simp] theorem State.log_mgmtPreempt (w : Nat) (tr : Trap) : (s.log w tr).mgmtPreempt = s.mgmtPreempt := rfl
@[simp] theorem State.log_frozen (w : Nat) (tr : Trap) : (s.log w tr).frozen = s.frozen := rfl
@[simp] theorem State.log_activation (w : Nat) (tr : Trap) : (s.log w tr).activation = s.activation := rfl
@[simp] theorem State.log_image (w : Nat) (tr : Trap) : (s.log w tr).image = s.image := rfl

/-! ### What each changes -/

@[simp] theorem State.slice_onSlice_self (k : Nat) (f : Slice → Slice) : (s.onSlice k f).slice k = f (s.slice k) := by
  simp [State.slice, State.onSlice]

theorem State.slice_onSlice_ne {k n : Nat} (f : Slice → Slice) (h : n ≠ k) : (s.onSlice k f).slice n = s.slice n := by
  simp [State.slice, State.onSlice, Tab.getD_set_ne _ _ _ h]

theorem State.slice_onSlice (k n : Nat) (f : Slice → Slice) :
    (s.onSlice k f).slice n = if n = k then f (s.slice k) else s.slice n := by
  split
  · subst n; simp
  · exact s.slice_onSlice_ne f ‹_›

@[simp] theorem State.coreAt_onCore_self (k : Nat) (f : Core → Core) : (s.onCore k f).coreAt k = f (s.coreAt k) := by
  simp [State.coreAt, State.onCore]

theorem State.coreAt_onCore_ne {k n : Nat} (f : Core → Core) (h : n ≠ k) : (s.onCore k f).coreAt n = s.coreAt n := by
  simp [State.coreAt, State.onCore, Tab.getD_set_ne _ _ _ h]

@[simp] theorem State.world_onWorld_self (k : Nat) (f : World → World) : (s.onWorld k f).world k = f (s.world k) := by
  simp [State.world, State.onWorld]

theorem State.world_onWorld_ne {k n : Nat} (f : World → World) (h : n ≠ k) : (s.onWorld k f).world n = s.world n := by
  simp [State.world, State.onWorld, Tab.getD_set_ne _ _ _ h]

theorem State.world_onWorld (k n : Nat) (f : World → World) :
    (s.onWorld k f).world n = if n = k then f (s.world k) else s.world n := by
  split
  · subst n; simp
  · exact s.world_onWorld_ne f ‹_›

@[simp] theorem State.slot_onSlot_self (k : Nat) (f : Slot → Slot) : (s.onSlot k f).slot k = f (s.slot k) := by
  simp [State.slot, State.onSlot]

theorem State.slot_onSlot_ne {k n : Nat} (f : Slot → Slot) (h : n ≠ k) : (s.onSlot k f).slot n = s.slot n := by
  simp [State.slot, State.onSlot, Tab.getD_set_ne _ _ _ h]

@[simp] theorem State.group_onGroup_self (k : Nat) (f : Group → Group) : (s.onGroup k f).group k = f (s.group k) := by
  simp [State.group, State.onGroup]

theorem State.group_onGroup_ne {k n : Nat} (f : Group → Group) (h : n ≠ k) : (s.onGroup k f).group n = s.group n := by
  simp [State.group, State.onGroup, Tab.getD_set_ne _ _ _ h]

@[simp] theorem State.cluster_onCluster_self (k : Nat) (f : Cluster → Cluster) :
    (s.onCluster k f).cluster k = f (s.cluster k) := by simp [State.cluster, State.onCluster]

theorem State.troupes_onTroupe (t n : Nat) (f : Troupe → Troupe) :
    (s.onTroupe t f).troupes.get? n = if n = t then (s.troupes.get? n).map f else s.troupes.get? n :=
  Tab.get?_adjust s.troupes t n f

theorem State.launches_onLaunch (l n : Nat) (f : Launch → Launch) :
    (s.onLaunch l f).launches.get? n = if n = l then (s.launches.get? n).map f else s.launches.get? n :=
  Tab.get?_adjust s.launches l n f

theorem State.setAt?_onSet (t k u n : Nat) (f : SetState → SetState) :
    (s.onSet t k f).setAt? u n = if u = t ∧ n = k then (s.setAt? u n).map f else s.setAt? u n := by
  simp only [State.setAt?, State.onSet, State.troupes_onTroupe]
  by_cases h : u = t
  · subst u
    cases hT : s.troupes.get? t with
    | none => simp
    | some T => simp [Troupe.onSet, Tab.get?_adjust]
  · simp [h]

/-- A counter changes nothing but its world's counters. -/
theorem State.tally_rest (w ev n : Nat) : { s.tally w ev n with worlds := s.worlds } = s := by
  unfold State.tally; split <;> rfl

theorem State.tally_world (w ev n k : Nat) :
    { (s.tally w ev n).world k with
      budget := { ((s.tally w ev n).world k).budget with pctl := (s.world k).budget.pctl } } = s.world k := by
  unfold State.tally
  split
  · rw [State.world_onWorld]; split
    · subst k; rfl
    · rfl
  · rfl

theorem State.tally_eq (w ev n : Nat) : s.tally w ev n = { s with worlds := (s.tally w ev n).worlds } := by
  unfold State.tally; split <;> rfl

@[simp] theorem State.tally_cycle (w ev n : Nat) : (s.tally w ev n).cycle = s.cycle := by rw [State.tally_eq]
@[simp] theorem State.tally_tick (w ev n : Nat) : (s.tally w ev n).tick = s.tick := by rw [State.tally_eq]
@[simp] theorem State.tally_bringUp (w ev n : Nat) : (s.tally w ev n).bringUp = s.bringUp := by rw [State.tally_eq]
@[simp] theorem State.tally_lockedDown (w ev n : Nat) : (s.tally w ev n).lockedDown = s.lockedDown := by rw [State.tally_eq]
@[simp] theorem State.tally_agenda (w ev n : Nat) : (s.tally w ev n).agenda = s.agenda := by rw [State.tally_eq]
@[simp] theorem State.tally_cur (w ev n : Nat) : (s.tally w ev n).cur = s.cur := by rw [State.tally_eq]
@[simp] theorem State.tally_mem (w ev n : Nat) : (s.tally w ev n).mem = s.mem := by rw [State.tally_eq]
@[simp] theorem State.tally_gran (w ev n : Nat) : (s.tally w ev n).gran = s.gran := by rw [State.tally_eq]
@[simp] theorem State.tally_copies (w ev n : Nat) : (s.tally w ev n).copies = s.copies := by rw [State.tally_eq]
@[simp] theorem State.tally_lines (w ev n : Nat) : (s.tally w ev n).lines = s.lines := by rw [State.tally_eq]
@[simp] theorem State.tally_drains (w ev n : Nat) : (s.tally w ev n).drains = s.drains := by rw [State.tally_eq]
@[simp] theorem State.tally_grants (w ev n : Nat) : (s.tally w ev n).grants = s.grants := by rw [State.tally_eq]
@[simp] theorem State.tally_requests (w ev n : Nat) : (s.tally w ev n).requests = s.requests := by rw [State.tally_eq]
@[simp] theorem State.tally_hostHeld (w ev n : Nat) : (s.tally w ev n).hostHeld = s.hostHeld := by rw [State.tally_eq]
@[simp] theorem State.tally_unverified (w ev n : Nat) : (s.tally w ev n).unverified = s.unverified := by rw [State.tally_eq]
@[simp] theorem State.tally_interrupts (w ev n : Nat) : (s.tally w ev n).interrupts = s.interrupts := by rw [State.tally_eq]
@[simp] theorem State.tally_answers (w ev n : Nat) : (s.tally w ev n).answers = s.answers := by rw [State.tally_eq]
@[simp] theorem State.tally_slices (w ev n : Nat) : (s.tally w ev n).slices = s.slices := by rw [State.tally_eq]
@[simp] theorem State.tally_cores (w ev n : Nat) : (s.tally w ev n).cores = s.cores := by rw [State.tally_eq]
@[simp] theorem State.tally_clusters (w ev n : Nat) : (s.tally w ev n).clusters = s.clusters := by rw [State.tally_eq]
@[simp] theorem State.tally_slots (w ev n : Nat) : (s.tally w ev n).slots = s.slots := by rw [State.tally_eq]
@[simp] theorem State.tally_launches (w ev n : Nat) : (s.tally w ev n).launches = s.launches := by rw [State.tally_eq]
@[simp] theorem State.tally_troupes (w ev n : Nat) : (s.tally w ev n).troupes = s.troupes := by rw [State.tally_eq]
@[simp] theorem State.tally_nextId (w ev n : Nat) : (s.tally w ev n).nextId = s.nextId := by rw [State.tally_eq]
@[simp] theorem State.tally_ports (w ev n : Nat) : (s.tally w ev n).ports = s.ports := by rw [State.tally_eq]
@[simp] theorem State.tally_groups (w ev n : Nat) : (s.tally w ev n).groups = s.groups := by rw [State.tally_eq]
@[simp] theorem State.tally_sliceCmd (w ev n : Nat) : (s.tally w ev n).sliceCmd = s.sliceCmd := by rw [State.tally_eq]
@[simp] theorem State.tally_ctl (w ev n : Nat) : (s.tally w ev n).ctl = s.ctl := by rw [State.tally_eq]
@[simp] theorem State.tally_s2f (w ev n : Nat) : (s.tally w ev n).s2f = s.s2f := by rw [State.tally_eq]
@[simp] theorem State.tally_s2fNext (w ev n : Nat) : (s.tally w ev n).s2fNext = s.s2fNext := by rw [State.tally_eq]
@[simp] theorem State.tally_mgmtPreempt (w ev n : Nat) : (s.tally w ev n).mgmtPreempt = s.mgmtPreempt := by rw [State.tally_eq]
@[simp] theorem State.tally_frozen (w ev n : Nat) : (s.tally w ev n).frozen = s.frozen := by rw [State.tally_eq]
@[simp] theorem State.tally_activation (w ev n : Nat) : (s.tally w ev n).activation = s.activation := by rw [State.tally_eq]
@[simp] theorem State.tally_image (w ev n : Nat) : (s.tally w ev n).image = s.image := by rw [State.tally_eq]

end Sys2Proof.Machine
end

