-- ==== Sys2Proof/Laws/Thread.lean ====
section
/-! SUPPORT. A thread's registers and lookahead windows (02 R35), and the queue ports of a set (09 R203-R205). -/

namespace Sys2Proof.Machine

/-! ### Registers -/

@[simp] theorem Thread.get_put_self (th : Thread) (r : Nat) (x : Word) : (th.put r x).get r = x := by
  simp [Thread.get, Thread.put]

theorem Thread.get_put_ne (th : Thread) {r n : Nat} (x : Word) (h : n ≠ r) : (th.put r x).get n = th.get n := by
  simp [Thread.get, Thread.put, Tab.getD_set_ne _ _ _ h]

theorem mem_put_win {th : Thread} {r : Nat} {x : Word} {w : Window} (h : w ∈ (th.put r x).win) :
    w.dst.get? r = none ∧ ∃ w0 ∈ th.win, w.left = w0.left ∧ w.req = w0.req ∧
      ∀ n, (w.dst.get? n).isSome = true → (w0.dst.get? n).isSome = true := by
  simp only [Thread.put, List.mem_map] at h
  obtain ⟨w0, h0, rfl⟩ := h
  refine ⟨by simp [Tab.get?_del], w0, h0, rfl, rfl, fun n hn => ?_⟩
  rw [Tab.get?_del] at hn
  split at hn
  · simp at hn
  · exact hn

theorem not_ripe_put_self (th : Thread) (r : Nat) (x : Word) : ¬ Ripe (th.put r x) r := by
  rintro ⟨w, hw, -, -, hs⟩
  rw [(mem_put_win hw).1] at hs
  simp at hs

theorem ripe_of_put {th : Thread} {r n : Nat} {x : Word} (h : Ripe (th.put r x) n) : Ripe th n := by
  obtain ⟨w, hw, hl, hr, hs⟩ := h
  obtain ⟨-, w0, h0, el, er, hd⟩ := mem_put_win hw
  exact ⟨w0, h0, el ▸ hl, er ▸ hr, hd n hs⟩

theorem ripe_of_puts {n : Nat} (ws : List (Nat × Word)) (th : Thread) (h : Ripe (th.puts ws) n) : Ripe th n := by
  induction ws generalizing th with
  | nil => exact h
  | cons e ws ih => exact ripe_of_put (ih (th.put e.1 e.2) h)

theorem get_puts_other {r : Nat} (ws : List (Nat × Word)) (th : Thread) (h : ∀ e ∈ ws, e.1 ≠ r) :
    (th.puts ws).get r = th.get r := by
  induction ws generalizing th with
  | nil => rfl
  | cons e ws ih =>
    rw [Thread.puts, List.foldl_cons]
    exact (ih (th.put e.1 e.2) (fun x hx => h x (List.mem_cons_of_mem _ hx))).trans
      (Thread.get_put_ne th e.2 (Ne.symm (h e List.mem_cons_self)))

theorem get_puts {e : Nat × Word} (ws : List (Nat × Word)) (th : Thread) (hn : (ws.map (·.1)).Nodup) (he : e ∈ ws) :
    (th.puts ws).get e.1 = e.2 ∧ ¬ Ripe (th.puts ws) e.1 := by
  induction ws generalizing th with
  | nil => cases he
  | cons a ws ih =>
    rw [List.map_cons, List.nodup_cons] at hn
    rcases List.mem_cons.mp he with rfl | he
    · have hne : ∀ x ∈ ws, x.1 ≠ e.1 := fun x hx h => hn.1 (List.mem_map.mpr ⟨x, hx, h⟩)
      refine ⟨(get_puts_other ws (th.put e.1 e.2) hne).trans (Thread.get_put_self _ _ _), fun h => ?_⟩
      exact not_ripe_put_self th e.1 e.2 (ripe_of_puts ws (th.put e.1 e.2) h)
    · exact ih (th.put a.1 a.2) hn.2 he

/-- Counting an instruction changes only registers that a window about to end holds. -/
theorem get_tick {th : Thread} {r : Nat} (h : ¬ Ripe th r) : th.tick.get r = th.get r := by
  have key : ∀ (ws : List Window) (v : Tab Word),
      (∀ w ∈ ws, w.dst.get? r = none) →
      Tab.getD (ws.foldl (fun v w => w.dst.foldl (fun v e => v.set e.1 e.2) v) v) r 0 = Tab.getD v r 0 := by
    intro ws
    induction ws with
    | nil => intro v _; rfl
    | cons w ws ih =>
      intro v hw
      rw [List.foldl_cons, ih _ (fun x hx => hw x (List.mem_cons_of_mem _ hx)),
        Tab.getD_foldl_set_ne _ _ _ _ (hw w List.mem_cons_self)]
  refine key _ th.v (fun w hw => ?_)
  simp only [List.mem_filter, List.mem_map, Bool.and_eq_true, beq_iff_eq] at hw
  obtain ⟨⟨w0, h0, rfl⟩, hl, hr⟩ := hw
  by_cases hs : (w0.dst.get? r).isSome = true
  · exact absurd ⟨w0, h0, by simp only at hl; omega, hr, hs⟩ h
  · exact Option.not_isSome_iff_eq_none.mp hs

theorem foldl_del_get? (rs : List Nat) (d : Tab Word) (n : Nat) (h : (Tab.get? (rs.foldl (fun d r => d.del r) d) n).isSome = true) :
    (d.get? n).isSome = true := by
  induction rs generalizing d with
  | nil => exact h
  | cons r rs ih =>
    have := ih (d.del r) h
    rw [Tab.get?_del] at this
    split at this
    · simp at this
    · exact this

theorem ripe_of_drops {th : Thread} {rs : List Nat} {n : Nat} (h : Ripe (th.drops rs) n) : Ripe th n := by
  obtain ⟨w, hw, hl, hr, hs⟩ := h
  simp only [Thread.drops, List.mem_map] at hw
  obtain ⟨w0, h0, rfl⟩ := hw
  exact ⟨w0, h0, hl, hr, foldl_del_get? rs w0.dst n hs⟩

theorem write_other {th : Thread} {ahead r : Nat} {ws : List (Nat × Word)} (h : ∀ e ∈ ws, e.1 ≠ r) (hr : ¬ Ripe th r) :
    (th.write ahead ws).get r = th.get r := by
  unfold Thread.write
  split
  · rw [get_tick (fun h' => hr (ripe_of_puts ws th h')), get_puts_other ws th h]
  · exact get_tick (fun h' => hr (ripe_of_drops h'))

theorem get?_foldl_set {e : Nat × Word} (ws : List (Nat × Word)) (d : Tab Word) (hn : (ws.map (·.1)).Nodup) (he : e ∈ ws) :
    Tab.get? (ws.foldl (fun d e => d.set e.1 e.2) d) e.1 = some e.2 := by
  have other : ∀ (ws : List (Nat × Word)) (d : Tab Word), (∀ x ∈ ws, x.1 ≠ e.1) →
      Tab.get? (ws.foldl (fun d e => d.set e.1 e.2) d) e.1 = Tab.get? d e.1 := by
    intro ws
    induction ws with
    | nil => intro d _; rfl
    | cons a ws ih =>
      intro d h
      rw [List.foldl_cons, ih _ (fun x hx => h x (List.mem_cons_of_mem _ hx)),
        Tab.get?_set_ne _ _ (Ne.symm (h a List.mem_cons_self))]
  induction ws generalizing d with
  | nil => cases he
  | cons a ws ih =>
    rw [List.map_cons, List.nodup_cons] at hn
    rcases List.mem_cons.mp he with rfl | he
    · rw [List.foldl_cons, other ws _ (fun x hx h => hn.1 (List.mem_map.mpr ⟨x, hx, h⟩)), Tab.get?_set_self]
    · exact ih _ hn.2 he

/-- A result is held as the lookahead count asks. -/
theorem holds_write {th : Thread} {ahead : Nat} {ws : List (Nat × Word)} {e : Nat × Word} (hn : (ws.map (·.1)).Nodup)
    (he : e ∈ ws) : Holds (th.write ahead ws) ahead e.1 e.2 := by
  unfold Holds Thread.write
  split
  · obtain ⟨h1, h2⟩ := get_puts ws th hn he
    rw [get_tick h2, h1]
  · exact ⟨_, List.getLast?_concat, rfl, rfl, get?_foldl_set ws [] hn he⟩

/-! ### What a write leaves alone -/

theorem Thread.tick_eq (th : Thread) : th.tick = { th with v := th.tick.v, win := th.tick.win } := rfl

theorem Thread.put_eq (th : Thread) (r : Nat) (x : Word) :
    th.put r x = { th with v := (th.put r x).v, win := (th.put r x).win } := rfl

theorem Thread.puts_eq (ws : List (Nat × Word)) (th : Thread) :
    th.puts ws = { th with v := (th.puts ws).v, win := (th.puts ws).win } := by
  induction ws generalizing th with
  | nil => rfl
  | cons e ws ih => exact ih (th.put e.1 e.2)

theorem Thread.write_eq (th : Thread) (ahead : Nat) (ws : List (Nat × Word)) :
    th.write ahead ws = { th with v := (th.write ahead ws).v, win := (th.write ahead ws).win } := by
  unfold Thread.write
  split
  · rw [Thread.tick_eq, Thread.puts_eq]
  · rfl

/-! ### Lanes -/

theorem SetState.lane_onLanes (S : SetState) (m : Word) (f : Nat → Thread → Thread) (j : Nat) :
    (S.onLanes m f).lane j = if inMask m j = true ∧ j < S.threads.length then f j (S.lane j) else S.lane j := by
  simp only [SetState.lane, SetState.onLanes, List.getD_eq_getElem?_getD, List.getElem?_mapIdx]
  by_cases h : j < S.threads.length
  · simp only [List.getElem?_eq_getElem h, Option.map_some, Option.getD_some, h, and_true]
  · simp [h]

theorem SetState.lt_of_live {S : SetState} {j : Nat} (h : (S.lane j).live = true) : j < S.threads.length := by
  by_cases hj : j < S.threads.length
  · exact hj
  · simp [SetState.lane, List.getD_eq_getElem?_getD, List.getElem?_eq_none (Nat.le_of_not_lt hj), Thread.fresh] at h

/-! ### Ports -/

/-- Words of a port. -/
def SetState.words (S : SetState) (q : Nat) : List (List Word) := (S.port q).map (·.words)

theorem SetState.words_def (S : SetState) (q : Nat) : S.words q = (S.port q).map (·.words) := rfl

theorem map_words_modAt (q : List Entry) (n : Nat) (f : Entry → Entry) (h : ∀ e, (f e).words = e.words) :
    (modAt q n f).map (·.words) = q.map (·.words) := by
  induction q generalizing n with
  | nil => rfl
  | cons e q ih => cases n <;> simp [modAt, h, ih]

theorem SetState.words_take (S : SetState) (n q : Nat) : (S.take n).words q = S.words q := by
  unfold SetState.words SetState.port SetState.take
  by_cases h : q = n
  · subst h
    by_cases hl : q < S.ports.length
    · simp only [modAt_getD_self _ _ _ _ hl]
      split
      · exact map_words_modAt _ _ _ (fun _ => rfl)
      · rfl
    · rw [modAt_of_ge _ _ _ (Nat.le_of_not_lt hl)]
  · simp only [modAt_getD_ne _ _ _ _ _ h]

theorem SetState.words_shift (S : SetState) (q : Nat) : S.portsShift.words q = S.words q := by
  unfold SetState.words SetState.port SetState.portsShift
  simp only [List.getD_eq_getElem?_getD, List.getElem?_map]
  cases S.ports[q]? <;> simp [Function.comp_def]

theorem SetState.words_push_ne (S : SetState) {n q : Nat} (e : Entry) (h : q ≠ n) : (S.push n e).words q = S.words q := by
  unfold SetState.words SetState.port SetState.push
  simp only [modAt_getD_ne _ _ _ _ _ h]

theorem SetState.words_push_self (S : SetState) {q : Nat} (e : Entry) (h : q < S.ports.length) :
    (S.push q e).words q = S.words q ++ [e.words] := by
  unfold SetState.words SetState.port SetState.push
  simp only [modAt_getD_self _ _ _ _ h, List.map_append, List.map_cons, List.map_nil]

/-- Taking heads touches the ports only. -/
theorem takes_eq (qs : List Nat) (S : SetState) :
    qs.foldl (fun S j => S.take j) S = { S with ports := (qs.foldl (fun S j => S.take j) S).ports } := by
  induction qs generalizing S with
  | nil => rfl
  | cons q qs ih => rw [List.foldl_cons]; exact ih (S.take q)

theorem takes_words (qs : List Nat) (S : SetState) (q : Nat) : (qs.foldl (fun S j => S.take j) S).words q = S.words q := by
  induction qs generalizing S with
  | nil => rfl
  | cons n qs ih => rw [List.foldl_cons, ih, SetState.words_take]

theorem takes_length (qs : List Nat) (S : SetState) :
    (qs.foldl (fun S j => S.take j) S).ports.length = S.ports.length := by
  induction qs generalizing S with
  | nil => rfl
  | cons n qs ih => rw [List.foldl_cons, ih]; simp [SetState.take, modAt_length]

/-- Closing a chunk keeps the threads and the words of the ports. -/
theorem SetState.close_eq (S : SetState) :
    S.close = { S with ports := S.close.ports, chunk := S.close.chunk, closing := S.close.closing } := by
  unfold SetState.close SetState.shift
  split
  · split
    · rfl
    · rfl
  · rfl

theorem SetState.close_words (S : SetState) (q : Nat) : S.close.words q = S.words q := by
  unfold SetState.close SetState.shift
  split
  · split
    · exact SetState.words_shift _ q
    · rfl
  · rfl

end Sys2Proof.Machine
end

