-- ==== Sys2Proof/Laws/Issue.lean ====
section
/-! SUPPORT. What the issue of a step instruction establishes (20 R414, R415; 13 R293), once for every instruction. -/

namespace Sys2Proof.Machine

/-- Opening, counting and closing chunks touch a set's chunks and port marks only. -/
theorem SetState.shift_eq (S : SetState) :
    S.shift = { S with ports := S.shift.ports, chunk := S.shift.chunk, closing := S.shift.closing } := by
  unfold SetState.shift
  split
  · split <;> rfl
  · rfl

theorem SetState.enter_eq {S S1 : SetState} {pc : Nat} {lone before : Bool} (h : S.enter pc lone before = some S1) :
    S1 = { S with ports := S1.ports, chunk := S1.chunk, closing := S1.closing } := by
  unfold SetState.enter at h
  dsimp only at h
  have hs := S.shift_eq
  generalize hX : S.shift = X at h hs
  have hc := X.close_eq
  generalize X.close = Y at h hc
  split at h
  · split at h
    · cases h
    · split at h
      · split at h
        · cases h
        · cases h; rw [hc, hs]; rfl
      · split at h
        · cases h; rw [hs]
        · cases h; rw [hs]; rfl
  · split at h
    · split at h
      · cases h; rw [hs]
      · cases h
    · cases h; rw [hs]; rfl

/-- What holds when an instruction issues. -/
structure Issued (s : State) (i : Instr) (c : Ctx) (f : Figure) (S : SetState) : Prop where
  figure : s.figure? = some (f, c.issue)
  troupe : c.t = f.troupe
  set : c.k = f.set
  placed : s.troupes.get? c.t = some c.T
  found : s.setAt? c.t c.k = some S
  same : c.S = { S with ports := c.S.ports, chunk := c.S.chunk, closing := c.S.closing }
  ready : canIssue s c.T S = true
  mask : c.mask = f.here c.issue S
  nonempty : c.mask ≠ 0
  act : c.act = activeOf i c.issue S c.mask
  whole : convergentIn i S.handler.isSome = true → c.mask = S.live
  entered : S.enterAt c.T c.issue.group (standsAlone i c.issue c.T S c.act) (closesBefore i c.T) = some c.S
  ports : portsWait i S = []
  now : c.now = s.cycle.toNat

theorem issued {s : State} {i : Instr} {c : Ctx} (h : Issues s i c) : ∃ f S, Issued s i c f S := by
  unfold Issues stepGo at h
  split at h
  · cases h
  · rename_i f u hf
    split at h
    · rename_i T S hT hS
      dsimp only at h
      split at h
      · cases h
      rename_i hgo
      simp only [Bool.not_eq_true, Bool.or_eq_false_iff, Bool.not_eq_false', beq_eq_false_iff_ne] at hgo
      split at h
      · cases h
      rename_i hconv
      split at h
      · cases h
      split at h
      · cases h
      split at h
      · cases h
      split at h
      · cases h
      rename_i S1 hS1
      split at h
      · cases h
      split at h
      · split at h <;> cases h
      rename_i hp
      cases h
      refine ⟨f, S, hf, rfl, rfl, hT, hS, ?_, hgo.1, rfl, hgo.2, rfl, ?_, hS1, by simpa using hp, rfl⟩
      · unfold SetState.enterAt at hS1
        split at hS1
        · cases hS1; rfl
        · exact SetState.enter_eq hS1
      · intro hc
        by_cases hm : f.here u S = S.live
        · exact hm
        · exact absurd (by simp [hc, hm]) hconv
    · cases h

namespace Issued

variable {s : State} {i : Instr} {c : Ctx} {f : Figure} {S : SetState}

theorem lane (h : Issued s i c f S) (j : Nat) : c.S.lane j = S.lane j := by
  rw [h.same]; rfl

theorem live (h : Issued s i c f S) {j : Nat} (hj : inMask c.mask j = true) : (c.S.lane j).live = true := by
  rw [h.mask, Figure.here, inMask_maskOf] at hj
  simp only [Bool.and_eq_true] at hj
  have := hj.2.1.2
  simp only [Thread.ready, Bool.and_eq_true] at this
  rw [h.lane]; exact this.1

theorem lt (h : Issued s i c f S) {j : Nat} (hj : inMask c.mask j = true) : j < c.S.threads.length :=
  SetState.lt_of_live (h.live hj)

theorem act_sub (h : Issued s i c f S) {j : Nat} (hj : inMask c.act j = true) : inMask c.mask j = true := by
  rw [h.act, activeOf] at hj
  split at hj
  · split at hj
    · exact hj
    · rw [inMask_maskOf] at hj
      simp only [Bool.and_eq_true] at hj
      exact hj.2.1
  · exact hj

end Issued
end Sys2Proof.Machine
end

