-- ==== Sys2Proof/Laws/Memory.lean ====
section
/-! SUPPORT. Byte memory: every operation keeps the canonical form, and what a read after a write gives. -/

namespace Sys2Proof.Machine

/-- Every entry of a memory lies above an address. -/
def Memory.Above (n : Nat) (m : Memory) : Prop := ∀ e ∈ m, n < e.1

/-- The canonical form, entry by entry: the first one is not blank, and the others lie above it in canonical form. -/
theorem Memory.wf_cons (a : Nat) (b : Byte) (t : Memory) :
    Memory.wf ((a, b) :: t) = true ↔ b ≠ Memory.blank ∧ Memory.Above a t ∧ Memory.wf t = true := by
  induction t generalizing a b with
  | nil => simp [Memory.wf, Memory.Above]
  | cons e t ih =>
    obtain ⟨c, d⟩ := e
    simp only [Memory.wf, Bool.and_eq_true, bne_iff_ne, decide_eq_true_eq]
    constructor
    · rintro ⟨⟨hb, hac⟩, ht⟩
      refine ⟨hb, fun e he => ?_, ht⟩
      rcases List.mem_cons.mp he with rfl | he
      · exact hac
      · exact Nat.lt_trans hac (((ih c d).mp ht).2.1 e he)
    · rintro ⟨hb, ha, ht⟩
      exact ⟨⟨hb, ha (c, d) (List.mem_cons_self ..)⟩, ht⟩

theorem Memory.wf_tail {e : Host.Cell} {t : Memory} (h : Memory.wf (e :: t) = true) : Memory.wf t = true :=
  ((Memory.wf_cons e.1 e.2 t).mp h).2.2

theorem Memory.Above.cons {n a : Nat} {b : Byte} {t : Memory} (ha : n < a) (ht : Memory.Above n t) :
    Memory.Above n (Memory.cons a b t) := by
  unfold Memory.cons
  split
  · exact ht
  · intro e he
    rcases List.mem_cons.mp he with rfl | he
    · exact ha
    · exact ht e he

theorem Memory.wf_consOp {a : Nat} {b : Byte} {t : Memory} (ha : Memory.Above a t) (ht : Memory.wf t = true) :
    Memory.wf (Memory.cons a b t) = true := by
  unfold Memory.cons
  split
  · exact ht
  · exact (Memory.wf_cons a b t).mpr ⟨‹_›, ha, ht⟩

theorem Memory.Above.write {n a : Nat} {b : Byte} {m : Memory} (ha : n < a) (hm : Memory.Above n m) :
    Memory.Above n (Memory.write m a b) := by
  induction m with
  | nil => exact Memory.Above.cons ha hm
  | cons e t ih =>
    obtain ⟨k, c⟩ := e
    have ht : Memory.Above n t := fun e he => hm e (List.mem_cons_of_mem _ he)
    unfold Memory.write
    split
    · exact Memory.Above.cons ha hm
    · split
      · exact Memory.Above.cons ha ht
      · intro e he
        rcases List.mem_cons.mp he with rfl | he
        · exact hm _ (List.mem_cons_self ..)
        · exact ih ht e he

/-- Writing a byte keeps the canonical form. -/
theorem Memory.wf_write (m : Memory) (a : Nat) (b : Byte) (h : Memory.wf m = true) :
    Memory.wf (Memory.write m a b) = true := by
  induction m with
  | nil => exact Memory.wf_consOp (by simp [Memory.Above]) rfl
  | cons e t ih =>
    obtain ⟨k, c⟩ := e
    obtain ⟨hc, hk, ht⟩ := (Memory.wf_cons k c t).mp h
    unfold Memory.write
    split
    · rename_i hak
      refine Memory.wf_consOp (fun e he => ?_) h
      rcases List.mem_cons.mp he with rfl | he
      · exact hak
      · exact Nat.lt_trans hak (hk e he)
    · split
      · rename_i hak
        exact Memory.wf_consOp (hak ▸ hk) ht
      · exact (Memory.wf_cons ..).mpr ⟨hc, Memory.Above.write (by omega) hk, ih ht⟩

theorem Memory.wf_writeBytes (bs : List Byte) : ∀ (m : Memory) (a : Nat), Memory.wf m = true →
    Memory.wf (Memory.writeBytes m a bs) = true := by
  induction bs with
  | nil => exact fun _ _ h => h
  | cons b bs ih => exact fun m a h => ih _ _ (Memory.wf_write m a b h)

theorem Memory.wf_writeTab (t : Tab Byte) : ∀ m : Memory, Memory.wf m = true →
    Memory.wf (Memory.writeTab m t) = true := by
  induction t with
  | nil => exact fun _ h => h
  | cons e t ih => exact fun m h => ih _ (Memory.wf_write m e.1 e.2 h)

theorem Memory.wf_filter (p : Host.Cell → Bool) (m : Memory) (h : Memory.wf m = true) :
    Memory.wf (List.filter p m) = true := by
  induction m with
  | nil => rfl
  | cons e t ih =>
    obtain ⟨k, c⟩ := e
    obtain ⟨hc, hk, ht⟩ := (Memory.wf_cons k c t).mp h
    rw [List.filter_cons]
    split
    · exact (Memory.wf_cons ..).mpr ⟨hc, fun e he => hk e (List.mem_filter.mp he).1, ih ht⟩
    · exact ih ht

theorem Memory.wf_reset : Memory.wf State.reset.mem = true := rfl

theorem Memory.read_of_above {n : Nat} {m : Memory} (h : Memory.Above n m) : Memory.read m n = Memory.blank := by
  cases m with
  | nil => rfl
  | cons e t =>
    have := h e (List.mem_cons_self ..)
    simp only [Memory.read]
    rw [if_neg (by omega), if_pos this]

theorem Memory.read_cons_self {a : Nat} {b : Byte} {t : Memory} (ht : Memory.Above a t) :
    Memory.read (Memory.cons a b t) a = b := by
  unfold Memory.cons
  split
  · subst b; exact Memory.read_of_above ht
  · simp [Memory.read]

theorem Memory.read_cons_ne {a x : Nat} {b : Byte} {t : Memory} (ht : Memory.Above a t) (hx : x ≠ a) :
    Memory.read (Memory.cons a b t) x = Memory.read t x := by
  unfold Memory.cons
  split
  · rfl
  · simp only [Memory.read]
    rw [if_neg hx]
    split
    · exact (Memory.read_of_above (fun e he => by have := ht e he; omega)).symm
    · rfl

/-- A byte just written reads back. -/
theorem Memory.read_write_self (m : Memory) (a : Nat) (b : Byte) (h : Memory.wf m = true) :
    Memory.read (Memory.write m a b) a = b := by
  induction m with
  | nil => exact Memory.read_cons_self (by simp [Memory.Above])
  | cons e t ih =>
    obtain ⟨k, c⟩ := e
    obtain ⟨hc, hk, ht⟩ := (Memory.wf_cons k c t).mp h
    unfold Memory.write
    split
    · rename_i hak
      refine Memory.read_cons_self (fun e he => ?_)
      rcases List.mem_cons.mp he with rfl | he
      · exact hak
      · exact Nat.lt_trans hak (hk e he)
    · split
      · rename_i hak
        subst hak
        exact Memory.read_cons_self hk
      · simp only [Memory.read]
        rw [if_neg ‹_›, if_neg ‹_›, ih ht]

/-- A write leaves every other byte as it was. -/
theorem Memory.read_write_ne (m : Memory) {a x : Nat} (b : Byte) (h : Memory.wf m = true) (hx : x ≠ a) :
    Memory.read (Memory.write m a b) x = Memory.read m x := by
  induction m with
  | nil => exact Memory.read_cons_ne (by simp [Memory.Above]) hx
  | cons e t ih =>
    obtain ⟨k, c⟩ := e
    obtain ⟨hc, hk, ht⟩ := (Memory.wf_cons k c t).mp h
    unfold Memory.write
    split
    · rename_i hak
      refine Memory.read_cons_ne (fun e he => ?_) hx
      rcases List.mem_cons.mp he with rfl | he
      · exact hak
      · exact Nat.lt_trans hak (hk e he)
    · split
      · rename_i hak
        subst hak
        rw [Memory.read_cons_ne hk hx]
        simp only [Memory.read]
        rw [if_neg hx]
        split
        · exact Memory.read_of_above (fun e he => by have := hk e he; omega)
        · rfl
      · simp only [Memory.read]
        rw [ih ht]

/-- A write of bytes leaves every byte outside them as it was. -/
theorem Memory.read_writeBytes_outside (bs : List Byte) : ∀ (m : Memory) (a x : Nat), Memory.wf m = true →
    (x < a ∨ a + bs.length ≤ x) → Memory.read (Memory.writeBytes m a bs) x = Memory.read m x := by
  induction bs with
  | nil => exact fun _ _ _ _ _ => rfl
  | cons b bs ih =>
    intro m a x h hx
    have hl : (b :: bs).length = bs.length + 1 := rfl
    unfold Memory.writeBytes
    rw [ih _ _ _ (Memory.wf_write m a b h) (by omega), Memory.read_write_ne m b h (by omega)]

/-- Bytes just written read back. -/
theorem Memory.read_writeBytes (bs : List Byte) : ∀ (m : Memory) (a i : Nat), Memory.wf m = true →
    (hi : i < bs.length) → Memory.read (Memory.writeBytes m a bs) (a + i) = bs[i] := by
  induction bs with
  | nil => exact fun _ _ _ _ hi => absurd hi (by simp)
  | cons b bs ih =>
    intro m a i h hi
    unfold Memory.writeBytes
    cases i with
    | zero =>
      rw [Memory.read_writeBytes_outside _ _ _ _ (Memory.wf_write m a b h) (by omega)]
      exact Memory.read_write_self m a b h
    | succ i =>
      have := ih (m.write a b) (a + 1) i (Memory.wf_write m a b h) (by simpa using hi)
      rw [show a + (i + 1) = a + 1 + i by omega, this]
      rfl

/-- Equal reads at every address are equal memories: the form is canonical. -/
theorem Memory.ext_read : ∀ (m n : Memory), Memory.wf m = true → Memory.wf n = true →
    (∀ a, Memory.read m a = Memory.read n a) → m = n := by
  intro m
  induction m with
  | nil =>
    intro n _ hn h
    cases n with
    | nil => rfl
    | cons e t =>
      obtain ⟨k, c⟩ := e
      have := h k
      simp only [Memory.read, if_true] at this
      exact absurd this.symm ((Memory.wf_cons k c t).mp hn).1
  | cons e t ih =>
    obtain ⟨k, c⟩ := e
    intro n hm hn h
    obtain ⟨hc, hk, ht⟩ := (Memory.wf_cons k c t).mp hm
    cases n with
    | nil =>
      have := h k
      simp only [Memory.read, if_true] at this
      exact absurd this hc
    | cons e2 t2 =>
      obtain ⟨k2, c2⟩ := e2
      obtain ⟨hc2, hk2, ht2⟩ := (Memory.wf_cons k2 c2 t2).mp hn
      have hkk : k = k2 := by
        rcases Nat.lt_trichotomy k k2 with hlt | heq | hgt
        · have := h k
          simp only [Memory.read, if_true] at this
          rw [if_neg (by omega), if_pos hlt] at this
          exact absurd this hc
        · exact heq
        · have := h k2
          simp only [Memory.read, if_true] at this
          rw [if_neg (by omega), if_pos hgt] at this
          exact absurd this.symm hc2
      subst hkk
      have hcc : c = c2 := by simpa [Memory.read] using h k
      subst hcc
      rw [ih t2 ht ht2 (fun a => ?_)]
      have ha := h a
      simp only [Memory.read] at ha
      by_cases hak : a = k
      · subst hak
        rw [Memory.read_of_above hk, Memory.read_of_above hk2]
      · simp only [if_neg hak] at ha
        by_cases hlt : a < k
        · rw [Memory.read_of_above (fun e he => by have := hk e he; omega),
            Memory.read_of_above (fun e he => by have := hk2 e he; omega)]
        · simpa only [if_neg hlt] using ha

end Sys2Proof.Machine
end

