-- ==== Sys2Proof/Laws/Retire.lean ====
section
/-! SUPPORT. What a step instruction that reads and writes registers only does: one result for `SetState.retire`, `State.done`
and `vecOp`, which every such instruction cites. -/

namespace Sys2Proof.Machine

/-- The set before an instruction's chunk may close. -/
def SetState.advance (c : Ctx) (i : Instr) (regs : Nat → List (Nat × Word)) (f : Nat → Thread → Thread)
    (next : Nat → Nat) : SetState :=
  let S := (popsOf i).foldl (fun S j => S.take j) c.S
  let S := match pushOf i with
    | some q => S.push q { words := pushWords c regs q, taken := 0, pushed := 2 }
    | none => S
  S.onLanes c.mask (stepThread c i.ahead regs f next)

theorem SetState.advance_eq (c : Ctx) (i : Instr) (regs f next) :
    SetState.advance c i regs f next =
      { c.S with
        ports := (SetState.advance c i regs f next).ports
        threads := c.S.threads.mapIdx (fun j th => if inMask c.mask j then stepThread c i.ahead regs f next j th else th) } := by
  unfold SetState.advance
  have h := takes_eq (popsOf i) c.S
  generalize (popsOf i).foldl (fun S j => S.take j) c.S = X at h
  dsimp only
  split
  · rw [h]; rfl
  · rw [h]; rfl

theorem SetState.advance_lane (c : Ctx) (i : Instr) (regs f next) (j : Nat) :
    (SetState.advance c i regs f next).lane j =
      if inMask c.mask j = true ∧ j < c.S.threads.length then stepThread c i.ahead regs f next j (c.S.lane j)
      else c.S.lane j := by
  have h := SetState.lane_onLanes c.S c.mask (stepThread c i.ahead regs f next) j
  rw [← h, SetState.advance_eq]; rfl

theorem SetState.retire_def (c : Ctx) (i : Instr) (regs f next) :
    SetState.retire c i regs f next =
      match (SetState.advance c i regs f next).chunk with
      | some k => if k.count = 1024 && !k.stored && k.tx == none then (SetState.advance c i regs f next).close
          else SetState.advance c i regs f next
      | none =>
        if opensNext i && c.act != 0 && !c.T.place.isUnit then
          ((SetState.advance c i regs f next).portsShift.portsCommit.openChunk c.issue.group c.next).onChunk (fun k => { k with count := 1 })
        else (SetState.advance c i regs f next).portsShift.portsCommit := rfl

/-- What `retire` changes: threads, ports and, when the chunk closes, the chunks. -/
theorem SetState.retire_eq (c : Ctx) (i : Instr) (regs f next) :
    SetState.retire c i regs f next =
      { c.S with
        ports := (SetState.retire c i regs f next).ports
        chunk := (SetState.retire c i regs f next).chunk
        closing := (SetState.retire c i regs f next).closing
        threads := c.S.threads.mapIdx (fun j th => if inMask c.mask j then stepThread c i.ahead regs f next j th else th) } := by
  rw [SetState.retire_def]
  have h := SetState.advance_eq c i regs f next
  have hc := (SetState.advance c i regs f next).close_eq
  generalize SetState.advance c i regs f next = X at h hc ⊢
  split
  · split
    · rw [hc, h]
    · rw [h]
  · split <;> rw [h] <;> rfl

theorem SetState.retire_lane (c : Ctx) (i : Instr) (regs f next) (j : Nat) :
    (SetState.retire c i regs f next).lane j =
      if inMask c.mask j = true ∧ j < c.S.threads.length then stepThread c i.ahead regs f next j (c.S.lane j)
      else c.S.lane j := by
  rw [← SetState.advance_lane, SetState.retire_eq, SetState.advance_eq]; rfl

theorem SetState.retire_chunk (c : Ctx) (i : Instr) (regs f next) :
    KeepsChunk c i (SetState.retire c i regs f next) := by
  unfold KeepsChunk
  have hc : (SetState.advance c i regs f next).chunk = c.S.chunk := by rw [SetState.advance_eq]
  have hd : (SetState.advance c i regs f next).closing = c.S.closing := by rw [SetState.advance_eq]
  rw [SetState.retire_def]
  generalize SetState.advance c i regs f next = X at hc hd ⊢
  cases hk : c.S.chunk with
  | none =>
    rw [hk] at hc; simp only [hc]
    refine ⟨?_, fun h => ?_, fun h1 h2 h3 => ?_⟩
    · split <;> exact hd
    · rw [if_neg]
      · exact hc
      · rcases h with h | h | h <;> simp [h]
    · rw [if_pos (by simp only [h1, h3, Bool.not_false, Bool.and_true, Bool.true_and]; exact bne_iff_ne.mpr h2)]
      exact ⟨_, rfl, rfl, rfl, rfl, rfl⟩
  | some k =>
    rw [hk] at hc; simp only [hc]
    intro h
    rw [if_neg]
    · exact ⟨hc, hd⟩
    · rcases h with h | h | h
      · simp [h]
      · simp [h]
      · rw [Option.isSome_iff_ne_none] at h; simp [h]

theorem SetState.retire_ports (c : Ctx) (i : Instr) (regs f next) (h : c.S.chunk.isSome = true) :
    PortsAfter c i (SetState.retire c i regs f next) regs := by
  have hw : ∀ q, (SetState.retire c i regs f next).words q = (SetState.advance c i regs f next).words q := by
    intro q
    have hc : (SetState.advance c i regs f next).chunk = c.S.chunk := by rw [SetState.advance_eq]
    rw [SetState.retire_def]
    generalize SetState.advance c i regs f next = X at hc ⊢
    obtain ⟨k, hk⟩ := Option.isSome_iff_exists.mp h
    rw [hk] at hc; simp only [hc]
    split
    · exact SetState.close_words X q
    · rfl
  have hl := takes_length (popsOf i) c.S
  have ht := fun q => takes_words (popsOf i) c.S q
  refine ⟨fun q hq hlt => ?_, fun q hq => ?_⟩
  · have : (SetState.advance c i regs f next).words q = c.S.words q ++ [pushWords c regs q] := by
      rw [← ht q]
      unfold SetState.advance
      rw [hq]
      exact SetState.words_push_self _ _ (by rw [hl]; exact hlt)
    rw [← List.getLast?_map, ← SetState.words_def, hw, this, List.getLast?_concat]; rfl
  · rw [← SetState.words_def, ← SetState.words_def, hw, ← ht q]
    unfold SetState.advance
    split
    · rename_i n hn
      exact SetState.words_push_ne _ _ (fun e => hq (by rw [hn, e]))
    · rfl

/-! ### Names of physical registers (09 R199-R201) -/

theorem setAt?_bare {s : State} {t k : Nat} : s.bare.setAt? t k = (s.setAt? t k).map SetState.bare := by
  simp only [State.setAt?, State.bare, Tab.get?_map]
  cases s.troupes.get? t with
  | none => rfl
  | some T => simp [Troupe.bare, Tab.get?_map]

/-- A change of a set's names is none of the bare state. -/
theorem State.bare_onSet {s : State} {t k : Nat} {f : SetState → SetState} (h : ∀ S, (f S).bare = S.bare) :
    (s.onSet t k f).bare = s.bare := by
  have hs : ∀ m : Tab SetState, (Tab.adjust m k f).map (fun e => (e.1, e.2.bare)) = m.map (fun e => (e.1, e.2.bare)) := by
    intro m
    induction m with
    | nil => rfl
    | cons e m ih => simp only [Tab.adjust, List.map_cons] at ih ⊢; rw [ih]; split <;> simp [h]
  have ht : ∀ m : Tab Troupe, (Tab.adjust m t (fun T => T.onSet k f)).map (fun e => (e.1, e.2.bare)) = m.map (fun e => (e.1, e.2.bare)) := by
    intro m
    induction m with
    | nil => rfl
    | cons e m ih =>
      simp only [Tab.adjust, List.map_cons] at ih ⊢
      rw [ih]
      split
      · simp [Troupe.bare, Troupe.onSet, hs]
      · rfl
  simp only [State.bare, State.onSet, State.onTroupe, ht]

theorem get?_bare (s : State) (n : Nat) : s.bare.troupes.get? n = (s.troupes.get? n).map Troupe.bare :=
  Tab.get?_map s.troupes Troupe.bare n

/-- Renaming touches names of physical registers only, of any set of the core. -/
theorem State.onSet_eq (s : State) (t k : Nat) (f : SetState → SetState) :
    s.onSet t k f = { s with troupes := (s.onSet t k f).troupes } := rfl

/-- What a step of renaming does: nothing but names, and so nothing to the bare state. -/
structure Renames (s t : State) : Prop where
  eq : ∃ T, t = { s with troupes := T }
  bare : t.bare = s.bare

theorem Renames.rfl' (s : State) : Renames s s := ⟨⟨s.troupes, rfl⟩, rfl⟩

theorem Renames.trans {s t u : State} (h : Renames s t) (k : Renames t u) : Renames s u := by
  obtain ⟨⟨T, rfl⟩, hb⟩ := h
  obtain ⟨⟨U, rfl⟩, kb⟩ := k
  exact ⟨⟨U, rfl⟩, kb.trans hb⟩

theorem renames_onSet (s : State) (t k : Nat) {f : SetState → SetState} (h : ∀ S, (f S).bare = S.bare) :
    Renames s (s.onSet t k f) := ⟨⟨_, rfl⟩, State.bare_onSet h⟩

theorem renames_spillOne (s : State) (core t k : Nat) : Renames s (s.spillOne core t k) := by
  unfold State.spillOne
  split
  · exact renames_onSet s _ _ (fun _ => rfl)
  · exact Renames.rfl' s

theorem renames_takeReg (s : State) (core t k r : Nat) (later : Bool) : Renames s (s.takeReg core t k r later) := by
  unfold State.takeReg
  dsimp only
  have h : Renames s (if (s.freeReg core).isSome = true then s else s.spillOne core t k) := by
    split
    · exact Renames.rfl' s
    · exact renames_spillOne s core t k
  exact h.trans (renames_onSet _ t k (fun _ => by simp only [SetState.bare]))

theorem renames_nameReg (s : State) (core t k : Nat) (n : Nat × Bool × Bool) : Renames s (s.nameReg core t k n) := by
  unfold State.nameReg
  split
  · rename_i S _
    dsimp only
    have h : Renames s (if n.2.2 && S.names.spilled.contains n.1 then s.takeReg core t k n.1 false else s) := by
      split
      · exact renames_takeReg s _ _ _ _ _
      · exact Renames.rfl' s
    split
    · exact h.trans (renames_takeReg _ _ _ _ _ _)
    · exact h
  · exact Renames.rfl' s

theorem renames_rename (s : State) (c : Ctx) : Renames s (s.rename c) := by
  unfold State.rename
  have h : ∀ (ns : List (Nat × Bool × Bool)) (s : State),
      Renames s (ns.foldl (fun (s : State) n => s.nameReg c.T.place.coreNo c.t c.k n) s) := by
    intro ns
    induction ns with
    | nil => exact Renames.rfl'
    | cons n ns ih => exact fun s => (renames_nameReg s _ _ _ n).trans (ih _)
  exact (h c.named s).trans (renames_onSet _ c.t c.k (fun _ => rfl))

theorem renames_nameChunk (s : State) (c : Ctx) : Renames s (s.nameChunk c) := by
  unfold State.nameChunk
  split
  · exact Renames.rfl' s
  · refine renames_onSet _ c.t c.k (fun S => ?_)
    simp only [SetState.onChunk, SetState.bare, Option.map_map]
    rfl

theorem counted_troupes (c : Ctx) (s : State) : (c.counted s).troupes = s.troupes := by
  unfold Ctx.counted; split <;> rfl

theorem counted_worlds (c : Ctx) (s : State) : (c.counted s).worlds = s.worlds := by
  unfold Ctx.counted; split <;> rfl

/-- Counting an issue changes a unit's count and performance counters. -/
theorem countIssue_eq (s : State) (c : Ctx) :
    s.countIssue c = { c.counted s with worlds := (s.countIssue c).worlds } := by
  unfold State.countIssue
  split
  · exact State.tally_eq _ _ _ _
  · split
    · rfl
    · exact State.tally_eq _ _ _ _

theorem countIssue_troupes (s : State) (c : Ctx) : (s.countIssue c).troupes = s.troupes := by
  rw [countIssue_eq]; exact counted_troupes c s

theorem countIssue_world (s : State) (c : Ctx) (w : Nat) :
    { (s.countIssue c).world w with
      budget := { ((s.countIssue c).world w).budget with pctl := (s.world w).budget.pctl } } = s.world w := by
  have h : (c.counted s).world w = s.world w := by simp only [State.world, counted_worlds]
  unfold State.countIssue
  split
  · have := State.tally_world (c.counted s) (s.worldOf c.T) 9 1 w
    rwa [h] at this
  · split
    · rw [h]
    · have := State.tally_world (c.counted s) (s.worldOf c.T) 2 1 w
      rwa [h] at this

/-- Putting a set back, with its count of the figure. -/
theorem State.done_onlySet {s : State} {c : Ctx} (hS : (s.setAt? c.t c.k).isSome = true) (S : SetState) : OnlySet s c S (s.done c S) := by
  obtain ⟨S0, h0⟩ := Option.isSome_iff_exists.mp hS
  have hr := (renames_rename (s.onSet c.t c.k (fun _ => S)) c).trans (renames_nameChunk _ c)
  have hw : (((s.onSet c.t c.k (fun _ => S)).rename c).nameChunk c).worlds = s.worlds := by obtain ⟨T, h⟩ := hr.eq; rw [h]; rfl
  have ht : (s.done c S).troupes = (((s.onSet c.t c.k (fun _ => S)).rename c).nameChunk c).troupes := countIssue_troupes _ c
  have hb : (s.done c S).bare.troupes = (s.onSet c.t c.k (fun _ => S)).bare.troupes := by
    rw [← hr.bare]; simp only [State.bare, ht]
  have hg : ∀ n, ((s.done c S).troupes.get? n).map Troupe.bare =
      ((s.onSet c.t c.k (fun _ => S)).troupes.get? n).map Troupe.bare := by
    intro n
    rw [← get?_bare, ← get?_bare, hb]
  refine ⟨?_, ?_, ?_, ?_, rfl, ?_⟩
  · rw [← setAt?_bare]
    have : (s.done c S).bare.setAt? c.t c.k = (s.onSet c.t c.k (fun _ => S)).bare.setAt? c.t c.k := by
      simp only [State.setAt?, hb]
    rw [this, setAt?_bare, State.setAt?_onSet]
    simp [h0]
  · rw [hg]
    simp only [State.onSet, State.troupes_onTroupe, if_true, Option.map_map]
    rfl
  · intro n hn
    rw [hg]
    simp only [State.onSet, State.troupes_onTroupe, if_neg hn]
  · intro w
    have := countIssue_world (((s.onSet c.t c.k (fun _ => S)).rename c).nameChunk c) c w
    have hx : (((s.onSet c.t c.k (fun _ => S)).rename c).nameChunk c).world w = s.world w := by simp only [State.world, hw]
    rw [hx] at this
    exact this
  · unfold State.done
    rw [countIssue_eq]
    generalize ((((s.onSet c.t c.k fun _ => S).rename c).nameChunk c).countIssue c).worlds = W
    obtain ⟨X, h⟩ := hr.eq
    rw [h]
    unfold Ctx.counted
    split <;> rfl

/-- One thread after an instruction. -/
theorem stepThread_eq (c : Ctx) (ahead : Nat) (regs f next) (j : Nat) (th : Thread) :
    stepThread c ahead regs f next j th =
      { (if inMask c.act j then (f j th).write ahead ((regs j).filter (fun w => decide (w.1 < 120))) else th.tick) with
        pc := next j, hold := .ready, since := c.now, aged := false } := rfl

/-- The lanes after an instruction whose own effect on a thread is on its predicates, generator and clock. -/
theorem SetState.retire_lanes {i : Instr} {c : Ctx} (hl : ∀ j, inMask c.mask j = true → j < c.S.threads.length)
    (ha : ∀ j, inMask c.act j = true → inMask c.mask j = true) (regs : Nat → List (Nat × Word)) (f : Nat → Thread → Thread) (own : Nat → Word × Word × DWord)
    (hn : ∀ j, ((regs j).map (·.1)).Nodup)
    (hf : ∀ j, inMask c.act j = true →
      f j (c.S.lane j) = { c.S.lane j with p := (own j).1, gen := (own j).2.1, clk := (own j).2.2 }) :
    Lanes c i (SetState.retire c i regs f (fun _ => c.next)) regs own := by
  have on : ∀ j, inMask c.mask j = true → (SetState.retire c i regs f (fun _ => c.next)).lane j =
      stepThread c i.ahead regs f (fun _ => c.next) j (c.S.lane j) := by
    intro j hj
    rw [SetState.retire_lane, if_pos ⟨hj, hl j hj⟩]
  have nd : ∀ j, (((regs j).filter (fun w => decide (w.1 < 120))).map (·.1)).Nodup := fun j =>
    (hn j).sublist (List.filter_sublist.map _)
  refine ⟨fun j hj => ?_, fun j hj => ?_, fun j hj e he hlt => ?_, fun j r hj hr hrip => ?_, fun j hj => ?_⟩
  · rw [SetState.retire_lane, if_neg (by simp [hj])]
  · rw [on j hj, stepThread_eq]
    by_cases hx : inMask c.act j = true
    · rw [if_pos hx, hf j hx, Thread.write_eq]
      exact ⟨rfl, rfl, rfl, rfl, rfl⟩
    · rw [if_neg hx]
      exact ⟨rfl, rfl, rfl, rfl, rfl⟩
  · rw [on j (ha j hj), stepThread_eq, if_pos hj]
    have := holds_write (th := f j (c.S.lane j)) (ahead := i.ahead) (nd j)
      (List.mem_filter.mpr ⟨he, by simpa using hlt⟩)
    exact this
  · rw [on j hj, stepThread_eq]
    by_cases hx : inMask c.act j = true
    · rw [if_pos hx]
      have hr' : ∀ e ∈ (regs j).filter (fun w => decide (w.1 < 120)), e.1 ≠ r := fun e he =>
        hr hx e (List.mem_filter.mp he).1
      have hg : ¬ Ripe (f j (c.S.lane j)) r := by rw [hf j hx]; exact hrip
      exact (write_other hr' hg).trans (by rw [hf j hx]; rfl)
    · rw [if_neg hx]; exact get_tick hrip
  · rw [on j hj, stepThread_eq]
    by_cases hx : inMask c.act j = true
    · rw [if_pos hx, if_pos hx, hf j hx, Thread.write_eq]
    · rw [if_neg hx, if_neg hx]; rfl

theorem SetState.retire_rest (c : Ctx) (i : Instr) (regs f next) :
    { SetState.retire c i regs f next with
      threads := c.S.threads, ports := c.S.ports, chunk := c.S.chunk, closing := c.S.closing } = c.S := by
  rw [SetState.retire_eq]

/-- An instruction that retires completes, on top of what it did to the machine and to its set. -/
theorem completesFrom_of_retire {s s1 : State} {i : Instr} {c : Ctx} (hS : (s1.setAt? c.t c.k).isSome = true) (hl : ∀ j, inMask c.mask j = true → j < c.S.threads.length)
    (ha : ∀ j, inMask c.act j = true → inMask c.mask j = true)
    (regs : Nat → List (Nat × Word)) (f : Nat → Thread → Thread) (own : Nat → Word × Word × DWord)
    (hn : ∀ j, ((regs j).map (·.1)).Nodup)
    (hf : ∀ j, inMask c.act j = true →
      f j (c.S.lane j) = { c.S.lane j with p := (own j).1, gen := (own j).2.1, clk := (own j).2.2 })
    (he : exec i s = .next (s1.done c (SetState.retire c i regs f (fun _ => c.next)))) :
    CompletesFrom s s1 i c regs own :=
  ⟨_, he, _, State.done_onlySet hS _, SetState.retire_lanes hl ha regs f own hn hf, SetState.retire_chunk _ _ _ _ _,
    SetState.retire_ports _ _ _ _ _, SetState.retire_rest _ _ _ _ _⟩

/-- The same where the instruction has issued, and its effects leave the troupes and the set's threads alone. -/
theorem completesFrom_of_issue {s s1 : State} {i : Instr} {c : Ctx} (h : Issues s i c) (hs : s1.troupes = s.troupes)
    {S1 : SetState} (h1 : S1.threads = c.S.threads)
    (regs : Nat → List (Nat × Word)) (f : Nat → Thread → Thread) (own : Nat → Word × Word × DWord)
    (hn : ∀ j, ((regs j).map (·.1)).Nodup)
    (hf : ∀ j, inMask c.act j = true →
      f j (S1.lane j) = { S1.lane j with p := (own j).1, gen := (own j).2.1, clk := (own j).2.2 })
    (he : exec i s = .next (s1.done { c with S := S1 } (SetState.retire { c with S := S1 } i regs f (fun _ => c.next)))) :
    CompletesFrom s s1 i { c with S := S1 } regs own := by
  obtain ⟨F, S0, hI⟩ := issued h
  refine completesFrom_of_retire (c := { c with S := S1 }) ?_ (fun j hj => ?_) (fun j hj => hI.act_sub hj) regs f own hn hf he
  · simp only [State.setAt?, hs]
    have := hI.found
    simp only [State.setAt?] at this
    rw [this]; rfl
  · simp only [h1]; exact hI.lt hj

/-- A register instruction completes with what its meaning computes. -/
theorem completes_of_retire {s : State} {i : Instr} {c : Ctx} (h : Issues s i c)
    (regs : Nat → List (Nat × Word)) (f : Nat → Thread → Thread) (own : Nat → Word × Word × DWord)
    (hn : ∀ j, ((regs j).map (·.1)).Nodup)
    (hf : ∀ j, inMask c.act j = true →
      f j (c.S.lane j) = { c.S.lane j with p := (own j).1, gen := (own j).2.1, clk := (own j).2.2 })
    (he : exec i s = .next (s.done c (SetState.retire c i regs f (fun _ => c.next)))) :
    Completes s i c regs own :=
  completesFrom_of_issue h rfl (S1 := c.S) rfl regs f own hn hf he

/-- The shape of most meanings. -/
theorem completes_of_vecOp {s : State} {i : Instr} {c : Ctx} (h : Issues s i c)
    (regs : Ctx → Nat → List (Nat × Word)) (f : Ctx → Nat → Thread → Thread) (own : Nat → Word × Word × DWord)
    (hn : ∀ j, ((regs c j).map (·.1)).Nodup)
    (hf : ∀ j, inMask c.act j = true →
      f c j (c.S.lane j) = { c.S.lane j with p := (own j).1, gen := (own j).2.1, clk := (own j).2.2 })
    (he : exec i s = vecOp s i regs f) : Completes s i c (regs c) own := by
  refine completes_of_retire h (regs c) (f c) own hn hf ?_
  rw [he, vecOp, show stepGo s i = some (.go c) from h]

/-- A meaning that gives registers only. -/
theorem gives_of_vecOp {s : State} {i : Instr} {c : Ctx} (h : Issues s i c) (regs : Ctx → Nat → List (Nat × Word))
    (hn : ∀ j, ((regs c j).map (·.1)).Nodup) (he : exec i s = vecOp s i regs) : Gives s i c (regs c) :=
  completes_of_vecOp h regs (fun _ _ th => th) c.old hn (fun _ _ => rfl) he

/-- The results of one instruction may be stated in other words that give the same values. -/
theorem Gives.congr {s : State} {i : Instr} {c : Ctx} {r r' : Nat → List (Nat × Word)} (h : Gives s i c r)
    (e : ∀ j, r j = r' j) : Gives s i c r' := (funext e : r = r') ▸ h

end Sys2Proof.Machine
end

