-- ==== Sys2Proof/Machine/Readback.lean ====
section
/-! DEFINITION. What a read of a register returns (00 R6, 25 R481, R493): the fields of every field map from the state, filtered by
what the reading world may see (01 R18; 04 R69, R89; 06 R143; 22 R463; 24 R471). No table row reads a register: these are the
values that the host sees. -/

namespace Sys2Proof.Machine

/-- Fields packed into a word: place and value. -/
def pack (fs : List (Nat × Nat)) : Nat := fs.foldl (fun x f => x + f.2 * 2 ^ f.1) 0

/-- The 8 bytes at an offset of a byte string, as a number. -/
def wordAt (b : List Byte) (off : Nat) : Nat := leNat ((b.drop off).take 8)

/-! ### Records -/

/-- The 32 bytes of an error record (04 Table 4-7). -/
def ErrRec.bytes (r : ErrRec) : List Byte :=
  leBytes 8 r.time ++ leBytes 8 r.dpa ++ leBytes 1 r.kind ++ leBytes 1 r.syms ++ leBytes 1 r.world ++ leBytes 1 r.pch ++
    leBytes 2 r.bank ++ leBytes 2 r.row ++ leBytes 2 r.gen ++ leBytes 1 r.source ++ List.replicate 5 0

/-- Does a world read a record in full (04 R89)? -/
def ErrRec.shows (r : ErrRec) (w gen : Nat) : Bool := w == 0 || (r.world == w && r.gen == gen)

/-- Bytes of a ring's record as a world reads them. -/
def ErrRing.show (R : ErrRing) (w gen i : Nat) : List Byte :=
  match R.recs.get? i with
  | some r => if r.shows w gen then r.bytes else List.replicate 32 0
  | none => List.replicate 32 0

/-- Does a reader see a world's trap ring: a world its own, management every world's, that of a world in ERROR until its slices are released
(22 R463, 24 R471)? -/
def State.seesTraps (s : State) (reader w : Nat) : Bool :=
  if reader = w then true else reader == 0 && (s.tstate w != 4 || s.ownedCount w != 0)

/-- The trap record of a world's ring that a reader sees. -/
def State.trapShown (s : State) (reader w i : Nat) : List Byte :=
  if s.seesTraps reader w then
    match (s.world w).trap.log.get? i with
    | some r => r.bytes
    | none => List.replicate 64 0
  else List.replicate 64 0

/-! ### World pages -/

/-- CH_PREEMPT (22 Table 22-8). -/
def PreemptCmd.word (c : PreemptCmd) (admin : Bool) : Nat :=
  let c := c.seen admin
  pack [(0, c.slot), (11, b2n c.all), (12, c.op), (14, if admin then c.world else 0), (22, b2n c.busy), (23, c.result), (32, c.saved)]

/-- CH_WBUD (20 Table 20-3). -/
def Budget.word (b : Budget) : Nat := pack [(0, b.core), (17, b.pwr), (32, b.bw)]

/-- CH_WSTAT (20 Table 20-4). -/
def State.wstat (s : State) (w : Nat) : Nat :=
  let b := (s.world w).budget
  pack [(0, min (s.setsCharged w) (2 ^ 17 - 1)), (17, min (s.powerCharged w / 65536) (2 ^ 15 - 1)), (32, min b.bwUsed (2 ^ 14 - 1)), (46, b.gate)
    , (49, b2n ((s.owned w).any (fun k => (List.range 16).any (fun c => (s.coreAt (16 * k + c)).paced))))
    , (50, satN 14 (((s.heads w).map (fun h => h.companies.length)).foldl (· + ·) 0))]

/-- CH_QSTAT of a slot that the world's queue is mapped in (21 R426, Table 21-3). -/
def State.qstat (s : State) (w i : Nat) (high : Bool) : Nat :=
  let q := s.slot i
  if q.state = 0 || q.world != w then 0
  else if high then pack [(0, q.wptr), (32, q.ecause % 128), (39, q.ereason % 256)]
  else pack [(0, q.qid), (20, q.state), (22, q.eprio), (32, q.rptr)]

/-- The CH_ page of a world. -/
def State.readCh (s : State) (w off : Nat) : Nat :=
  let W := s.world w
  if off = 0x100 then pack [(7, W.gang.list), (48, W.gang.count)]
  else if off = 0x108 then pack [(0, W.gang.gang), (33, b2n W.gang.busy), (34, W.gang.result)]
  else if off = 0x200 then s.wstat w
  else if off = 0x208 then W.budget.word
  else if off = 0x300 then W.preempt.word false
  else if off = 0x310 then pack [(12, W.area.base)]
  else if off = 0x318 then pack [(0, W.area.len), (32, W.area.used)]
  else if 0x3000 ≤ off && off < 0x3100 then
    let e := W.budget.pctl.getD ((off - 0x3000) / 16) (0, false, 0)
    if off % 16 = 8 then e.2.2 else pack [(0, e.1), (8, b2n e.2.1)]
  else if 0x20000 ≤ off && off < 0x28000 then s.qstat w ((off - 0x20000) / 16) (off % 16 == 8)
  else 0

/-- XL_FLT and XL_S2F (07 Table 7-7). -/
def Flt.word (f : Flt) (two : Bool) : Nat :=
  pack [(0, b2n f.pend), (1, if two then b2n f.tbl else 0), (4, if two then f.world else 0), (11, f.lease), (16, f.tcid)]

/-- XL_LEASE (07 Table 7-5): an entry that is released once unused reads as releasing. -/
def Lease.word (l : Lease) (high : Bool) : Nat :=
  if high then l.len
  else pack [(0, if l.state = 2 && l.rel then 3 else l.state), (2, b2n l.streamed), (3, b2n l.rw), (5, b2n l.drv), (12, l.base)
    , (48, l.tcid), (56, satN 8 l.users)]

/-- The XL_ page of a world. -/
def State.readXl (s : State) (w off : Nat) : Nat :=
  let W := s.world w
  if off = 0x40 then W.flt.word false
  else if off = 0x48 then W.flt.addr
  else if off = 0x80 then
    let r := W.lreq.seen
    pack [(1, b2n r.busy), (2, r.result), (4, b2n r.acc), (12, r.base), (48, r.tcid), (56, r.index)]
  else if off = 0x88 then W.lreq.seen.len
  else if 0x100 ≤ off && off < 0x900 then W.ctx.getD ((off - 0x100) / 8) 0
  else if off = 0xA00 then pack [(0, b2n W.hot.en), (1, W.hot.log2n), (6, W.hot.log2sz)]
  else if off = 0xA08 then W.hot.base
  else if off = 0xA10 then pack [(0, W.hot.head), (32, W.hot.tail)]
  else if off = 0xA18 then W.hot.drop
  else if 0x1000 ≤ off && off < 0x2000 then (W.leases.getD ((off - 0x1000) / 16) Lease0).word (off % 16 == 8)
  else 0

/-- The MSC_ page of a world (06 Tables 6-5, 6-7, 6-9). -/
def State.readMsc (s : State) (w off : Nat) : Nat :=
  let W := s.world w
  if off = 0 then
    pack [(0, W.maxout), (16, W.wins.getD 0 256), (28, W.wins.getD 1 256), (40, W.wins.getD 2 256), (52, W.wins.getD 3 256)]
  else if 0x100 ≤ off && off < 0x500 then
    let r := W.rngs.getD ((off - 0x100) / 16) Rng0
    if off % 16 = 8 then r.len
    else pack [(0, b2n r.valid), (1, r.fmt), (3, b2n r.ovf), (4, b2n r.nan), (8, wrap 8 r.scale), (16, r.base)]
  else if 0x500 ≤ off && off < 0x900 then
    let b := W.wobs.getD ((off - 0x500) / 16) Wob0
    if off % 16 = 8 then pack [(0, b.len), (32, b.rc)] else pack [(0, b.state), (8, b.base)]
  else 0

/-- The TRAP_ page of a world (22 Table 22-4, R463). -/
def State.readTrap (s : State) (w off : Nat) : Nat :=
  let t := (s.world w).trap
  if off = 0 then pack [(0, b2n t.valid), (12, t.code)]
  else if off = 8 then pack [(0, t.desc), (32, b2n t.ok)]
  else if off = 0x20 then t.count
  else if 0x4000 ≤ off && off < 0x8000 then wordAt (s.trapShown w w ((off - 0x4000) / 64)) (off % 64)
  else 0

/-- CP_SB of a core (08 Table 8-5). -/
def Core.sbWord (C : Core) : Nat :=
  let held := (C.ops.filter (fun (o : Nat × Op) => match o.2.phase with
    | .held .. => true
    | _ => false)).length
  pack [(0, C.ops.length), (8, held), (16, satN 16 C.fullStall), (32, C.opsDone % 2 ^ 32)]

/-- CP_MX of a core (15 Table 15-7). -/
def State.mxWord (s : State) (c : Nat) : Nat :=
  let C := s.coreAt c
  let q := (C.ops.filter (fun (o : Nat × Op) => (o.2.kind == .mloop || o.2.kind == .mcvt) && o.2.phase != .pending && !o.2.retired)).length
  let tiles := (s.troupes.filter (fun (e : Nat × Troupe) => e.2.place == .core c && !e.2.finished)).foldl
    (fun n (e : Nat × Troupe) => n + e.2.tileCount) 0
  pack [(0, min q 127), (8, tiles), (16, satN 16 C.tileStall), (32, C.steps % 2 ^ 32)]

/-- The CP_ page of a world (08 R183, 15 R362). -/
def State.readCp (s : State) (w off : Nat) : Nat :=
  let W := s.world w
  if 0x100 ≤ off && off < 0x300 then
    (List.range 64).foldl (fun x i => x + b2n (W.layouts.get? ((off - 0x100) * 8 + i)).isSome * 2 ^ i) 0
  else if 0x800 ≤ off && off < 0x2800 then
    let c := (off - 0x800) / 8
    if s.owns w (c / 16) then (s.coreAt c).sbWord else 0
  else if 0x10000 ≤ off && off < 0x50000 then
    match W.layouts.get? ((off - 0x10000) / 64) with
    | some l => wordAt l.bytes (off % 64)
    | none => 0
  else if 0x60000 ≤ off && off < 0x62000 then
    let c := (off - 0x60000) / 8
    if s.owns w (c / 16) then s.mxWord c else 0
  else 0

/-! ### The NB_ block -/

/-- NB_USTAT (05 Table 5-10). -/
def State.ustat (s : State) (k n : Nat) : Nat :=
  let ts := s.troupes.filter (fun (e : Nat × Troupe) => e.2.place == .unit k n)
  let sets := ts.foldl (fun x (e : Nat × Troupe) => x + (e.2.setTab.filter (fun (f : Nat × SetState) => f.2.live != 0)).length) 0
  pack [(0, sets), (8, ts.length), (16, b2n (ts.any (fun (e : Nat × Troupe) => e.2.cmd != 0))), (32, ((s.slice k).unit n).issued % 2 ^ 32)]

/-- NB_WIN (05 Table 5-2). -/
def NbWin.word (x : NbWin) : Nat := pack [(0, 1), (1, b2n x.rw), (4, x.frame), (21, x.vpage), (48, x.runbase)]

/-- Two 32-bit registers of the error counters (04 R89, 06 R143): those that start at an offset. -/
def State.counterWord (s : State) (k off : Nat) : Nat :=
  let S := s.slice k
  let x := S.scrub
  match off with
  | 0x300 => pack [(0, S.errs.count), (32, x.corrected)]
  | 0x308 => pack [(0, x.uncorrectable), (32, x.mismatches)]
  | 0x310 => pack [(0, x.poisons), (32, x.retires)]
  | 0x318 => x.left
  | 0x320 => S.mscErrs.count
  | _ => 0

/-- The NB_ block of a slice, as its owner and management read it (25 R481). -/
def State.readNb (s : State) (w k off : Nat) : Nat :=
  let S := s.slice k
  let own := s.owns w k
  if !own && w != 0 then 0
  else if off = 0x100 then pack [(0, S.scrub.period), (8, S.scrub.thresh), (16, b2n S.scrub.hoten), (17, b2n S.scrub.reten)]
  else if 0x300 ≤ off && off ≤ 0x320 then s.counterWord k off
  else if 0x8000 ≤ off then wordAt (S.errs.show w S.gen ((off - 0x8000) / 32)) (off % 32)
  else if 0x2000 ≤ off && off < 0x4000 then wordAt (S.mscErrs.show w S.gen ((off - 0x2000) / 32)) (off % 32)
  else if !own then 0
  else if 0x200 ≤ off && off < 0x280 && off % 16 = 0 then
    let c := S.scrub.ckpt.getD ((off - 0x200) / 16) (0, 0, false, 0)
    pack [(0, c.1), (16, c.2.1), (29, b2n c.2.2.1), (32, c.2.2.2)]
  else if off = 0x340 then
    pack [(0, S.form.seen.frame), (12, b2n S.form.seen.form), (14, b2n S.form.busy), (15, S.form.result)]
  else if off = 0x380 then pack [(0, S.nb.queue.length), (16, satN 16 S.nb.err), (32, S.nb.done % 2 ^ 32)]
  else if 0x400 ≤ off && off < 0x500 then s.ustat k ((off - 0x400) / 8)
  else if 0x1000 ≤ off && off < 0x1200 then
    match S.nb.win.get? ((off - 0x1000) / 8) with
    | some x => x.word
    | none => 0
  else 0

/-! ### The SEC_ pages -/

/-- SEC_WORLD (24 Table 24-1). -/
def State.secWorld (s : State) (w : Nat) (high : Bool) : Nat :=
  let t := (s.world w).trust
  if high then t.s2gen else pack [(0, s.tstate w), (4, t.minsl), (11, t.maxsl), (18, s.ownedCount w), (32, t.fwgen)]

/-- SEC_SLICE_STAT (01 Table 1-4): a world reads its own slices', management every one. -/
def State.sliceStat (s : State) (w k : Nat) : Nat :=
  let S := s.slice k
  if w = 0 || s.owns w k then pack [(0, if S.state = 0 then 0 else S.owner), (8, S.state), (16, S.gen)] else 0

/-- SEC_FRAME (04 Table 4-1). -/
def Frame.byte (f : Frame) : Nat :=
  pack [(0, f.ownersel), (2, b2n f.striped), (3, b2n (f.striped && decide (0 < f.pinned) && f.ownersel == 1)), (4, b2n f.pz)]

/-- Frames, windows and slices in a SEC_ page: every world reads those of its own slices (01 R18, 04 R69, R79). -/
def State.readSecSlices (s : State) (w off : Nat) : Nat :=
  if 0x400 ≤ off && off < 0x500 then
    let k := (off - 0x400) / 4
    pack [(0, s.sliceStat w k), (32, s.sliceStat w (k + 1))]
  else if 0x100000 ≤ off && off < 0x140000 then
    let k := (off - 0x100000) / 0x1000
    if s.owns w k then pack ((List.range 8).map (fun i => (8 * i, ((s.slice k).frame (off % 0x1000 + i)).byte))) else 0
  else if 0x200000 ≤ off && off < 0x240000 then
    let k := (off - 0x200000) / 0x1000
    match (if s.owns w k then (s.slice k).vwin.get? (off % 0x1000 / 16) else none) with
    | some x => if off % 16 = 8 then x.ver else pack [(0, x.base), (40, x.len)]
    | none => 0
  else 0

/-- The SEC_ page of a world (04 Tables 4-9, 4-10). -/
def State.readSec (s : State) (w off : Nat) : Nat :=
  let W := s.world w
  let c := W.vcmd.seen
  if off = 0 || off = 8 then s.secWorld w (off == 8)
  else if off = 0x200 then pack [(0, c.op), (2, c.buf), (9, b2n c.busy), (10, c.result), (16, c.tcid)]
  else if off = 0x208 then c.base
  else if off = 0x210 then c.len
  else if 0x800 ≤ off && off < 0xC00 then
    let b := W.vbufs.getD ((off - 0x800) / 16) Vbuf0
    if off % 16 = 8 then pack [(0, b.len), (32, b.ver)] else pack [(0, b2n b.valid), (12, b.base), (48, b.tcid)]
  else s.readSecSlices w off

/-! ### Management pages -/

/-- XL_S2ROOT (07 Table 7-4). -/
def Trust.s2Word (t : Trust) : Nat := pack [(0, b2n t.s2valid), (1, b2n t.s2inv), (12, t.s2root)]

/-- SEC_SLICE_CMD (24 Table 24-4). -/
def SliceCmd.word (c : SliceCmd) : Nat :=
  let c := c.seen
  pack [(0, c.op), (4, c.slice), (10, c.dest), (16, c.world), (23, c.minsl), (30, c.maxsl), (38, b2n c.busy), (39, c.result)]

/-- The management CH_, XL_ and SEC_ pages. -/
def State.readAdmin (s : State) (off : Nat) : Nat :=
  if off = 0xC00080 then pack [(0, s.ctl.quant), (16, s.ctl.promo)]
  else if off = 0xC00300 then s.mgmtPreempt.word true
  else if 0xC02000 ≤ off && off < 0xC02000 + 32 * 65 then
    if off % 32 = 0 then (s.world ((off - 0xC02000) / 32)).budget.word else 0
  else if off = 0xC40040 then s.s2f.word true
  else if off = 0xC40048 then s.s2f.addr
  else if 0xC40100 ≤ off && off < 0xC40100 + 8 * 65 then (s.world ((off - 0xC40100) / 8)).trust.s2Word
  else if off < 0x1000000 then 0
  else if off = 0x1000300 then s.sliceCmd.word
  else if 0x1003000 ≤ off && off < 0x1003000 + 8 * 65 then
    let w := (off - 0x1003000) / 8
    pack [(0, (s.world w).trust.act), (63, b2n (s.lockedWorld w))]
  else if 0x1003400 ≤ off && off < 0x1003400 + 16 * 65 then s.secWorld ((off - 0x1003400) / 16) (off % 16 == 8)
  else if off < 0x1400000 then s.readSecSlices 0 (off - 0x1000000)
  else 0

/-- The MSC_ global page (06 Tables 6-1 to 6-3, R143). -/
def State.readMscAdmin (s : State) (off : Nat) : Nat :=
  if off = 0 then pack [(0, s.ctl.retainw), (4, b2n s.ctl.poolc)]
  else if 0x100 ≤ off && off < 0x300 then
    let S := s.slice ((off - 0x100) / 8)
    pack [(0, S.steps), (8, S.req)]
  else if 0x800 ≤ off && off < 0x900 then
    let k := (off - 0x800) / 4
    pack [(0, (s.slice k).mscErrs.count), (32, (s.slice (k + 1)).mscErrs.count)]
  else if 0x10000 ≤ off && off < 0x50000 then
    let k := (off - 0x10000) / 0x1000
    pack ((List.range 8).map (fun i => (8 * i, (s.slice k).homes.getD (off % 0x1000 + i) k)))
  else if 0x200000 ≤ off && off < 0x280000 then
    let k := (off - 0x200000) / 0x2000
    wordAt ((s.slice k).mscErrs.show 0 (s.slice k).gen (off % 0x2000 / 32)) (off % 32)
  else 0

/-- LNK_PORT and LNK_GRP (25 Tables 25-2, 25-3). -/
def State.readLnk (s : State) (off : Nat) : Nat :=
  if 0x100 ≤ off && off < 0x160 then
    let p := s.port ((off - 0x100) / 16)
    if off % 16 = 8 then p.downs else pack [(0, b2n p.up), (1, p.ide), (8, p.lanes), (32, p.retry)]
  else if 0x400 ≤ off && off < 0x500 then
    let g := s.group ((off - 0x400) / 32)
    match off % 32 with
    | 0 => pack [(0, g.members), (16, g.state), (19, g.excl), (32, g.epoch)]
    | 8 => g.base
    | 16 => g.len
    | _ => 0
  else 0

/-- PWR_CTL and PWR_SLICE (25 Table 25-5). -/
def State.readPwr (s : State) (off : Nat) : Nat :=
  if off = 0 then pack [(0, s.ctl.pkgcap), (12, b2n s.ctl.ready)]
  else if 0x100 ≤ off && off < 0x300 then
    let S := s.slice ((off - 0x100) / 8)
    pack [(0, S.level), (3, S.idle), (5, S.cur), (7, b2n S.trip), (8, S.temp)]
  else 0

/-- Logs and status registers of the management function (DEDUCED, log 81): trap rings, error and MSC rings with their counts and counters,
CH_WSTAT, CH_QSTAT, CP_SB and CP_MX, NB_STAT and NB_USTAT, SEC_WORLD, SEC_SLICE_STAT, LNK_PORT and LNK_GRP, PWR_SLICE and PWR_CTL. -/
def isStatus (off : Nat) : Bool :=
  let within (lo hi : Nat) : Bool := decide (lo ≤ off) && decide (off < hi)
  let nb := off % 0x10000
  off == 0x200 || within 0x20000 0x28000 || off == 0x60020 || within 0x64000 0x68000 || within 0x80800 0x82800 || within 0xE0000 0xE2000 ||
    (within 0x400000 0x800000 && (decide (0x300 ≤ nb ∧ nb ≤ 0x320) || nb == 0x380 || decide (0x400 ≤ nb ∧ nb < 0x500) ||
      decide (0x2000 ≤ nb ∧ nb < 0x4000) || decide (0x8000 ≤ nb))) ||
    off == 0x800000 || off == 0x800008 || within 0x800400 0x800500 || within 0x1000400 0x1000500 || within 0x1003400 0x1003810 ||
    within 0x1400800 0x1400900 || within 0x1600000 0x1680000 || within 0x1800100 0x1800500 || within 0x1810000 0x1810300

/-- The 64 bits at an offset of a function's BAR0; an offset that no table names reads as zero (25 R481). In ERROR, and in
lock-down, management's reads alone are served, in lock-down those of logs and status (22 R446, 24 R471). -/
def State.readRegister (s : State) (w off : Nat) : Nat :=
  if off % 8 != 0 || 64 < w || (w != 0 && (s.lockedDown || s.tstate w == 4)) || (s.lockedDown && !isStatus off) then 0
  else if off < 0x40000 then s.readCh w off
  else if off < 0x50000 then s.readXl w (off - 0x40000)
  else if off < 0x60000 then s.readMsc w (off - 0x50000)
  else if off < 0x70000 then s.readTrap w (off - 0x60000)
  else if off < 0x80000 then 0
  else if off < 0x100000 then s.readCp w (off - 0x80000)
  else if off < 0x400000 then 0
  else if off < 0x800000 then s.readNb w ((off - 0x400000) / 0x10000) (off % 0x10000)
  else if off < 0xC00000 then s.readSec w (off - 0x800000)
  else if w != 0 then 0
  else if off < 0x1400000 then s.readAdmin off
  else if off < 0x1800000 then s.readMscAdmin (off - 0x1400000)
  else if off < 0x1810000 then s.readLnk (off - 0x1800000)
  else if off < 0x1820000 then s.readPwr (off - 0x1810000)
  else 0

/-- What a reader sees at an offset of a world's TRAP_ page: a world its own page, and management the count and the ring of every world (22
R463). Table 25-1 gives no BAR0 offset for another world's page (log 31). -/
def State.readTrapOf (s : State) (reader w off : Nat) : Nat :=
  if reader = w then s.readRegister w (0x60000 + off)
  else if !s.seesTraps reader w then 0
  else if off = 0x20 then (s.world w).trap.count
  else if 0x4000 ≤ off && off < 0x8000 then wordAt (s.trapShown reader w ((off - 0x4000) / 64)) (off % 64)
  else 0

end Sys2Proof.Machine
end

