-- ==== Sys2Proof/Tests/Slice0.lean ====
section
/-! SUPPORT. Tests: ill-formed terms for every check, words of every encoded instruction written field by field from the tables of 02,
single steps whose results come from the spec's rules, and states that meet the hypotheses of the statements. -/

namespace Sys2Proof.Tests

set_option Elab.async false

open Sys2Proof.Machine

/-! ### Well-formedness -/

/-- One ill-formed word for each check of the fields (02 Table 2-11, reason 0x07): a reserved value or a misaligned register group. -/
theorem test_wf_refuses_fields : ([
    .add 9 12 20 0 1, .sub 8 13 20 0 1, .mad 9 12 20 0 1, .shl 8 13 20 0 1, .shli 8 12 32 0, .shri 8 12 32 0,
    .cmp 3 12 20 12 0, .cmp 3 12 20 0 3, .fcmp 3 12 20 12 0, .pset 3 4 5 0 3, .vany 3 4 2 0, .vall 3 4 0 3, .elect 3 2 0, .feTest 3 12 4 0,
    .txEnd 3 3, .cvti 8 12 16 0, .cvti 9 12 4 0, .cvti 8 13 12 0, .fcvt 8 12 10 0, .fcvt 8 12 0x20 0, .fcvt 8 12 0x42 0,
    .ficvt 8 12 8 0, .ficvt 9 12 2 0, .ifcvt 8 12 4 0, .ifcvt 8 13 3 0, .sysr 8 0x0B, .sysw 8 9, .cueSysr 8 0, .cueSysw 8 9, .qswp 8 12 3 0,
    .qbcast 8 12 4 0, .matchLanes 8 12 2 0, .matchLanes 8 13 1 0, .sred 8 12 12 0, .sred 9 12 11 0, .sscan 8 12 12 0, .sscan 8 13 75 0,
    .ld 8 12 0 0 7, .ld 9 12 0 0 5, .ld 8 13 0 0 4, .lds 10 12 0 0 6, .st 8 12 0 1, .sts 9 12 0 5, .nld 9 12 0 0 5, .nst 8 12 0 3,
    .nmac 9 12 0 0 0, .nmac 8 12 0 0 1, .amo 8 12 0 0 14, .amo 9 12 0 0 1, .amo 10 12 0 0 12, .amo 8 13 0 0 0, .red 8 12 0 10, .red 9 12 0 1,
    .wait 8 12 0 0 7, .wait 8 13 0 0 0, .barArrive 8 13 0 0, .barWait 8 13 0, .seal 8 13 0, .cflush 13 0 0, .cinv 13 0 0, .cpyIn 8 12 0 3,
    .cpyOut 8 13 0 0, .mma 6 24 40 6, .mma 6 25 40 0, .mma 6 24 41 0, .mloop 6 24 6, .mloop 6 26 0, .mld 6 25 0, .mrd 6 25 0 0, .mcvt 6 25 40 0,
    .lset 16 3, .hint 7 0, .hint 1 0x40, .hint 2 5, .hint 2 0x10, .hint 3 5, .hint 3 0x20, .hint 4 0x0C, .hint 4 0x10, .hint 5 2, .hint 5 4] : List Instr).all
    (fun i => !i.wf) = true := by
  decide +kernel

/-- One ill-formed operand for each check of the device's own steps. -/
theorem test_wf_refuses_operands : ([
    .illegalInstruction 13, .registerWrite 65 0 0, .registerWrite 0 0x2000000 0, .doorbell 65 0 0, .doorbell 0 2048 0, .gangMap 65, .gangUnmap 65,
    .preemptRequeue 66, .preemptHold 66, .releaseHeld 66, .vbufDeclare 65, .vbufAdvance 65, .vbufWithdraw 65, .quiescePoint 65, .s2Invalidate 65,
    .faultRetry 65, .faultAbort 65, .driverLeaseRequest 65, .leaseRelease 65 0, .leaseRelease 0 256, .leaseReclaim 0 256, .leaseGrant 0 256,
    .lockInterfaceRequest 0, .startInterfaceRequest 65, .stopInterfaceRequest 0, .functionLevelReset 0, .interfaceError 0, .getMeasurements 0 7,
    .getMeasurements 0 0, .keyExchange 65, .placementDecision 65, .ideKm 6 0, .linkDown 6, .linkUp 6, .ideCheckPass 6, .ideCheckFail 6 0,
    .cxlMemResponse 0 4 0, .cxlMemResponse 0 0 4, .groupForm 8, .groupFormed 8, .memberReturn 0 16 0, .memberAbsenceTimeout 8 0, .pwrLevelChange 0 8,
    .pwrLevelChange 64 0, .idleRequest 0 4, .formChange 64, .idleEnter 64, .idleExitDone 64, .containment 64, .homeAtomicPerform 64, .redApply 64,
    .redCmdExecute 64, .patrolPeriodEnd 64, .activationWindowExpiry 64, .thermalTrip 64 0, .thermalRecover 64 0, .thermalLockdown 64 0,
    .rowRetirementDone 64 0, .patrolVisit 64 0, .hotScrub 64 0, .launchDequeue 2048, .priorityPromotion 2048, .pacingWindow 65 0 0, .bundlerRound 1024,
    .cueIssue 1024, .l1MissFill 1024 0 0, .sealedLineEvict 1024 0, .partialSend 1024 0, .tcpyTransfer 1024 0 0, .laneCopyTransfer 1024 0 0,
    .copyComplete 1024 0, .mloopRun 1024 0, .mcvtRun 1024 0, .tileOpRetire 1024 0, .signatureReceived 1024 0 0, .nbSetIssue 64 0, .nbSetIssue 0 32,
    .nbAccessReturn 0 32, .hotnessRecord 256 0, .mscEvict 65 0 0] : List Instr).all (fun i => !i.wf) = true := by
  decide +kernel

/-! ### Decoding -/

/-- Do words decode to instructions? -/
def reads (p : Profile) (l : List (Word × Instr)) : Bool :=
  l.all (fun x => match decode p x.1 with | .ok i => i == x.2 | .error _ => false)

/-- Words of 02 Tables 2-1 to 2-10, field by field. -/
theorem test_decode_integer : reads .core [
    (0b0000001_0001000_0001100_0010100_001_1, .add 8 12 20 1 1),
    (0b0000010_0001000_0001100_0010100_001_1, .sub 8 12 20 1 1),
    (0b0000011_0001000_0001100_0010100_001_0, .mul 8 12 20 1),
    (0b0000100_0001000_0001100_0010100_001_1, .mulhi 8 12 20 1 1),
    (0b0000101_0001000_0001100_0010100_001_1, .mad 8 12 20 1 1),
    (0b0000110_0001000_0001100_0010100_001_1, .div 8 12 20 1 1),
    (0b0000111_0001000_0001100_0010100_001_1, .rem 8 12 20 1 1),
    (0b0001000_0001000_0001100_0010100_001_1, .min 8 12 20 1 1),
    (0b0001001_0001000_0001100_0010100_001_1, .max 8 12 20 1 1),
    (0b0001010_0001000_0001100_0000000_001_0, .abs 8 12 1),
    (0b0001011_0001000_0001100_0000000_001_0, .neg 8 12 1),
    (0b0001100_0001000_0001100_0010100_001_0, .and 8 12 20 1),
    (0b0001101_0001000_0001100_0010100_001_0, .or 8 12 20 1),
    (0b0001110_0001000_0001100_0010100_001_0, .xor 8 12 20 1),
    (0b0001111_0001000_0001100_0010100_001_0, .andn 8 12 20 1),
    (0b0010000_0001000_0001100_0010100_001_1, .shl 8 12 20 1 1),
    (0b0010001_0001000_0001100_0010100_001_1, .shr 8 12 20 1 1),
    (0b0010010_0001000_0001100_0010100_001_0, .rot 8 12 20 1),
    (0b0010011_0001000_0001100_0010100_001_1, .bfx 8 12 20 1 1),
    (0b0010100_0001000_0001100_0010100_001_0, .bfi 8 12 20 1),
    (0b0010101_0001000_0001100_0000000_001_0, .popc 8 12 1),
    (0b0010110_0001000_0001100_0000000_001_0, .clz 8 12 1),
    (0b0010111_0001000_0001100_0000000_001_0, .brev 8 12 1),
    (0b0011000_0001000_0001100_0010100_001_0, .perm 8 12 20 1),
    (0b0011001_0001000_0001100_0010100_001_1, .adds 8 12 20 1 1),
    (0b0011010_0001000_0001100_00001001_001, .addi 8 12 9 1),
    (0b0011011_0001000_0001100_00001001_001, .andi 8 12 9 1),
    (0b0011100_0001000_0001100_00001001_001, .ori 8 12 9 1),
    (0b0011101_0001000_0001100_00001001_001, .xori 8 12 9 1),
    (0b0011110_0001000_0001100_00001001_001, .shli 8 12 9 1),
    (0b0011111_0001000_0001100_00001001_001, .shri 8 12 9 1),
    (0b0100000_00011_0001100_0010100_0001_01, .cmp 3 12 20 1 1),
    (0b0100001_0001000_0001100_0010100_001_0, .sel 8 12 20 1),
    (0b0100010_0001000_0001100_0000000_001_0, .mov 8 12 1),
    (0b0100011_0001000_000000000000001001, .movi 8 9),
    (0b0100100_0001000_000000000_000000001, .movu 8 1),
    (0b0100101_0001000_000000000000001001, .ldc 8 9),
    (0b0100110_00011_00_01100_00_10100_0001_01, .pset 3 12 20 1 1)] = true := by decide +kernel

/-- Words of 02 Tables 2-1 to 2-10, field by field. -/
theorem test_decode_cvti_and_float : reads .core [
    (0b0100111_0001000_0001100_0000001_001_0, .cvti 8 12 1 1),
    (0b0101000_0001000_0001100_0010100_001_0, .fadd 8 12 20 1),
    (0b0101001_0001000_0001100_0010100_001_0, .fsub 8 12 20 1),
    (0b0101010_0001000_0001100_0010100_001_0, .fmul 8 12 20 1),
    (0b0101011_0001000_0001100_0010100_001_0, .ffma 8 12 20 1),
    (0b0101100_0001000_0001100_0010100_001_0, .fmin 8 12 20 1),
    (0b0101101_0001000_0001100_0010100_001_0, .fmax 8 12 20 1),
    (0b0101110_00011_0001100_0010100_0001_01, .fcmp 3 12 20 1 1),
    (0b0101111_0001000_0001100_0000000_001_0, .fclass 8 12 1),
    (0b0110000_0001000_0001100_0000000_001_0, .frint 8 12 1),
    (0b0110001_0001000_0001100_0000001_001_0, .fcvt 8 12 1 1),
    (0b0110010_0001000_0001100_0000001_001_0, .ficvt 8 12 1 1),
    (0b0110011_0001000_0001100_0000001_001_0, .ifcvt 8 12 1 1),
    (0b0110100_0001000_0001100_0010100_001_1, .hadd2 8 12 20 1 1),
    (0b0110101_0001000_0001100_0010100_001_1, .hmul2 8 12 20 1 1),
    (0b0110110_0001000_0001100_0010100_001_1, .hfma2 8 12 20 1 1),
    (0b0110111_0001000_0001100_0010100_001_1, .hmax2 8 12 20 1 1)] = true := by decide +kernel

/-- Words of 02 Tables 2-1 to 2-10, field by field. -/
theorem test_decode_special_and_lane : reads .core [
    (0b0111000_0001000_0001100_0010_001_0000, .rcp 8 12 2 1),
    (0b0111001_0001000_0001100_0010_001_0000, .rsqrt 8 12 2 1),
    (0b0111010_0001000_0001100_0010_001_0000, .sqrt 8 12 2 1),
    (0b0111011_0001000_0001100_0010_001_0000, .ex2 8 12 2 1),
    (0b0111100_0001000_0001100_0010_001_0000, .lg2 8 12 2 1),
    (0b0111101_0001000_0001100_0010_001_0000, .sinpi 8 12 2 1),
    (0b0111110_0001000_0001100_0010_001_0000, .cospi 8 12 2 1),
    (0b0111111_0001000_0001100_0010_001_0000, .tanh 8 12 2 1),
    (0b10000000000000_0001100_0000000_001_0, .rngs 12 1),
    (0b1000001_0001000_00000000000000_001_0, .rng 8 1),
    (0b1000010_0001000_0001100_0010100_001_1, .dot4 8 12 20 1 1),
    (0b1000011_0001000_000000000000001001, .sysr 8 9),
    (0b1000100_0001000_00_01100_0000000_001_0, .ballot 8 12 1),
    (0b1000101_00011_00_01100_0000000_0001_01, .vany 3 12 1 1),
    (0b1000110_00011_00_01100_0000000_0001_01, .vall 3 12 1 1),
    (0b1000111_0001000_0001100_0010100_001_0, .shfl 8 12 20 1),
    (0b1001000_0001000_0001100_0000001_001_0, .sred 8 12 1 1),
    (0b1001001_0001000_0001100_0000001_001_0, .sscan 8 12 1 1),
    (0b1001010_0001000_0001100_0000010_001_0, .qswp 8 12 2 1),
    (0b1001011_0001000_0001100_0000011_001_0, .qbcast 8 12 3 1),
    (0b1001100_0001000_0001100_0000001_001_0, .matchLanes 8 12 1 1),
    (0b1001101_00011_00000000000000_0001_01, .elect 3 1 1)] = true := by decide +kernel

/-- Words of 02 Tables 2-1 to 2-10, field by field. -/
theorem test_decode_memory : reads .core [
    (0b1010000_0001000_0001100_0010_001_0110, .ld 8 12 2 1 6),
    (0b1010001_0001000_0001100_0000_001_0101, .st 8 12 1 5),
    (0b1010010_0001000_0001100_0010_001_0011, .lds 8 12 2 1 3),
    (0b1010011_0001000_0001100_0000_001_0110, .sts 8 12 1 6),
    (0b1010100_0001000_0001100_0010_001_0001, .amo 8 12 2 1 1),
    (0b1010101_0001000_0001100_0000_001_0001, .red 8 12 1 1),
    (0b1010110_0001000_0001100_0000_001_1_001, .wait 8 12 1 1 1),
    (0b1010111000000000000000000_001_0000, .fence 1),
    (0b1011000000000_0000000000000000101, .txBeg 5),
    (0b1011001_00011_000000000000000000_01, .txEnd 3 1),
    (0b101101000000000000000_00001001_001, .txAbort 9 1),
    (0b1011011_0001000_0001100_0010_001_0000, .barArrive 8 12 2 1),
    (0b1011100_0001000_0001100_0000_001_0000, .barWait 8 12 1),
    (0b1011101_0001000_0001100_0000_001_0000, .seal 8 12 1),
    (0b10111100000000_0001100_0000_001_0111, .cflush 12 1 7),
    (0b10111110000000_0001100_0000_001_1111, .cinv 12 1 15),
    (0b1100000_0001000_0001100_0000_001_0001, .cpyIn 8 12 1 1),
    (0b1100001_0001000_0001100_0000_001_0001, .cpyOut 8 12 1 1),
    (0b11000100000000_0001100_0000_001_0011, .feClr 12 1 3),
    (0b11000110000000_0001100_0000_001_0011, .feSet 12 1 3),
    (0b1100100_00011_0001100_0000000_0001_01, .feTest 3 12 1 1),
    (0b1100101000000000000000000000_001_0, .rsbDrain 1),
    (0b11001100000000_0001100_0000_001_0000, .bsum 12 1)] = true := by decide +kernel

/-- Words of 02 Tables 2-1 to 2-10, field by field. -/
theorem test_decode_matrix : reads .core [
    (0b1101000_0110_0011000_0101000_0000_010, .mma 6 24 40 2),
    (0b1101001_0110_0001100_00000000000_010, .mloop 6 12 2),
    (0b1101010_0110_0011000_000000000000_01, .mld 6 24 1),
    (0b1101011_0110_0101000_0000000_0010_0_01, .mrd 6 40 2 1),
    (0b1101100_0110_000000000000000000000, .mclr 6),
    (0b1101101_0110_0001100_0010100_0000_010, .mcvt 6 12 20 2)] = true := by decide +kernel

/-- Words of 02 Tables 2-1 to 2-10, field by field. -/
theorem test_decode_control : reads .core [
    (0b1110000_00011_1_0000000000000000101, .bra 3 1 5),
    (0b11100010000000_0001100_0000000_001_0, .brx 12 1),
    (0b1110010000000_0000000000000000101, .call 5),
    (0b11100110000000_0001100_0000000_001_0, .ret 12 1),
    (0b1110100000000000000000000000_001_0, .join 1),
    (0b1110101000000000000000000000_001_0, .exit 1),
    (0b1110110000000000000000000000_001_0, .yield 1),
    (0b1110111000000000000000000000_001_0, .nop 1),
    (0b11110000000000_0001100_00001001_001, .trap 12 9 1),
    (0b11110010000000000000000000000000, .rett),
    (0b111101000000000000000_00001001_001, .brk 9 1),
    (0b1111011_0001000_000000001000000010, .sysw 8 514)] = true := by decide +kernel

/-- Words of 02 Tables 2-1 to 2-10, field by field. -/
theorem test_decode_near_bank : reads .nearBank [
    (0b1111100_0001000_0001100_0010_001_0101, .nld 8 12 2 1 5),
    (0b1111101_0001000_0001100_0000_001_0010, .nst 8 12 1 2),
    (0b1111110_0001000_0001100_0010_001_0000, .nmac 8 12 2 1 0)] = true := by decide +kernel

/-- Words of 02 Tables 2-1 to 2-10, field by field. -/
theorem test_decode_hint : reads .core [
    (0b1111111_001_0000000000000000000011, .hint 1 3)] = true := by decide +kernel

/-- Words of 02 Tables 2-1 to 2-10, field by field. -/
theorem test_decode_cue_arithmetic : reads .cue [
    (0b0000001_000001000_00001100_00010100, .sadd 8 12 20),
    (0b0000010_000001000_00001100_00010100, .ssub 8 12 20),
    (0b0000011_000001000_00001100_00010100, .smul 8 12 20),
    (0b0000100_000001000_00001100_00010100, .smulhi 8 12 20),
    (0b0000101_000001000_00001100_00010100, .sdiv 8 12 20),
    (0b0000110_000001000_00001100_00010100, .srem 8 12 20),
    (0b0000111_000001000_00001100_00010100, .smin 8 12 20),
    (0b0001000_000001000_00001100_00010100, .smax 8 12 20),
    (0b0001001_000001000_00001100_00010100, .sand 8 12 20),
    (0b0001010_000001000_00001100_00010100, .sor 8 12 20),
    (0b0001011_000001000_00001100_00010100, .sxor 8 12 20),
    (0b0001100_000001000_00001100_00010100, .sandn 8 12 20),
    (0b0001101_000001000_00001100_00010100, .sshl 8 12 20),
    (0b0001110_000001000_00001100_00010100, .sshr 8 12 20),
    (0b0001111_000001000_00001100_00010100, .ssra 8 12 20),
    (0b0010000_000001000_00001100_00010100, .sbfx 8 12 20),
    (0b0010001_000001000_00001100_00010100, .sbfi 8 12 20),
    (0b0010010_000001000_00001100_00010100, .scmp 8 12 20),
    (0b0010011_000001000_00001100_00010100, .ssel 8 12 20),
    (0b0010100_000001000_00001100_00000000, .sclz 8 12),
    (0b0011000_000001000_00001100_00001001, .saddi 8 12 9),
    (0b0011001_000001000_0000000000001001, .sli 8 9),
    (0b0011010_000001000_0000000000001001, .slui 8 9),
    (0b0011011_000001000_000001100_0000000, .smov 8 12),
    (0b0011100_000001000_0000000000001001, .sldc 8 9),
    (0b0011101_000001000_0000000001000010, .cueSysr 8 66)] = true := by decide +kernel

/-- Words of 02 Tables 2-1 to 2-10, field by field. -/
theorem test_decode_cue_memory : reads .cue [
    (0b0100000_000001000_00001100_0101_0010, .sld 8 12 5 2),
    (0b0100001_000001000_00001100_0101_0000, .sst 8 12 5),
    (0b0100010_000001000_00001100_0101_0010, .samo 8 12 5 2),
    (0b01000110000000000000000000000000, .sfence),
    (0b0100100_000001000_00001100_0101_0000, .swait 8 12 5),
    (0b0100101000000000_00001100_00010100, .sseal 12 20),
    (0b010100000000_1_011_00001100_00010100, .qfill 1 3 12 20),
    (0b010100100000_1_011_00001100_00010100, .qdrain 1 3 12 20),
    (0b0101010_000001000_00000000_00010100, .qstat 8 20),
    (0b0101011000000000_00001100_00010100, .tcpyIn 12 20),
    (0b0101100000000000_00001100_00010100, .tcpyOut 12 20),
    (0b0101101000000000_00001100_00010100, .tlay 12 20)] = true := by decide +kernel

/-- Words of 02 Tables 2-1 to 2-10, field by field. -/
theorem test_decode_cue_control : reads .cue [
    (0b0110000_00001_1_0000000000000000101, .sbra 1 1 5),
    (0b0110001000000_0000000000000000101, .sjmp 5),
    (0b0110010000000_0000000000000000101, .scall 5),
    (0b0110011000000000_00001100_00000000, .sret 12),
    (0b01101000000000000000000000000000, .sexit),
    (0b01101010000000000000000000000000, .syield),
    (0b0111000_000001000_0000000000001001, .strap 8 9),
    (0b01110010000000000000000000000000, .srett),
    (0b0111010_000001000_0000001000000010, .cueSysw 8 514),
    (0b0111011000000000_00001100_00000000, .cueBsum 12)] = true := by decide +kernel

/-- Words of 02 Tables 2-1 to 2-10, field by field. -/
theorem test_decode_prologue : reads .prologue [
    (0b1110000_000000010_00001100_00000000, .lset 2 12),
    (0b1110001000000000_00001100_00000000, .lcancel 12),
    (0b11100100000000000000000000000000, .lrepeat),
    (0b11100110000000000000000000000000, .lgo)] = true := by decide +kernel

/-! ### Small states -/

/-- A machine whose next step runs a word: one troupe of world 1 on slice 0 (log 2). -/
def running (w : Nat) : State := State.reset.withFetchWord 32 w

/-- A figure of 32 live threads on a core. -/
def onCore : State := running 0xEE000000

/-- The same on a near-bank unit. -/
def onUnit : State := running 0xF8000000

/-- A cue stream. -/
def onCue : State := running 0x06000001

/-- A prologue run. -/
def onPrologue : State := running 0xE2000100

/-- Registers of every thread. -/
def regs (v : Tab Word) (s : State) : State :=
  s.onSet 1 0 (fun S => S.onLanes (BitVec.allOnes 32) (fun _ th => { th with v := v }))

/-- Uniform registers. -/
def uniform (r : Tab DWord) (s : State) : State := s.onTroupe 1 (fun T => { T with s := r })

/-- Hints of the group in progress. -/
def hinted (h : List (Nat × BitVec 22)) (s : State) : State := { s with cur := s.cur.map (fun u => { u with hints := h }) }

/-- A lease of 4 pages at VA 0 over DPA 0x2000, and page 3 over host memory; port 0 is up. -/
def leased (s : State) : State :=
  let page (a : Nat) : Page := { dpa := a, w := true, cow := false, p := false, size := 12 }
  { (s.onWorld 1 (fun W => { W with leases := [(0,
      { Lease0 with
        state := 2, rw := true, users := 1, len := 4
        snap := [(0, page 0x2000), (1, page 0x3000), (2, page 0x4000), (3, page 0xC000000005000)] })] })).onLaunch 1
    (fun L => { L with uses := [{ entry := 0, rw := true }] }) with
    ports := { Port0 with up := true } :: List.replicate 5 Port0 }

/-- Page tables of a world: both stages map the first GiB onto itself, writable. -/
def mapped (w : Nat) (s : State) : State :=
  { s.onWorld w (fun W => { W with ctx := [(0, 0x12001)], trust := { W.trust with s2valid := true, s2root := 0x10 } }) with
    mem := (((s.mem.writeBytes 0x10000 (leBytes 8 0x11001)).writeBytes 0x11000 (leBytes 8 7)).writeBytes 0x12000
      (leBytes 8 0x13001)).writeBytes 0x13000 (leBytes 8 7) }

/-- Does the instruction issue and take effect? -/
def goes (s : State) (i : Instr) : Bool :=
  match stepGo s i with
  | some (.go _) => true
  | _ => false

/-- The context in which it does. -/
def ctx (s : State) (i : Instr) : Ctx :=
  match stepGo s i with
  | some (.go c) => c
  | _ => default

theorem issues_of_goes {s : State} {i : Instr} (h : goes s i = true) : Issues s i (ctx s i) := by
  unfold goes at h
  unfold Issues ctx
  cases h' : stepGo s i with
  | none => simp [h'] at h
  | some g =>
    cases g with
    | stop t => simp [h'] at h
    | go c => rfl

/-- A figure that issues `i` with a context that meets `h`. -/
def Met (s : State) (i : Instr) (h : Ctx → Prop) : Prop := Issues s i (ctx s i) ∧ h (ctx s i)

theorem met {s : State} {i : Instr} {h : Ctx → Prop} (g : goes s i = true) (w : h (ctx s i)) : Met s i h :=
  ⟨issues_of_goes g, w⟩

theorem met_all {s : State} {l : List Instr} (g : l.all (goes s) = true) : ∀ i ∈ l, Issues s i (ctx s i) :=
  fun i h => issues_of_goes (List.all_eq_true.mp g i h)

/-- A check of the listed lanes is a check of every lane of the mask. -/
theorem lanes_all {m : Word} {p : Nat → Bool} (h : (lanesOf m).all p = true) (j : Nat) (hj : inMask m j = true) : p j = true := by
  refine List.all_eq_true.mp h j ?_
  simp only [lanesOf, List.mem_filter, List.mem_range, hj, and_true]
  unfold inMask at hj
  exact Nat.lt_of_not_le fun hn => by simp [BitVec.getLsbD_of_ge _ _ hn] at hj

/-! ### One step -/

/-- Register `r` of lane `j` after one step that runs word `w`, with registers `v` in every lane. -/
def after (w : Nat) (v : Tab Word) (j r : Nat) : Option Word :=
  match step (regs v (running w)) with
  | .next t => (t.setAt? 1 0).map (fun S => (S.lane j).get r)
  | _ => none

/-- 13 Table 13-1: add wraps at 2^32. Word: add v8, v2, v4. -/
theorem test_add_wraps : after 0b0000001_0001000_0000010_0000100_000_0 [(2, 0xFFFFFFFF), (4, 2)] 31 8 = some 1 := by decide +kernel

/-- 13 Table 13-1: a source that is the destination is read first. Word: add.n64 v8, v8, v8. -/
theorem test_add_pair : after 0b0000001_0001000_0001000_0001000_000_1 [(8, 0x80000000), (9, 1)] 0 9 = some 3 := by decide +kernel

/-- 13 R301: a division by 0 gives all ones, and its remainder is the dividend. Words: div.s v8, v2, v4; rem.s v8, v2, v4. -/
theorem test_division_by_zero :
    after 0b0000110_0001000_0000010_0000100_000_1 [(2, 7)] 0 8 = some 0xFFFFFFFF ∧
    after 0b0000111_0001000_0000010_0000100_000_1 [(2, 0xFFFFFFF9), (4, 2)] 0 8 = some 0xFFFFFFFF := by decide +kernel

/-- 13 R298: a count of 32 shifts every bit out; an arithmetic shift leaves the sign. Words: shl, shr.s. -/
theorem test_shift_by_width :
    after 0b0010000_0001000_0000010_0000100_000_0 [(2, 5), (4, 32)] 0 8 = some 0 ∧
    after 0b0010001_0001000_0000010_0000100_000_1 [(2, 0x80000000), (4, 0x100)] 0 8 = some 0xFFFFFFFF := by decide +kernel

/-- 13 R299: a signed field of 4 bits at bit 4. Word: bfx.s. -/
theorem test_field : after 0b0010011_0001000_0000010_0000100_000_1 [(2, 0xA5), (4, 0x0404)] 0 8 = some 0xFFFFFFFA := by decide +kernel

/-- 13 R313: shfl reads the lane that vb names as it was at issue. Word: shfl v8, v2, v4 with the lane's own number. -/
theorem test_lane_number : after 0b1000011_0001000_000000000000000000 [] 17 8 = some 17 := by decide +kernel

/-- 12 R280: 1 + 2^-24 rounds to even, to 1. Word: fadd v8, v2, v4. -/
theorem test_fadd_tie : after 0b0101000_0001000_0000010_0000100_000_0 [(2, 0x3F800000), (4, 0x33800000)] 0 8 = some 0x3F800000 := by
  decide +kernel

/-- 14 R337: four products of bytes, signed: 1·1 + (−1)·2. Word: dot4.s v8, v2, v4. -/
theorem test_dot4 : after 0b1000010_0001000_0000010_0000100_000_1 [(2, 0xFF01), (4, 0x0201), (8, 10)] 0 8 = some 9 := by decide +kernel

/-- 13 R303: cmp.lt (signed) into p3 is a predicate bit; the word of the mask reads it. Word: cmp.lt p3, v2, v4. -/
theorem test_cmp :
    (match step (regs [(2, 0xFFFFFFFF)] (running 0b0100000_00011_0000010_0000100_0010_00)) with
      | .next t => (t.setAt? 1 0).map (fun S => (S.lane 5).p.getLsbD 3)
      | _ => none) = some true := by decide +kernel

/-- 11 R243: a load of a signed byte, little-endian. Word: ld.s8 v8, [v2]. -/
theorem test_load_byte :
    (let s := regs [] (leased (running 0b1010000_0001000_0000010_0000_000_0001))
     let s := { s with mem := s.mem.writeBytes 0x2000 [0x80, 1] }
     let s := s.onCore 0 (fun C => { C with l1 := [{ world := 1, tcid := 0, va := 0, dpa := 0x40, write := false, sealed := false }] })
     match step s with
      | .next t => (t.setAt? 1 0).map (fun S => (S.lane 0).get 8)
      | _ => none) = some 0xFFFFFF80 := by decide +kernel

/-- 16 R368: in a prologue a division by 0 gives all ones. Word: sdiv s8, s12, s20. -/
theorem test_prologue_division :
    (match exec (.sdiv 8 12 20) onPrologue with
      | .next t => t.launches.get? 1 |>.map (fun L => L.s.get? 8)
      | _ => none) = some (some (BitVec.allOnes 64)) := by decide +kernel

/-- 02 R53: the word of zeros is illegal, reason 0x00, and closes the chunk with a record. -/
theorem test_illegal_word :
    (match step { onCore with mem := [] } with
      | .next t => (t.setAt? 1 0).map (fun S => S.closing.bind (fun c => c.trap.map (fun r => (r.cause, r.reason))))
      | _ => none) = some (some (1, 0)) := by decide +kernel

/-! ### The hypotheses of the statements are met: the step stream -/

/-- IntegerOperations, ShiftFieldAndByteRules, ImmediateForms, ComparesAndPredicates, MovesAndConversions but ldc,
FloatAndPackedArithmetic, FloatSelectionsAndConversions, SpecialFunctionResults, Generator, DotProduct, BallotsAndVotes,
Shuffle, QuadsMatchesAndTrees and SpecialValues: each instruction issues. -/
theorem witness_register_instructions : ∀ i ∈ ([
    .add 8 12 20 0 0, .add 8 12 20 0 1, .sub 8 12 20 0 0, .sub 8 12 20 0 1, .mul 8 12 20 0, .mad 8 12 20 0 0, .mad 8 12 20 0 1,
    .abs 8 12 0, .neg 8 12 0, .mulhi 8 12 20 0 1, .min 8 12 20 0 0, .max 8 12 20 0 1, .adds 8 12 20 0 0, .and 8 12 20 0,
    .or 8 12 20 0, .xor 8 12 20 0, .andn 8 12 20 0, .rot 8 12 20 0, .popc 8 12 0, .clz 8 12 0, .brev 8 12 0, .shl 8 12 20 0 0,
    .shl 8 12 20 0 1, .shr 8 12 20 0 0, .shr 8 12 20 0 1, .bfx 8 12 20 0 0, .bfi 8 12 20 0, .perm 8 12 20 0, .addi 8 12 9 0,
    .andi 8 12 9 0, .ori 8 12 9 0, .xori 8 12 9 0, .shli 8 12 31 0, .shri 8 12 31 0, .cmp 3 12 20 11 1, .pset 3 4 5 6 2,
    .sel 8 12 20 1, .mov 8 12 0, .movi 8 9, .movu 8 11] : List Instr), Issues onCore i (ctx onCore i) :=
  met_all (by decide +kernel)

theorem witness_conversions : ∀ i ∈ ([
    .cvti 8 12 0 0, .cvti 8 12 1 0, .cvti 8 12 2 0, .cvti 8 12 3 0, .cvti 8 12 4 0, .cvti 8 12 5 0, .cvti 8 12 6 0, .cvti 8 12 7 0,
    .cvti 8 12 8 0, .cvti 8 12 9 0, .cvti 8 12 10 0, .cvti 8 12 11 0, .cvti 8 12 12 0, .cvti 8 12 13 0, .cvti 8 12 14 0, .cvti 8 12 15 0,
    .fcvt 8 12 0x10 0, .fcvt 8 12 4 0, .fcvt 8 12 5 0, .fcvt 8 12 0x79 0, .ficvt 8 12 0 0, .ficvt 8 12 7 0, .ifcvt 8 12 0 0, .ifcvt 8 12 3 0,
    .fadd 8 12 20 0, .fsub 8 12 20 0, .fmul 8 12 20 0, .ffma 8 12 20 0, .hadd2 8 12 20 0 0, .hmul2 8 12 20 0 1, .hfma2 8 12 20 0 0,
    .hmax2 8 12 20 0 1, .fmin 8 12 20 0, .fmax 8 12 20 0, .fcmp 3 12 20 11 0, .fclass 8 12 0, .frint 8 12 0] : List Instr),
    Issues onCore i (ctx onCore i) :=
  met_all (by decide +kernel)

theorem witness_lane_instructions : ∀ i ∈ ([
    .rcp 8 12 2 0, .rsqrt 8 12 2 0, .sqrt 8 12 2 0, .ex2 8 12 2 0, .lg2 8 12 2 0, .sinpi 8 12 2 0, .cospi 8 12 2 0, .tanh 8 12 0 0,
    .rng 8 0, .rngs 12 0, .dot4 8 12 20 0 1, .ballot 8 3 0, .vany 3 4 1 0, .vall 3 4 0 1, .elect 3 0 0, .elect 3 1 2, .shfl 8 12 20 0,
    .qswp 8 12 2 0, .qbcast 8 12 3 0, .matchLanes 8 12 0 0, .matchLanes 8 12 1 0, .sred 8 12 0 0, .sred 8 12 11 0, .sscan 8 12 0 0,
    .sscan 8 12 63 0, .sscan 8 12 64 0, .sysr 8 0x00, .sysr 8 0x0A, .sysr 8 0x10, .sysr 8 0x14, .sysr 8 0x18, .sysr 8 0x1D, .sysr 8 0x20,
    .sysr 8 0x40, .sysr 8 0x44] : List Instr), Issues onCore i (ctx onCore i) :=
  met_all (by decide +kernel)

/-- The clauses of floating conversions that have further hypotheses, at their boundaries. -/
theorem witness_fcvt :
    Met onCore (.fcvt 8 12 4 0) (fun c => 4 % 16 < 5 ∧ c.mode ≠ 4) ∧
    Met onCore (.fcvt 8 12 5 0) (fun _ => 5 ≤ 5 % 16 ∧ 5 % 16 < 10 ∧ (formatOf 5).bits * 0 + (formatOf 5).bits ≤ 32) ∧
    Met onCore (.fcvt 8 12 0x79 0) (fun _ => 5 ≤ 0x79 % 16 ∧ 0x79 % 16 < 10 ∧ (formatOf 9).bits * 7 + (formatOf 9).bits ≤ 32) :=
  ⟨met (by decide +kernel) (by decide +kernel), met (by decide +kernel) (by decide +kernel), met (by decide +kernel) (by decide +kernel)⟩

/-- DivisionRule: no flag; cause 0x08; cause 0x09 where a divisor is 0 but its trap is off. -/
theorem witness_division :
    Met (onCore |> regs [(12, 7), (20, 2)]) (.div 8 12 20 0 1) (fun c => c.zeroDivisors 20 = 0 ∧ c.overflows true 12 20 = 0) ∧
    Met (onCore |> regs [(12, 7)]) (.rem 8 12 20 0 0) (fun c => c.T.amask.getLsbD 0 = false ∧ c.overflows false 12 20 = 0) ∧
    Met ((onCore |> regs [(12, 7)]).onTroupe 1 (fun T => { T with amask := 1 })) (.div 8 12 20 0 1)
      (fun c => c.T.amask.getLsbD 0 = true ∧ c.zeroDivisors 20 ≠ 0) ∧
    Met ((onCore |> regs [(12, 0x80000000), (20, 0xFFFFFFFF)]).onTroupe 1 (fun T => { T with amask := 3 })) (.rem 8 12 20 0 1)
      (fun c => c.zeroDivisors 20 = 0 ∧ c.T.amask.getLsbD 1 = true ∧ c.overflows true 12 20 ≠ 0) :=
  ⟨met (by decide +kernel) (by decide +kernel), met (by decide +kernel) (by decide +kernel), met (by decide +kernel) (by decide +kernel),
    met (by decide +kernel) (by decide +kernel)⟩

/-- ldc: a literal in the code, one before it and one behind it. -/
theorem witness_ldc :
    Met onCore (.ldc 8 0) (fun c => ∃ k, onCore.codeOf c.issue.agent = some k ∧ k.desc.inObject 0x100 4 = true) ∧
    Met onCore (.ldc 8 0x20000) (fun c => (c.issue.word : Int) + 4 * immS c.issue.hints 18 0x20000 < 0) ∧
    Met onCore (.ldc 8 0x1000) (fun c => ∃ k, onCore.codeOf c.issue.agent = some k ∧ k.desc.inObject 0x4100 4 = false) :=
  ⟨met (by decide +kernel) ⟨_, rfl, by decide +kernel⟩, met (by decide +kernel) (by decide +kernel),
    met (by decide +kernel) ⟨_, rfl, by decide +kernel⟩⟩

/-- The quad and scan clauses at the ends of their ranges. -/
theorem witness_lane_ranges : (2 : BitVec 7).toNat < 3 ∧ (3 : BitVec 7).toNat < 4 ∧ (63 : BitVec 7).toNat < 64 ∧ 64 ≤ (64 : BitVec 7).toNat := by
  decide

/-! ### Memory -/

/-- A load of page 0, whose line 0 core 0 holds in its L1. -/
def loading : State := (leased onCore).onCore 0 (fun C =>
  { C with l1 := [{ world := 1, tcid := 0, va := 0, dpa := 0x40, write := false, sealed := false }] })

/-- Lane addresses at host memory at system scope, whose answers have come. -/
def far : State :=
  (leased onCore |> regs [(12, 0x3000)] |> hinted [(3, 20)]).onSet 1 0 (fun S =>
    { S with answers := (List.range 32).map (fun j => (j, 7)) })

/-- Does a result hold a value? -/
def fine {ε α : Type} (x : Except ε α) : Bool :=
  match x with
  | .ok _ => true
  | .error _ => false

/-- MemoryChecks: no lease, a read-only operand of a store and a scratchpad address beyond the allotment are reported. -/
theorem witness_bad_lanes :
    Met onCore (.ld 8 12 0 0 4) (fun c =>
      (report (c.lanes.filterMap (fun j => onCore.laneBad (onCore.launchOf c.T) .load j (c.va j 12) 4))).isSome = true) ∧
    (∀ i ∈ ([.st 8 12 0 4, .amo 8 12 0 0 0, .red 8 12 0 0] : List Instr), Met onCore i (fun c =>
      (report ((onCore.doers c).filterMap (fun j => onCore.laneBad (onCore.launchOf c.T) .store j (c.va j 12) 4))).isSome = true)) ∧
    (∀ i ∈ ([.lds 8 12 0 0 4, .sts 8 12 0 4] : List Instr), Met (onCore |> regs [(12, 4093)]) i (fun c =>
      (report (c.lanes.filterMap (fun j => (onCore |> regs [(12, 4093)]).spadBad c j (c.sp j 12) 4))).isSome = true)) := by
  refine ⟨met (by decide +kernel) (by decide +kernel), fun i h => ?_, fun i h => ?_⟩
  · simp only [List.mem_cons, List.not_mem_nil, or_false] at h
    rcases h with rfl | rfl | rfl <;> exact met (by decide +kernel) (by decide +kernel)
  · simp only [List.mem_cons, List.not_mem_nil, or_false] at h
    rcases h with rfl | rfl <;> exact met (by decide +kernel) (by decide +kernel)

/-- CheckOrder: an address with its lease, the last of it, and the first behind it. -/
theorem witness_leases :
    let s := leased onCore
    let L := s.launchOf (s.troupes.getD 1 default)
    fine (s.leaseOf L .load 0) = true ∧ fine (s.leaseOf L .store 0x3FFF) = true ∧ fine (s.leaseOf L .load 0x4000) = false := by
  decide +kernel

theorem readable_of_hit {s : State} {c : Ctx} {j : Nat} {a : BitVec 7} (h1 : Ctx.farLane s c j a = false)
    (h2 : Ctx.inL1 s c j a = true) : Ctx.readable s c j a := by
  simp [Ctx.readable, h1, h2]

theorem readable_of_answer {s : State} {c : Ctx} {j x : Nat} {a : BitVec 7} (h1 : Ctx.farLane s c j a = true)
    (h2 : c.S.answers.get? j = some x) (h3 : answerBad x = none) : Ctx.readable s c j a := by
  simp [Ctx.readable, h1, h2, h3]

/-- LoadsComplete: a hit, and answers of the host's memory; the load's chunk stays. -/
theorem witness_loads :
    Met loading (.ld 8 12 0 0 4) (fun c => (∀ j, inMask c.act j = true →
      loading.laneBad (loading.launchOf c.T) .load j (c.va j 12) 4 = none ∧ Ctx.readable loading c j 12) ∧
      (Ctx.homesRead loading c 12 4).lostChunk c = false) ∧
    Met far (.ld 8 12 0 0 6) (fun c => (∀ j, inMask c.act j = true →
      far.laneBad (far.launchOf c.T) .load j (c.va j 12) 16 = none ∧ Ctx.readable far c j 12) ∧
      (Ctx.homesRead far c 12 16).lostChunk c = false) := by
  refine ⟨met (by decide +kernel) ⟨fun j hj => ?_, by decide +kernel⟩, met (by decide +kernel) ⟨fun j hj => ?_, by decide +kernel⟩⟩
  · have h := lanes_all (p := fun j => decide (
        loading.laneBad (loading.launchOf (ctx loading (.ld 8 12 0 0 4)).T) .load j ((ctx loading (.ld 8 12 0 0 4)).va j 12) 4 = none) &&
      !(Ctx.farLane loading (ctx loading (.ld 8 12 0 0 4)) j 12) && Ctx.inL1 loading (ctx loading (.ld 8 12 0 0 4)) j 12)
      (m := (ctx loading (.ld 8 12 0 0 4)).act) (by decide +kernel) j hj
    simp only [Bool.and_eq_true, decide_eq_true_eq, Bool.not_eq_true'] at h
    exact ⟨h.1.1, readable_of_hit h.1.2 h.2⟩
  · have h := lanes_all (p := fun j => decide (
        far.laneBad (far.launchOf (ctx far (.ld 8 12 0 0 6)).T) .load j ((ctx far (.ld 8 12 0 0 6)).va j 12) 16 = none) &&
      Ctx.farLane far (ctx far (.ld 8 12 0 0 6)) j 12 && decide ((ctx far (.ld 8 12 0 0 6)).S.answers.get? j = some 7))
      (m := (ctx far (.ld 8 12 0 0 6)).act) (by decide +kernel) j hj
    simp only [Bool.and_eq_true, decide_eq_true_eq] at h
    exact ⟨h.1.1, readable_of_answer h.1.2 h.2 (by decide +kernel)⟩

/-- StoresComplete, AtomicsIssue, ReductionsBuffer: the lanes' checks pass; an atomic near its home, one at its target with release
order at system scope, and one that no lane performs. -/
theorem witness_stores :
    let s := leased onCore
    let L := s.launchOf (s.troupes.getD 1 default)
    let ok (s : State) (w : Nat) (c : Ctx) : Prop := ∀ j ∈ s.doers c,
      s.laneBad L .store j (c.va j 12) w = none ∧ s.sealState L.world L.tcid (c.va j 12) = 0
    let none' := s |> regs [(12, 0x3000)]
    Met s (.st 8 12 0 4) (fun c => ok s 4 c ∧ (addAll ((c.S.chunk.map (·.writes)).getD []) [0x40]).length ≤ 128) ∧
    Met s (.red 8 12 0 0) (fun c => ok s 4 c ∧ ∀ j ∈ s.doers c, (s.world 1).rangeAt 0 (c.va j 12) = none ∧
      s.atTarget false (s.dpaOf L (c.va j 12)) = false) ∧
    Met s (.amo 8 12 0 0 0) (fun c => ok s 4 c ∧ s.doers c ≠ [] ∧ (∀ j ∈ s.doers c, Ctx.farLane s c j 12 = false ∧
        s.queued (s.home L.world (s.dpaOf L (c.va j 12) / 128)) + 32 ≤ 128 ∧
        s.redsHeld s.drains (s.home L.world (s.dpaOf L (c.va j 12) / 128)) = false) ∧
      isSystem c.issue.hints = false) ∧
    Met far (.amo 8 12 0 0 0) (fun c => ok far 4 c ∧ far.doers c ≠ [] ∧ (∀ j ∈ far.doers c, Ctx.farLane far c j 12 = true ∧
      farAtomicBad 0 (far.dpaOf L (c.va j 12)) = none) ∧ isSystem c.issue.hints = true ∧ isRelease c.issue.hints = true ∧
      far.acked c.t c.k = true) ∧
    Met none' (.amo 8 12 0 2 0) (fun c => none'.doers c = []) := by
  exact ⟨met (by decide +kernel) (by decide +kernel), met (by decide +kernel) (by decide +kernel),
    met (by decide +kernel) (by decide +kernel), met (by decide +kernel) (by decide +kernel), met (by decide +kernel) (by decide +kernel)⟩

/-! ### Scratchpad, waits, barriers, transactions, seals, copies -/

/-- Lane 0 names a line that is empty, and the others line 1. -/
def partlyEmpty : State :=
  ((regs [(12, 128)] onCore).onSet 1 0 (fun S => S.onLanes 1 (fun _ th => { th with v := [(12, 0)] }))).onTroupe 1
    (fun T => { T with lines := [(0, (false, false))] })

/-- ScratchpadAccesses: the last word of the allotment, and a load of which one lane's line is empty. -/
theorem witness_scratchpad :
    let s := regs [(12, 4092)] onCore
    let ok (s : State) (any : Bool) (c : Ctx) : Prop := ∀ j ∈ c.lanes, s.spadBad c j (c.sp j 12) 4 = none ∧
      s.pending c (meetsAny [((Ctx.padAt s c j 12 4).1, (Ctx.padAt s c j 12 4).2, (Ctx.padAt s c j 12 4).2 + 4, any)]) = false
    let empty (s : State) (c : Ctx) := c.lanes.filter (fun j =>
      !(s.lineSeen c.S (Ctx.padAt s c j 12 4).1 ((Ctx.padAt s c j 12 4).2 / 128)).1)
    Met s (.lds 8 12 0 0 4) (fun c => ok s false c ∧ empty s c = []) ∧
    Met partlyEmpty (.lds 8 12 0 0 4) (fun c => ok partlyEmpty false c ∧ empty partlyEmpty c = [0] ∧
      1 < c.lanes.length) ∧
    Met s (.sts 8 12 0 4) (fun c => ok s true c ∧ s.doers c = c.lanes) :=
  ⟨met (by decide +kernel) (by decide +kernel), met (by decide +kernel) (by decide +kernel), met (by decide +kernel) (by decide +kernel)⟩

/-- WaitsAndFences: a word near its home, one at its target, one in scratchpad, and a fence at system scope. -/
theorem witness_waits :
    let s := leased onCore
    let f := regs [(8, 7), (12, 0x3000)] far
    Met s (.wait 8 12 0 0 0) (fun c => (∀ j ∈ c.lanes, s.laneBad (s.launchOf c.T) .load j (c.va j 12) 4 = none ∧
        Ctx.farLane s c j 12 = false ∧ s.readFault 1 (s.dpaOf (s.launchOf c.T) (c.va j 12)) = none) ∧
      c.lanes.filter (fun j => !(Ctx.waitWord s c 12 j).any (fun x => waitCond 0 (BitVec.ofNat 32 x) (c.rd j 8))) = []) ∧
    Met f (.wait 8 12 0 0 0) (fun c => (∀ j ∈ c.lanes, f.laneBad (f.launchOf c.T) .load j (c.va j 12) 4 = none ∧
        Ctx.farLane f c j 12 = true ∧ c.S.answers.get? j = some 7 ∧ answerBad 7 = none) ∧
      c.lanes.filter (fun j => !(Ctx.waitWord f c 12 j).any (fun x => waitCond 0 (BitVec.ofNat 32 x) (c.rd j 8))) = []) ∧
    Met onCore (.wait 8 12 0 1 0) (fun c => (∀ j ∈ c.lanes, onCore.spadBad c j (c.sp j 12) 4 = none) ∧
      onCore.lineFull 1 0 = true ∧ waitCond 0 0 (c.rd 0 8) = true) ∧
    Met (hinted [(3, 4)] onCore) (.fence 0) (fun c => c.act ≠ 0 ∧ c.T.place.isUnit = false ∧ isSystem c.issue.hints = true ∧
      (hinted [(3, 4)] onCore).acked c.t c.k = true) ∧
    Met onUnit (.fence 0) (fun c => c.T.place.isUnit = true ∧ onUnit.nbStores c.t c.k c.T = false) :=
  ⟨met (by decide +kernel) (by decide +kernel), met (by decide +kernel) (by decide +kernel), met (by decide +kernel) (by decide +kernel),
    met (by decide +kernel) (by decide +kernel), met (by decide +kernel) (by decide +kernel)⟩

/-- A barrier object at VA 0 that expects 32 arrivals. -/
def barrier : State := { leased onCore with mem := (leased onCore).mem.writeBytes 0x2000 (leBytes 4 0 ++ leBytes 4 32 ++ leBytes 4 6) }

/-- Barriers: arrivals that pass, and a wait for a generation that has passed. -/
theorem witness_barriers :
    let ok (k : Kind) (c : Ctx) : Prop := ∀ j ∈ c.lanes, barrier.barBad (barrier.launchOf c.T) k j (c.va j 12) = none
    Met barrier (.barArrive 8 12 0 0) (fun c => ok .store c ∧ (∀ j ∈ barrier.doers c,
      barrier.sealState 1 0 (c.va j 12) = 0 ∧ barrier.barInvalid 1 0x2000 = false ∧ barrier.lineBusy 1 0x40 = false) ∧
      c.T.place.isUnit = false ∧ barrier.drains = [] ∧ isSystem c.issue.hints = false) ∧
    Met (regs [(8, 5)] barrier) (.barWait 8 12 0) (fun c => ok .load c ∧
      c.lanes.filter (fun j => BitVec.ofNat 32 (barrier.seenNat 1 (0x2000 + 8) 4) == c.rd j 8) = []) :=
  ⟨met (by decide +kernel) (by decide +kernel), met (by decide +kernel) (by decide +kernel)⟩

/-- An open transaction whose fallback is 0x200. -/
def inTx : State := onCore.onSet 1 0 (fun S => (S.openChunk 0x100 0x100).onChunk (fun c => { c with tx := some 0x200 }))

/-- TransactionsAndFallbacks. -/
theorem witness_transactions :
    Met onCore (.txBeg 5) (fun _ => True) ∧ Met onCore (.txEnd 3 0) (fun c => c.S.inTx = false) ∧
    Met inTx (.txEnd 3 0) (fun c => c.S.inTx = true) ∧
    Met onCore (.txAbort 9 2) (fun c => c.act = 0) ∧ Met onCore (.txAbort 9 0) (fun c => c.act ≠ 0 ∧ c.S.inTx = false) ∧
    Met inTx (.txAbort 9 0) (fun c => c.act ≠ 0 ∧ c.S.inTx = true ∧ (c.S.chunk.bind (·.tx)) = some 0x200) := by
  refine ⟨?_, ?_, ?_, ?_, ?_, ?_⟩ <;> exact met (by decide +kernel) (by decide +kernel)

/-- SealsAndCacheLines: a buffer of one line, and lines near and outside. -/
theorem witness_seals :
    let s := regs [(8, 128)] (leased onCore)
    let f := regs [(12, 0x3000)] far
    Met s (.seal 8 12 0) (fun c => c.S.retry = 0 ∧ ∀ j ∈ s.doers c, c.va j 12 % 128 = 0 ∧ (c.rd j 8).toNat % 128 = 0 ∧
      s.sealRangeBad (s.launchOf c.T) (c.va j 12) (max 1 (c.rd j 8).toNat) = none) ∧
    (∀ i ∈ ([.cflush 12 0 15, .cinv 12 0 15] : List Instr), Met f i (fun c =>
      (∀ j ∈ f.doers c, f.linesBad (f.launchOf c.T) j (c.va j 12) 16 = none) ∧ isSystem c.issue.hints = true ∧
      (f.namedLines (f.launchOf c.T) (f.doers c) (fun j => c.va j 12) 16).any (fun l => isOutside (l * 128)) = true ∧ f.drains = [])) ∧
    (∀ i ∈ ([.cflush 12 0 0, .cinv 12 0 0] : List Instr), Met s i (fun c =>
      (∀ j ∈ s.doers c, s.linesBad (s.launchOf c.T) j (c.va j 12) 1 = none) ∧ isSystem c.issue.hints = false)) := by
  refine ⟨met (by decide +kernel) (by decide +kernel), fun i h => ?_, fun i h => ?_⟩ <;>
  · simp only [List.mem_cons, List.not_mem_nil, or_false] at h
    rcases h with rfl | rfl <;> exact met (by decide +kernel) (by decide +kernel)

/-- A core whose 64 scoreboard entries are taken. -/
def fullBoard (s : State) : State :=
  s.onCore 0 (fun C => { C with ops := (List.range 64).map (fun e => (e, { Op0 with troupe := 9 })) })

/-- LaneCopiesAndLineBits. -/
theorem witness_copies :
    let s := leased onCore
    let ok (s : State) (k : OpKind) (c : Ctx) : Prop := s.doers c ≠ [] ∧
      ∀ j ∈ s.doers c, s.laneCopyBad (s.launchOf c.T) c.T k.access j (c.rd j 8).toNat (c.va j 12) 4 false = none ∧
        s.sealState 1 0 (c.va j 12) ≠ 1
    Met s (.cpyIn 8 12 0 0) (fun c => ok s .cpyIn c ∧ (s.coreAt 0).freeOp = some 0) ∧
    Met s (.cpyOut 8 12 0 0) (fun c => ok s .cpyOut c ∧ (s.coreAt 0).freeOp = some 0) ∧
    Met (fullBoard s) (.cpyIn 8 12 0 0) (fun c => ok (fullBoard s) .cpyIn c ∧ ((fullBoard s).coreAt 0).freeOp = none) ∧
    Met s (.cpyOut 8 12 2 0) (fun c => s.doers c = []) :=
  ⟨met (by decide +kernel) (by decide +kernel), met (by decide +kernel) (by decide +kernel), met (by decide +kernel) (by decide +kernel),
    met (by decide +kernel) (by decide +kernel)⟩

theorem witness_line_bits :
    let s := regs [(12, 4095)] onCore
    (∀ i ∈ ([.feClr 12 0 0, .feSet 12 0 0] : List Instr), Met s i (fun c =>
      (∀ j ∈ s.doers c, fine (s.spadAt c.t c.T (c.sp j 12 - c.sp j 12 % 128) 128) = true) ∧ ∀ q, c.S.chunk = some q → q.copies = [])) ∧
    Met s (.feTest 3 12 3 0) (fun c => ∀ j ∈ c.lanes, fine (s.spadAt c.t c.T (c.rd j 12).toNat 1) = true) ∧
    Met s (.rsbDrain 0) (fun c => (∀ q, c.S.chunk = some q → q.copies = []) ∧ (s.coreAt c.T.place.coreNo).ops = []) := by
  refine ⟨fun i h => ?_, met (by decide +kernel) (by decide +kernel), met (by decide +kernel) ⟨?_, by decide +kernel⟩⟩
  · simp only [List.mem_cons, List.not_mem_nil, or_false] at h
    rcases h with rfl | rfl <;> refine met (by decide +kernel) ⟨by decide +kernel, ?_⟩ <;>
      exact fun q hq => Option.some.inj ((congrArg (Option.map Chunk.copies) hq).symm.trans (by decide +kernel))
  · exact fun q hq => Option.some.inj ((congrArg (Option.map Chunk.copies) hq).symm.trans (by decide +kernel))

/-! ### Near-bank units, tiles, control flow, traps -/

/-- Windows of the launch in slice 0: a writable frame at virtual page 0 and a read-only one at page 1. -/
def windowed (s : State) : State :=
  let win (rw : Bool) (v : Nat) : NbWin := { rw := rw, frame := 4 + v, vpage := v, runbase := 0, launch := 1 }
  (s.onSlice 0 (fun S => { S with nb := { S.nb with win := [(0, win true 0), (1, win false 1)] } })).onLaunch 1
    (fun L => { L with wins := [(0, (0, 2))] })

/-- The block of a reduction of two sources, at scratchpad offset 0; its completion word lies at VA 0x40 of the lease. -/
def block : List Byte :=
  leBytes 8 0 ++ leBytes 8 0x200000 ++ leBytes 8 0x1000 ++ leBytes 8 0x40 ++ leBytes 4 4 ++ leBytes 4 1 ++ leBytes 2 3 ++ leBytes 22 0

/-- NearBankInstructions: accesses that pass, at the end of the frame's first granule, and a command. -/
theorem witness_near_bank :
    let s := windowed (regs [(12, 60)] onUnit)
    let t := (windowed (leased onCore)).onTroupe 1 (fun T => T.putBytes 0 block)
    (∀ i ∈ ([.nld 8 12 2 0 4, .nst 8 12 0 4, .nmac 8 12 2 0 0] : List Instr), Met s i (fun c =>
      c.T.place = .unit 0 0 ∧ s.doers c ≠ [] ∧ c.lanes ≠ [] ∧
      ∀ j ∈ c.lanes, nbBad (s.windows (s.launchOf c.T) 0) 0 (c.sp j 12) 4 true = none)) ∧
    Met t (.bsum 12 0) (fun c => t.doers c ≠ [] ∧ c.T.place.isUnit = false ∧ (t.slice 0).nb.queue.length + 32 ≤ 64 ∧
      c.T.blockBad 0 = false ∧ t.lineFull c.t 0 = true ∧ t.lineFull c.t 63 = true ∧
      t.redBad (t.launchOf c.T) (t.windows (t.launchOf c.T) 0) (c.blockOf t 12 0) (c.commandOf t 12 0) = none) ∧
    Met onUnit (.bsum 12 2) (fun c => onUnit.doers c = []) := by
  refine ⟨fun i h => ?_, met (by decide +kernel) (by decide +kernel), met (by decide +kernel) (by decide +kernel)⟩
  simp only [List.mem_cons, List.not_mem_nil, or_false] at h
  rcases h with rfl | rfl | rfl <;> exact met (by decide +kernel) (by decide +kernel)

/-- MatrixAndTiles: nothing stands in the way, and operands at the ends of the allotment. -/
theorem witness_tiles :
    let s := regs [(24, 0), (25, 1024), (26, 0), (27, 1)] onCore
    let t := regs [(24, 4096 - 31 * 32 - 32), (40, 32)] onCore
    let free (c : Ctx) : Prop := (onCore.coreAt c.T.place.coreNo).ops = [] ∧ (15 : BitVec 4).toNat < min 16 (c.T.tileCount / c.T.sets)
    (∀ i ∈ ([.mma 15 24 40 0, .mld 15 24 3, .mrd 15 24 0 3, .mclr 15] : List Instr), Met onCore i (fun c => free c ∧
      (c.T.tile (c.tileNo 15)).int = (0 == 5 : Bool) ∧ tileOf c.issue.hints = false)) ∧
    Met s (.mloop 15 24 0) (fun c =>
      let w (k : Nat) := c.leader (24 + k)
      free c ∧ nfld (w 3) 13 3 = 0 ∧ w 3 < 2 ^ 17 ∧ w 0 < 2 ^ 19 ∧ w 1 < 2 ^ 19 ∧ nfld (w 3) 0 13 = 1 ∧ w 0 % 128 = 0 ∧
      w 1 % 128 = 0 ∧ blockSpan (w 0) (sextNat 16 (w 2)) 1 = (0, 0) ∧ blockSpan (w 1) (sextNat 16 (w 2 / 2 ^ 16)) 1 = (1024, 1024) ∧
      2048 ≤ c.T.spadSize) ∧
    Met t (.mcvt 15 24 40 2) (fun c =>
      let o := c.leader 24
      let p := c.leader 40
      free c ∧ o < 2 ^ 19 ∧ o % 16 = 0 ∧ p % 16 = 0 ∧ mcvtRow 2 ≤ p ∧ o + 31 * p + mcvtRow 2 ≤ c.T.spadSize) := by
  refine ⟨fun i h => ?_, met (by decide +kernel) (by decide +kernel), met (by decide +kernel) (by decide +kernel)⟩
  simp only [List.mem_cons, List.not_mem_nil, or_false] at h
  rcases h with rfl | rfl | rfl | rfl <;> exact met (by decide +kernel) (by decide +kernel)

/-- MatrixStep at the last element of each kind of format. -/
theorem witness_matrix_step : 31 < 32 ∧ 5 ≤ 5 ∧ (4 : Nat) ≤ 5 := by decide

/-- ControlFlow: targets inside and outside the code, active and idle figures, a join of the whole set and one that waits. -/
theorem witness_control :
    let s := regs [(12, 0x200)] onCore
    let some' (c : Ctx) : Prop := c.act ≠ 0 ∧ c.T.place.isUnit = false
    let split := onCore.onSet 1 0 (fun S => S.onLanes 1 (fun _ th => { th with pc := 0x104 }))
    Met onCore (.bra 0 1 5) (fun c => c.lands onCore (sbTarget c.issue 5) ∧ (c.S.lane 0).pred 0 = true) ∧
    Met onCore (.bra 0 0 5) (fun c => ∀ j < 32, (c.S.lane j).pred 0 = true) ∧
    Met onCore (.bra 0 1 0x7FF00) (fun c => ¬ onCore.codeHas c.issue.agent (sbTarget c.issue 0x7FF00) = true ∧ inMask c.mask 0 = true ∧
      (c.S.lane 0).pred 0 = true) ∧
    Met onCore (.call 5) (fun c => onCore.codeHas c.issue.agent (sbTarget c.issue 5) = true) ∧
    Met onCore (.call 0x7FF00) (fun c => ¬ onCore.codeHas c.issue.agent (sbTarget c.issue 0x7FF00) = true) ∧
    (∀ i ∈ ([.brx 12 0, .ret 12 0] : List Instr), Met s i (fun c => ∀ j ∈ c.lanes, (c.rd j 12).toNat % 4 = 0 ∧
      s.codeHas c.issue.agent ((c.rd j 12).toNat : Int) = true)) ∧
    (∀ i ∈ ([.nop 0, .exit 0, .yield 0] : List Instr), Met onCore i some') ∧ Met onCore (.exit 2) (fun c => c.act = 0) ∧
    Met onUnit (.join 0) (fun c => c.T.place.isUnit = true) ∧
    Met onCore (.join 0) (fun c => some' c ∧ ∀ j < 32, (c.S.lane j).live = true → (c.S.lane j).pc = c.issue.group) ∧
    Met split (.join 0) (fun c => some' c ∧ c.act = c.mask ∧ (c.S.lane 0).live = true ∧ (c.S.lane 0).pc ≠ c.issue.group ∧
      BitVec.ofNat 32 c.S.joined &&& c.mask = 0) := by
  refine ⟨met (by decide +kernel) ?_, met (by decide +kernel) (by decide +kernel), met (by decide +kernel) (by decide +kernel),
    met (by decide +kernel) (by decide +kernel), met (by decide +kernel) (by decide +kernel), fun i h => ?_, fun i h => ?_,
    met (by decide +kernel) (by decide +kernel), met (by decide +kernel) (by decide +kernel), met (by decide +kernel) (by decide +kernel),
    met (by decide +kernel) (by decide +kernel)⟩
  · unfold Ctx.lands
    decide +kernel
  · simp only [List.mem_cons, List.not_mem_nil, or_false] at h
    rcases h with rfl | rfl <;> exact met (by decide +kernel) (by decide +kernel)
  · simp only [List.mem_cons, List.not_mem_nil, or_false] at h
    rcases h with rfl | rfl | rfl <;> exact met (by decide +kernel) (by decide +kernel)

/-- A set in a handler, whose interrupted threads stand at 0x100. -/
def inHandler : State := onCore.onSet 1 0 (fun S => { S with handler := some { threads := S.threads, trap := { cause := 8 }, names := S.names, accepted := 0, answers := [] } })

/-- StepTraps, PreciseTraps and HintsGather. -/
theorem witness_traps :
    (∀ i ∈ ([.trap 12 9 0, .brk 9 0] : List Instr), Met onCore i (fun c => c.act ≠ 0)) ∧
    (∀ i ∈ ([.trap 12 9 2, .brk 9 2] : List Instr), Met onCore i (fun c => c.act = 0)) ∧
    Met onCore .rett (fun c => c.S.handler = none) ∧
    Met inHandler .rett (fun c => (c.S.handler.map (fun h => h.threads.all (fun th =>
      !th.live || (th.pc % 4 == 0 && (inHandler.launchOf c.T).desc.inCode th.pc)))) = some true) ∧
    Met onCore (.sysw 8 0x202) (fun _ => True) ∧ Met onCore (.sysw 8 0x120) (fun c => (c.specialBad 0x120).isSome = true) ∧
    (∀ i ∈ ([0x120, 0x121, 0x1000, 0x1077] : List (BitVec 18)), Met inHandler (.sysw 8 i) (fun c =>
      c.S.handler.isSome = true ∧ c.specialBad i.toNat = none)) ∧
    onCore.cur.isSome = true ∧ (SetState.start 0x100 1).inTx = false ∧ (SetState.start 0x100 1).chunk = none ∧
    (((SetState.start 0x100 1).openChunk 0x100 0x100).chunk.map (·.phase)) = some .running := by
  refine ⟨fun i h => ?_, fun i h => ?_, met (by decide +kernel) (by decide +kernel), met (by decide +kernel) (by decide +kernel),
    met (by decide +kernel) trivial, met (by decide +kernel) (by decide +kernel), fun i h => ?_, by decide +kernel⟩
  · simp only [List.mem_cons, List.not_mem_nil, or_false] at h
    rcases h with rfl | rfl <;> exact met (by decide +kernel) (by decide +kernel)
  · simp only [List.mem_cons, List.not_mem_nil, or_false] at h
    rcases h with rfl | rfl <;> exact met (by decide +kernel) (by decide +kernel)
  · simp only [List.mem_cons, List.not_mem_nil, or_false] at h
    rcases h with rfl | rfl | rfl | rfl <;> exact met (by decide +kernel) (by decide +kernel)

/-- IllegalWords: each front end has an issue in progress and may issue. -/
theorem witness_illegal :
    let S := (onCore.setAt? 1 0).getD default
    let T := onCore.troupes.getD 1 default
    let u := onCore.groupEnd (onCore.cur.getD default)
    let f : Figure := { troupe := 1, set := 0, mask := BitVec.allOnes 32, pc := 0x100, more := false }
    u.agent = .step f ∧ onCore.troupes.get? 1 = some T ∧ onCore.setAt? 1 0 = some S ∧ canIssue onCore T S = true ∧ f.here u S ≠ 0 ∧
    (S.enterAt T u.group false false).isSome = true ∧
    (onCue.cur.map (·.agent)) = some (.cue 1) ∧ cueCan onCue (onCue.troupes.getD 1 default) = true ∧
    (onPrologue.cur.map (·.agent)) = some (.prologue 1) := by
  decide +kernel

/-- IssueConditions: a set that opens a chunk, one that goes on with its chunk, one on a unit, and one whose fence at system scope
stands alone. -/
theorem witness_issue :
    let T := onCore.troupes.getD 1 default
    let S := (onCore.setAt? 1 0).getD default
    let S1 := S.openChunk 0x100 0x100
    let u := onCore.cur.getD default
    let f : Figure := { troupe := 1, set := 0, mask := BitVec.allOnes 32, pc := 0x100, more := false }
    onCore.troupes.get? 1 = some T ∧ T.started = true ∧ T.halted = false ∧ (onCore.launchOf T).ending = false ∧ onCore.lockedDown = false ∧
    S.trapReady = none ∧ S.waiting = none ∧ S.traps = [] ∧ S.handler = none ∧ S.inTx = false ∧ f.here u S ≠ 0 ∧ f.here u S = S.live ∧
    owing (.shfl 8 12 20 0) S (f.here u S) = [] ∧ popsOf (.shfl 8 12 20 0) = [] ∧ pushOf (.shfl 8 12 20 0) = none ∧
    convergentIn (.shfl 8 12 20 0) false = true ∧ isAlone (.shfl 8 12 20 0) false false = false ∧ S.chunk = none ∧ S.closing = none ∧
    (S1.chunk.map (fun c => decide (c.phase = .running ∧ c.trap = none ∧ c.count < S1.limit))) = some true ∧
    isAlone (.fence 0) false true = true ∧ activeOf (.fence 0) u S (f.here u S) ≠ 0 ∧
    (onUnit.troupes.getD 1 default).place.isUnit = true ∧ ((onUnit.setAt? 1 0).getD default).chunks = [] ∧
    goes onCore (.shfl 8 12 20 0) = true := by
  decide +kernel

/-! ### The cue stream and the prologue -/

/-- The cue stream of a state may issue its word, in a troupe that meets `h`. -/
def CueMet (s : State) (h : Troupe → Issue → Prop) : Prop :=
  CueAt s 1 (s.troupes.getD 1 default) (s.cur.getD default) ∧ h (s.troupes.getD 1 default) (s.cur.getD default)

theorem cue_met {s : State} {h : Troupe → Issue → Prop} (g : CueAt s 1 (s.troupes.getD 1 default) (s.cur.getD default))
    (w : h (s.troupes.getD 1 default) (s.cur.getD default)) : CueMet s h := ⟨g, w⟩

theorem cue_at {s : State} (g : (decide (s.cueIssue? = some (1, s.troupes.getD 1 default, s.cur.getD default)) &&
    cueCan s (s.troupes.getD 1 default)) = true) : CueAt s 1 (s.troupes.getD 1 default) (s.cur.getD default) := by
  simpa [CueAt] using g

/-- CueOperations and CueDivision: a stream and a prologue run issue; the division's cases; a literal; every special value. -/
theorem witness_cue :
    CueMet onCue (fun T u => T.amask = 0 ∧ (onCue.codeOf u.agent).isSome = true ∧ (u.word : Int) / 8 * 8 = 0x100 ∧
      ((onCue.codeOf u.agent).map (fun c => c.desc.inObject 0x100 8)) = some true) ∧
    (onPrologue.cueIssue?.isNone = true ∧ onPrologue.prologue?.isSome = true) ∧
    CueMet (onCue.onTroupe 1 (fun T => { T with amask := 1 })) (fun T _ => T.gets 20 = 0 ∧ T.amask.getLsbD 0 = true) ∧
    CueMet ((uniform [(12, BitVec.intMin 64), (20, BitVec.allOnes 64)] onCue).onTroupe 1 (fun T => { T with amask := 2 })) (fun T _ =>
      T.gets 12 = BitVec.intMin 64 ∧ T.gets 20 = BitVec.allOnes 64 ∧ T.amask.getLsbD 1 = true) ∧
    CueMet ((uniform [(20, 1)] onCue).onTroupe 1 (fun T => { T with amask := 3 })) (fun T _ => T.gets 20 ≠ 0 ∧ T.gets 20 ≠ BitVec.allOnes 64) := by
  exact ⟨cue_met (cue_at (by decide +kernel)) (by decide +kernel), by decide +kernel, cue_met (cue_at (by decide +kernel)) (by decide +kernel),
    cue_met (cue_at (by decide +kernel)) (by decide +kernel), cue_met (cue_at (by decide +kernel)) (by decide +kernel)⟩

/-- A cue stream whose core's L1 holds line 0 of the lease. -/
def cueLoading : State := (leased onCue).onCore 0 (fun C =>
  { C with l1 := [{ world := 1, tcid := 0, va := 0, dpa := 0x40, write := false, sealed := false }] })

/-- Is a cue read's value there; does it wait; does it fail? -/
def gives (r : CueRead) : Nat :=
  match r with
  | .value .. => 0
  | .wait .. => 1
  | .fault .. => 2

/-- CueLoads and CueReadValue: no lease; a value of the L1 and one of the home; a wait for a target; a prologue's value and its fault; a
granule that fails. -/
theorem witness_cue_loads :
    let s := cueLoading
    let T := s.troupes.getD 1 default
    let L := s.launchOf T
    let f := hinted [(3, 4)] (leased onCue)
    let bad : State := { s with gran := [(0x80, { Gran0 with poison := true })] }
    let P := (onPrologue.launches.getD 1 default)
    let Q := (leased onPrologue).launches.getD 1 default
    CueMet onCue (fun _ _ => fine (onCue.laneAddr L .load 0 8) = false) ∧
    CueMet s (fun _ u => fine (s.laneAddr L .load 0 8) = true ∧ (cacheOf u.hints).1 ≠ 3 ∧ s.anyUnverified 1 [0x40] = false ∧
      s.live 1 0 0 0x2000 = false ∧ (s.coreAt 0).hits 1 0 0 false = true ∧ gives (s.cueRead 1 T 0 0x2000 8 false 0 0) = 0 ∧
      gives (s.cueRead 1 T 0 0x2000 8 false 3 0) = 0 ∧ s.readFault 1 0x2000 = none ∧
      gives (bad.cueRead 1 T 0 0x2000 8 false 3 0) = 2 ∧ bad.readFault 1 0x2000 ≠ none) ∧
    CueMet f (fun T u => fine (f.laneAddr L .load 0x3000 8) = true ∧
      gives (f.cueRead 1 T 0x3000 0xC000000005000 8 (isSystem u.hints) 0 0) = 1 ∧
      gives (f.cueRead 1 { T with cue := { T.cue with answers := [(0, 5)] } } 0x3000 0xC000000005000 8 true 0 0) = 0) ∧
    gives (onPrologue.prologueRead 1 P 0) = 2 ∧ gives ((leased onPrologue).prologueRead 1 Q 0) = 0 ∧
    ({ s with unverified := [(granKey 1 0x2000, 1)] } : State).anyUnverified 1 [0x40] = true := by
  exact ⟨cue_met (cue_at (by decide +kernel)) (by decide +kernel), cue_met (cue_at (by decide +kernel)) (by decide +kernel), cue_met (cue_at (by decide +kernel)) (by decide +kernel),
    by decide +kernel⟩

/-- CueStoresAndAtomics. -/
theorem witness_cue_stores :
    let s := leased onCue
    let L := s.launchOf (s.troupes.getD 1 default)
    let sealed (n : Nat) (s : State) : State :=
      s.onWorld 1 (fun W => { W with wobs := [(0, { Wob0 with state := n, len := 1, launch := 2 })] })
    let f := hinted [(3, 4)] s
    let asks (ctl : DWord) (s : State) : State := uniform [(9, ctl)] s
    CueMet s (fun T _ => fine (s.laneAddr L .store 0 8) = true ∧ s.sealState 1 0 0 = 0 ∧ s.atTarget false 0x2000 = false ∧
      T.cue.answers.get? 0 = none ∧ s.cueAsked 1 = false ∧
      ((s.cueSample T 0 1).writeLine 1 (runTab 0x2000 (leBytes 8 (T.gets 8).toNat)) 0 (some 0)).map (·.2) = some [] ∧
      s.contained 1 0x2000 = false ∧ s.queued (s.home 1 0x40) < 128) ∧
    CueMet (sealed 1 s) (fun _ _ => (sealed 1 s).sealState 1 0 0 = 1) ∧
    CueMet f (fun T u => f.atTarget (isSystem u.hints) 0xC000000005000 = true ∧ T.cue.answers.get? 0 = none ∧ f.cueAsked 1 = false ∧
      farAtomicBad 9 0xC000000005000 = none ∧ farAtomicBad 7 0xC000000005000 = some 1 ∧ farAtomicBad 0 0xD000000005000 = some 2) ∧
    CueMet (asks 11 s) (fun T _ => 10 < (T.gets 9).toNat % 16) ∧ CueMet (asks 32 s) (fun T _ => 32 ≤ (T.gets 9).toNat) ∧
    CueMet (asks 10 s) (fun T _ => (T.gets 9).toNat % 16 = 10 ∧ (T.gets 9).toNat / 16 % 2 = 0) ∧
    CueMet (asks 31 s) (fun T _ => 10 < (T.gets 9).toNat % 16) ∧
    CueMet (s.onCue 1 (fun C => { C with answers := [(0, 5)] })) (fun T _ => T.cue.answers.get? 0 = some 5) := by
  exact ⟨cue_met (cue_at (by decide +kernel)) (by decide +kernel),
    cue_met (cue_at (by decide +kernel)) (by decide +kernel),
    cue_met (cue_at (by decide +kernel)) (by decide +kernel),
    cue_met (cue_at (by decide +kernel)) (by decide +kernel),
    cue_met (cue_at (by decide +kernel)) (by decide +kernel),
    cue_met (cue_at (by decide +kernel)) (by decide +kernel),
    cue_met (cue_at (by decide +kernel)) (by decide +kernel),
    cue_met (cue_at (by decide +kernel)) (by decide +kernel)⟩

/-- CueSynchronisation: the fence; a malformed control word; words in scratchpad that meet and that wait; a word in memory; a
misaligned buffer, one that cannot be sealed and one that can. -/
theorem witness_cue_sync :
    let s := leased onCue
    let L := s.launchOf (s.troupes.getD 1 default)
    let ctl (x : DWord) : State := uniform [(9, x)] s
    CueMet (hinted [(3, 4)] onCue) (fun _ u => isSystem u.hints = true ∧ onCue.cueAsked 1 = false) ∧
    CueMet (ctl 0x1000000000) (fun T _ => 2 ^ 36 ≤ (T.gets 9).toNat) ∧
    CueMet (ctl 0x700000000) (fun T _ => (T.gets 9).toNat / 2 ^ 32 % 8 = 7) ∧
    CueMet (ctl 0x800000000) (fun T _ => (T.gets 9).toNat / 2 ^ 35 % 2 = 1 ∧ fine (s.spadAt 1 T 0 4) = true ∧ s.lineFull 1 0 = true ∧
      waitCond 0 (BitVec.ofNat 32 (leNat (s.spadBytes 1 0 4))) 0 = true) ∧
    CueMet (ctl 0x800000001) (fun T _ => waitCond 0 (BitVec.ofNat 32 (leNat (s.spadBytes 1 0 4))) (BitVec.ofNat 32 (T.gets 9).toNat) = false) ∧
    CueMet (ctl 0) (fun _ _ => fine (s.laneAddr L .load 0 4) = true ∧
      gives (s.cueRead 1 (s.troupes.getD 1 default) 0 0x2000 4 false 2 0) = 0) ∧
    CueMet (uniform [(12, 64)] s) (fun T _ => (T.gets 12).toNat % 128 ≠ 0) ∧
    CueMet (uniform [(20, 0x100000000)] s) (fun T _ => 2 ^ 32 ≤ (T.gets 20).toNat) ∧
    CueMet (uniform [(20, 128)] s) (fun _ _ => s.sealRangeBad L 0 128 = none ∧ fine (s.sealNow 1 0 1 0 128) = true) ∧
    CueMet s (fun _ _ => s.sealRangeBad L 0 1 = none ∧ fine (s.sealNow 1 0 1 0 0) = true) ∧
    fine ((s.onWorld 1 (fun W => { W with wobs := [(0, { Wob0 with state := 1, len := 1 })] })).sealNow 1 0 1 0 128) = false := by
  exact ⟨cue_met (cue_at (by decide +kernel)) (by decide +kernel), cue_met (cue_at (by decide +kernel)) (by decide +kernel),
    cue_met (cue_at (by decide +kernel)) (by decide +kernel), cue_met (cue_at (by decide +kernel)) (by decide +kernel),
    cue_met (cue_at (by decide +kernel)) (by decide +kernel), cue_met (cue_at (by decide +kernel)) (by decide +kernel),
    cue_met (cue_at (by decide +kernel)) (by decide +kernel), cue_met (cue_at (by decide +kernel)) (by decide +kernel),
    cue_met (cue_at (by decide +kernel)) (by decide +kernel), cue_met (cue_at (by decide +kernel)) (by decide +kernel), by decide +kernel⟩

/-- A port of set 0 with `n` committed entries. -/
def queued (n : Nat) (s : State) : State :=
  s.onSet 1 0 (fun S => { S with ports := modAt S.ports 3 (fun _ => List.replicate n { words := List.replicate 32 7, taken := 0, pushed := 0 }) })

/-- CueQueues: sets 0 and 1 of a troupe of one set; empty, half full and full ports; register and scratchpad forms. -/
theorem witness_cue_queues :
    CueMet (uniform [(20, 1)] onCue) (fun T _ => T.cue.handler = none ∧ T.sets ≤ (T.gets 20).toNat) ∧
    CueMet (queued 1 onCue) (fun T _ => T.cue.handler = none ∧ (T.gets 20).toNat < T.sets ∧
      (T.setTab.get? 0).map (fun S => (S.alive, (S.port 3).length)) = some (true, 1) ∧ (T.gets 12).toNat % 2 ^ 32 % 128 = 0 ∧
      fine (onCue.spadAt 1 T 0 128) = true ∧ onCue.lineFull 1 0 = true ∧
      ((T.setTab.get? 0).bind (fun S => S.drainable 3)).isSome = true ∧
      (onCue.coreAt 0).storeFree 1 ((onCue.coreAt 0).pos + 1) 0 128 = true) ∧
    CueMet (queued 2 onCue) (fun T _ => (T.setTab.get? 0).map (fun S => (S.port 3).length) = some 2) := by
  exact ⟨cue_met (cue_at (by decide +kernel)) (by decide +kernel), cue_met (cue_at (by decide +kernel)) (by decide +kernel),
    cue_met (cue_at (by decide +kernel)) (by decide +kernel)⟩

/-- A layout of one row of 32 elements at VA 0. -/
def row : Layout :=
  { base := 0, dims := [32, 0, 0, 0, 0], strides := [0, 0, 0, 0, 0], box := [32, 0, 0, 0, 0], fmt := 0, rank := 1, swz := 0, fill := 0 }

/-- That layout under handle 5, and its record at VA 64. -/
def laidOut (s : State) : State :=
  { s.onWorld 1 (fun W => { W with layouts := [(5, row)] }) with mem := s.mem.writeBytes 0x2040 row.bytes }

/-- TensorCopiesAndLayouts. -/
theorem witness_tensor :
    let s := laidOut (leased (uniform [(12, 0x500000000)] onCue))
    let L := s.launchOf (s.troupes.getD 1 default)
    let t := (windowed (leased onCue)).onTroupe 1 (fun T => T.putBytes 0 block)
    CueMet (leased onCue) (fun _ _ => ((leased onCue).world 1).layouts.get? 0 = none) ∧
    CueMet s (fun T u =>
      let lay := (s.world 1).layouts.getD 5 default
      (T.gets 12).toNat / 2 ^ 32 % 2 ^ 12 = 5 ∧ wordAddr (BitVec.ofNat 32 (T.gets 12).toNat) (immOff u.hints) = 0 ∧
      (T.gets 12).toNat < 2 ^ 44 ∧ lay.boxBytes ≤ T.spadSize ∧ lay.fmt ≠ 4 ∧ cwordOf u.hints = none ∧
      (∀ va ∈ (tensorOp T 1 u 12 20 lay .tcpyOut).memory, s.sealState 1 0 va ≠ 1) ∧ (s.coreAt 0).freeOp = some 0) ∧
    ((fullBoard s).coreAt 0).freeOp = none ∧
    CueMet (uniform [(20, 4096)] s) (fun T _ => 4095 < (T.gets 20).toNat) ∧
    CueMet (uniform [(20, 4095)] s) (fun T u => (T.gets 20).toNat ≤ 4095 ∧ wrap 64 ((T.gets 12).toNat + immOff u.hints) = 0) ∧
    CueMet (uniform [(12, 64)] s) (fun T _ => (T.gets 12).toNat % 64 = 0 ∧ fine (s.translate L .load 64) = true ∧
      (match s.cueRead 1 T 64 0x2040 64 false 2 0 with | .value _ y => (layoutBad y).isNone | _ => false) = true) ∧
    CueMet (uniform [(12, 128)] s) (fun T _ => (T.gets 12).toNat % 64 = 0 ∧
      (match s.cueRead 1 T 128 0x2080 64 false 2 0 with | .value _ y => (layoutBad y).isSome | _ => false) = true) ∧
    CueMet (uniform [(12, 0x100000000)] onCue) (fun T _ => 2 ^ 32 ≤ (T.gets 12).toNat) ∧
    CueMet (uniform [(12, 4096)] onCue) (fun T _ => T.blockBad (T.gets 12).toNat = true) ∧
    CueMet t (fun T u => T.blockBad (T.gets 12).toNat = false ∧ t.lineFull 1 0 = true ∧ t.lineFull 1 63 = true ∧
      t.redBad L (t.windows (t.launchOf T) 0) (t.spadBytes 1 0 64) (redCmdOf (t.spadBytes 1 0 64) T.launch 1 0xFF 0 u.group false) = none ∧
      (t.slice 0).nb.queue.length < 64) := by
  exact ⟨cue_met (cue_at (by decide +kernel)) (by decide +kernel), cue_met (cue_at (by decide +kernel)) (by decide +kernel),
    by decide +kernel, cue_met (cue_at (by decide +kernel)) (by decide +kernel), cue_met (cue_at (by decide +kernel)) (by decide +kernel), cue_met (cue_at (by decide +kernel)) (by decide +kernel),
    cue_met (cue_at (by decide +kernel)) (by decide +kernel), cue_met (cue_at (by decide +kernel)) (by decide +kernel),
    cue_met (cue_at (by decide +kernel)) (by decide +kernel), cue_met (cue_at (by decide +kernel)) (by decide +kernel)⟩

/-- A cue stream in a handler that returns to 0x104. -/
def inCueHandler : State :=
  onCue.onCue 1 (fun C => { C with handler := some { bank := [(14, 0x104)], win := [], trap := { cause := 8 } } })

/-- CueControl. -/
theorem witness_cue_control :
    CueMet onCue (fun T u => T.gets 4 = 0 ∧ onCue.codeHas u.agent (sbTarget u 5) = true ∧
      onCue.codeHas u.agent (sbTarget u 0x7FF00) = false ∧ T.cue.handler = none ∧
      ∀ e ∈ (onCue.coreAt T.place.coreNo).ops, e.2.troupe ≠ 1) ∧
    CueMet (uniform [(4, 1), (12, 0x200)] onCue) (fun T u => T.gets 4 ≠ 0 ∧ (T.gets 12).toNat % 4 = 0 ∧
      onCue.codeHas u.agent ((T.gets 12).toNat : Int) = true) ∧
    CueMet (uniform [(12, 0x201)] onCue) (fun T _ => (T.gets 12).toNat % 4 ≠ 0) ∧
    CueMet inCueHandler (fun T _ => (T.cue.handler.map (fun h => (h.bank.getD 14 0).toNat)) = some 0x104 ∧
      (inCueHandler.launchOf T).desc.inCode 0x104 = true) ∧
    CueMet (inCueHandler.onCue 1 (fun C => { C with handler := C.handler.map (fun h => { h with bank := [(14, 0x102)] }) })) (fun T _ =>
      (T.cue.handler.map (fun h => (h.bank.getD 14 0).toNat % 4)) = some 2) := by
  exact ⟨cue_met (cue_at (by decide +kernel)) (by decide +kernel), cue_met (cue_at (by decide +kernel)) (by decide +kernel),
    cue_met (cue_at (by decide +kernel)) (by decide +kernel), cue_met (cue_at (by decide +kernel)) (by decide +kernel),
    cue_met (cue_at (by decide +kernel)) (by decide +kernel)⟩

/-- PrologueInstructions: a run in progress, settable words and others, and a run that has counted 256 instructions. -/
theorem witness_prologue :
    let L := onPrologue.launches.getD 1 default
    (onPrologue.prologue?.map (fun x => (x.1, x.2.1))) = some (1, L) ∧ settable 0 = true ∧ settable 511 = false ∧
    onPrologue.codeHas (.prologue 1) (sbTarget (onPrologue.cur.getD default) 5) = true ∧ L.s.getD 4 0 = 0 ∧
    onPrologue.launches.get? 1 = some L ∧ L.stage = .prologue ∧ L.ending = false ∧ 256 ≤ { L with count := 256 }.count := by
  decide +kernel

/-! ### Steps of the device -/

/-- Set 0 commits a chunk that wrote line 0x40. -/
def closing (p : Phase) : State :=
  onCore.onSet 1 0 (fun S => { S with
    closing := ((S.openChunk 0x100 0x100).chunk).map (fun c => { c with phase := p, writes := [0x40], ticket := (7, 0, 0) }) })

/-- A grant of the line to another set. -/
def granted : State := { closing (.granting []) with grants := [{ home := 0, troupe := 2, set := 0, lines := [0x40] }] }

/-- Its stores drain. -/
def draining : State :=
  { leased onCore with drains := [{ troupe := 1, set := 0, launch := 1, world := 1, pc := 0x100, outs := [], seals := [], homes := [0], lines := [0x40]
                                    stores := [{ dpa := 0x2000, va := 0, bytes := [1, 2, 3, 4], lane := 0, sys := false, rel := false, l1 := 0, msc := 0 }] }] }

/-- A reduction of 4 bytes at 0x2000, and its place in the queue of its home. -/
def someRed : Red := { lane := 0, dpa := 0x2000, va := 0, op := 0, width := 4, val := 5, sys := false, rel := false, range := none }

def someRedAt (n : Nat) : RedAt := { seq := n, red := someRed, world := 1, launch := 1, troupe := 1, set := 0, pc := 0x100 }

/-- ChunksCommit: each phase of a commit. -/
theorem witness_commit :
    let T := onCore.troupes.getD 1 default
    let at' (s : State) (p : Phase) (h : State → Chunk → Bool) : Bool :=
      match s.setAt? 1 0 with
      | some S => decide (S.shift = S) && decide (s.onSet 1 0 SetState.shift = s) && (match S.closing with
        | some c => decide (c.phase = p) && !c.writes.isEmpty && !s.sealedStores (s.launchOf T) c 1 && !s.sealedStores (s.launchOf T) c 2 &&
          (s.homesOf (s.worldOf T) c.writes).all (fun h => (s.slice h).state != 3) && h s c
        | none => false)
      | none => false
    let a : Atomic := { seq := 0, asker := .cue 1, world := 1, tcid := 0, va := 0, dpa := 0x3000, op := 9, width := 4, cmp := 0, val := 5 }
    let full : State := ((closing .closed).onClosing 1 0 (fun c => { c with reds := [someRed] })).onSlice 0
      (fun S => { S with atomics := List.replicate 128 a })
    at' (closing .closed) .closed (fun s c => s.redRoom 1 c.reds) = true ∧
    at' full .closed (fun s c => !s.redRoom 1 c.reds) = true ∧
    at' (closing (.granting [])) (.granting []) (fun s c => (s.homesOf 1 c.writes).find? (fun h => !([] : List Nat).contains h) == some 0 && s.grants.isEmpty &&
      s.drains.isEmpty && (s.holders 1 1 0 c.writes).isEmpty) = true ∧
    (granted.grants.any (fun g => g.home == 0 && g.troupe != 1 && writeSig g.lines [0x40])) = true ∧
    at' (closing (.granting [0])) (.granting [0]) (fun s c => (s.homesOf 1 c.writes).all (fun h => [0].contains h)) = true ∧
    at' (closing (.acking [0] false)) (.acking [0] false) (fun s _ => s.troupes.all (fun e => e.2.setTab.all (fun f => e.1 == 1 && f.1 == 0))) = true ∧
    at' (closing (.acking [] false)) (.acking [] false) (fun s c => s.commitReady 1 c && (s.withSeals.sealAll (s.launchOf T) T.launch c.seals).isSome) = true ∧
    draining.drains.findIdx? (fun d => d.troupe == 1 && d.set == 0) = some 0 ∧
    (let st := (draining.drains.headD default).stores
     st ≠ [] ∧ (∀ x ∈ st, x.sys = false) ∧ ((draining.dropPassed 1 1 st).homeStore 1 (storeTab st) (storePol st)).2 = []) := by
  decide +kernel

/-- HomesAndLines: an atomic and a reduction at the head of their queue, one that fails, a partial, misses, a line at its home, a sample,
a poll. -/
theorem witness_homes :
    let a : Atomic := { seq := 0, asker := .cue 1, world := 1, tcid := 0, va := 0, dpa := 0x2000, op := 9, width := 4, cmp := 0, val := 5 }
    let s := leased onCore
    let sa := s.onSlice 0 (fun S => { S with atomics := [a], reds := [someRedAt 1] })
    let sr := s.onSlice 0 (fun S => { S with reds := [someRedAt 0], atomics := [{ a with seq := 1 }] })
    let bad (s : State) : State := { s with gran := [(0x80, { Gran0 with poison := true })] }
    let miss (dpa err : Nat) : Miss := { world := 1, tcid := 0, va := 0, dpa := dpa, write := false, merged := 1, msc := 0, alloc := true, req := none, err := err }
    let ring (head : Nat) : State := (s.onWorld 1 (fun W => { W with hot := { W.hot with en := true, log2sz := 1, head := head } })).onCluster 0
      (fun C => { C with due := [{ world := 1, va := 0, time := 0, core := 0, kind := 0, tcid := 0, miss := true }] })
    let waits (n : Nat) : Option Waiting := some { mask := 1, dst := 8, ahead := 0, next := 0x104, got := [], wide := n, vas := [(0, 0)] }
    let amo (s : State) : State := (s.onSlice 0 (fun S => { S with atomics := [{ a with asker := .lane 1 0 0 }] })).onSet 1 0 (fun S => { S with waiting := waits 1 })
    ((sa.slice 0).atomics = a :: [] ∧ sa.lineBusy 1 0x40 = false ∧ sa.anyUnverified 1 [0x40] = false ∧ sa.sealState 1 0 0 ≠ 2 ∧
      (∀ x ∈ (sa.slice 0).reds, a.seq ≤ x.seq) ∧ sa.performBad a = none ∧ (sa.homeRead 1 0x2000 4 0).seenNat 1 0x2000 4 = a.cmp) ∧
    ((amo s).nearAtomics 1 0 = [(0, { a with asker := .lane 1 0 0 })] ∧ (amo s).farAtomics 1 0 = [] ∧
      (amo s).nearReady 0 { a with asker := .lane 1 0 0 } = true ∧ (amo s).performBad { a with asker := .lane 1 0 0 } = none ∧
      (amo (bad s)).performBad { a with asker := .lane 1 0 0 } ≠ none) ∧
    ((sr.slice 0).reds = someRedAt 0 :: [] ∧ (∀ x ∈ (sr.slice 0).atomics, (someRedAt 0).seq ≤ x.seq) ∧ sr.readFault 1 0x2000 = none ∧
      (bad sr).readFault 1 0x2000 ≠ none ∧ (sr.slice 0).entryReds 0x40 = [someRedAt 0]) ∧
    ((s.onCore 0 (fun C => { C with partials := [(0x40, { world := 1, range := 0, sums := [] })] })).coreAt 0).partials.get? 0x40 ≠ none ∧
    ((miss 0x40 0).req = none ∧ s.missError 1 0x40 = none ∧ isOutside (0x40 * 128) = false ∧
      (bad s).missError 1 0x40 ≠ none ∧ s.missError 1 (0xC000000005000 / 128) = none ∧ s.mayRead 1 0xC000000005000 = true ∧
      s.copies.get? (lineKey 1 (0xC000000005000 / 128)) = none) ∧
    (let t : State := { s with lines := [(lineKey 1 0x40, { clusters := [], slices := [], retained := false, dirty := false, prot := false, way := 0, used := 1 })] }
     t.atHome 1 0x40 = true ∧ t.mayLeave 1 0x40 = true) ∧
    (((ring 2).cluster 0).due.find? (fun e => e.world == 1)).isSome = true ∧
    (((ring 2).world 1).hot.head + 2 ^ 32 - ((ring 2).world 1).hot.tail) % 2 ^ 32 = 2 ^ ((ring 2).world 1).hot.log2sz ∧
    (((ring 1).world 1).hot.head + 2 ^ 32 - ((ring 1).world 1).hot.tail) % 2 ^ 32 ≠ 2 ^ ((ring 1).world 1).hot.log2sz ∧
    (s.setAt? 1 0).isSome = true := by
  decide +kernel

/-- A scoreboard operation of troupe 1 in entry 0. -/
def operating (o : Op) (s : State) : State := s.onCore 0 (fun C => { C with ops := [(0, { o with troupe := 1, phase := .placed })], pos := 1 })

/-- EnginesRun: a row of each copy that may move, one of memory that takes stores, copies that are done, tile operations, a near-bank
read, and a command. -/
theorem witness_engines :
    let s := laidOut (leased onCore)
    let L := s.launchOf (s.troupes.getD 1 default)
    let lanes (k : OpKind) : Op := { Op0 with kind := k, width := 4, lanes := [(0, 0, 0x20)], ivals := [{ lo := 0, hi := 4, write := k.fills }] }
    let tensor (k : OpKind) : Op := { Op0 with kind := k, set := 0xFF, layout := { row with fmt := 1 }, coords := [0, 0, 0, 0, 0], ivals := [{ lo := 0, hi := 64, write := k.fills }] }
    let moves (o : Op) (va : Nat) : Bool :=
      let s := operating o s
      let o := (s.coreAt 0).ops.getD 0 Op0
      o.remaining.contains 0 && (s.coreAt 0).admits o && !s.pieceOut 0 0 ((o.merged 0).headD 0) && (o.pieceBytes 0).any (fun b => b.2.1.isSome) &&
        (o.span 0).1 == va && (o.merged 0).all (fun v => (s.rowStop L o 0 0 (v / 32)).isNone) &&
        (match s.reach L o.kind.access va 0 0 with | .dpa d _ => d == 0x2000 + va | _ => false)
    let done (o : Op) : Bool :=
      let s := operating { o with done := o.pieces } s
      let o := (s.coreAt 0).ops.getD 0 Op0
      o.kind.isCopy && o.phase == .placed && o.pieces.all (fun n => o.done.contains n) && !s.opUnverified o &&
        (match o.cword with | some (n, _) => (s.coreAt 0).storeFree 1 o.pos (16 * n) (16 * n + 4) | none => true)
    let ready (o : Op) : Bool :=
      let s := operating o s
      let o := (s.coreAt 0).ops.getD 0 Op0
      decide (o.phase = .placed) && (s.coreAt 0).admits o && (s.coreAt 0).ops.all (fun y =>
        y.2.kind.isCopy || !y.2.standing || decide (o.pos ≤ y.2.pos) ||
          decide (y.2.phase ≠ .placed) && (!y.2.onTile o.troupe o.tile || y.2.retired))
    let x (pull : Bool) (dpa : Nat) : Xfer :=
      { core := 0, entry := 0, op := { tensor (if pull then .tcpyIn else .tcpyOut) with troupe := 1 }, us := [0], lo := 0, dpa := dpa, n := 32, world := 1
        tcid := 0, launch := 1, far := isOutside dpa, prot := false }
    let u := s.onUnit 0 5 (fun U => { U with queue := [{ id := 9, troupe := 1, set := 0, pc := 0x100, kind := 0, mod := 4, dst := 8, lanes := [(0, 0x2000)], data := [] }] })
    let t := windowed s
    let c := redCmdOf block 1 1 0 0 0x100 false
    let own (fr : Frame) : Frame := { fr with ownersel := 1, pz := false }
    let r := ((t.onFrame 0 4 own).onFrame 0 5 own).onSlice 0 (fun S => { S with nb := { S.nb with queue := [c] } })
    (moves (lanes .cpyIn) 0x20 = true ∧ moves (lanes .cpyOut) 0x20 = true ∧ moves (tensor .tcpyIn) 0 = true ∧ moves (tensor .tcpyOut) 0 = true) ∧
    (done (lanes .cpyIn) = true ∧ done { tensor .tcpyOut with cword := some (255, 1) } = true) ∧
    (ready { Op0 with kind := .mloop, args := [0, 1024, 0, 1, 0] } = true ∧ ready { Op0 with kind := .mcvt, args := [0, 32, 0, 0] } = true) ∧
    (((u.slice 0).unit 5).queue.length = 1 ∧ u.nbFaults 1 (laneGranules [(0, 0x2000)]) = []) ∧
    ((x true 0x2000).failing (s.readFault 1) = none ∧ s.anyUnverified 1 [0x40] = false ∧ (x true 0x2000).op.kind ≠ .cpyIn ∧
      (x true 0xC000000005000).far = true ∧ s.mayRead 1 0xC000000005000 = true ∧ s.portOf 0xC000000005000 < 2 ∧ s.contained 1 0x2000 = false ∧
      ((operating (x false 0x2000).op s).writeLine 1 ((operating (x false 0x2000).op s).xferBytes (x false 0x2000)) (x false 0x2000).pol).map (·.2) = some [] ∧
      ({ s with drains := [{ (default : Drain) with world := 1, homes := [0], lines := [0xC000000005000 / 128] }] } : State).lineBusy 1 (0xC000000005000 / 128) = true ∧
      s.lineBusy 1 (0xC000000005000 / 128) = false) ∧
    ((r.slice 0).nb.queue = c :: [] ∧ r.lineBusy 1 (r.dpaOf (r.launchOf (r.troupes.getD 1 default)) 0x40 / 128) = false ∧
      (let p := r.redRun 0 1 (r.windows (r.launchOf (r.troupes.getD 1 default)) 0) c
       p.2 = [] ∧ (p.1.homeWrite 1 (runTab 0x2040 (leBytes 4 c.cval.toNat))).2 = [])) := by
  decide +kernel

/-- TrapsAreTaken: a handler's trap, one that is logged, one that ends its launch, in a set and in a cue stream; a late trap. -/
theorem witness_trap_actions :
    let handled (s : State) : State := s.onLaunch 1 (fun L => { L with handler := some L.desc })
    let act (n : Nat) (s : State) : State := s.onWorld 1 (fun W => { W with trust := { W.trust with act := n * (2 ^ 3 + 2 ^ 0) * 1 } })
    let ready (cause : Nat) (s : State) : State := s.onSet 1 0 (fun S => { S with trapReady := some { cause := cause } })
    let late (s : State) : State := s.onSet 1 0 (fun S => { S with traps := [{ cause := 0x50, flags := 1 }] })
    let cue (cause : Nat) (s : State) : State := s.onCue 1 (fun C => { C with traps := [{ cause := cause }] })
    let T (s : State) := s.troupes.getD 1 default
    let S (s : State) := (s.setAt? 1 0).getD default
    (handled onCore).action 1 { cause := 8 } true false false = 0 ∧ onCore.action 1 { cause := 0x70 } true false false = 1 ∧
    onCore.action 1 { cause := 8 } false false false = 2 ∧ (onCore.launchOf (T onCore)).ending = false ∧ (T onCore).halted = false ∧
    (S (ready 8 (handled onCore))).trapReady = some { cause := 8 } ∧ (S (ready 8 onCore)).chunks = [] ∧
    (T (cue 8 onCore)).cue.traps = [{ cause := 8 }] ∧ (T onCore).cue.handler = none ∧
    ((S (late onCore)).traps.find? (S (late onCore)).due).isSome = true ∧ (S (late onCore)).trapReady = none ∧ (S (late onCore)).handler = none ∧
    (S (late onCore)).waiting = none ∧ (S (late onCore)).inTx = false ∧ (S (late onCore)).live ≠ 0 ∧
    (S (late (closing .closed))).chunks ≠ [] ∧ (act 0 onCore).lockedDown = false ∧ ({ cause := 8 } : Trap).late = false ∧
    onCore.cueAsked 1 = false ∧ (T onCore).cue.answers.get? 0 = none := by
  decide +kernel

/-- A state of the world's interface. -/
def trusted (f : Trust → Trust) (s : State) : State := s.onWorld 1 (fun W => { W with trust := f W.trust })

/-- A request to host memory through port 0. -/
def asking (k : ReqKind) (o : ReqOwner) : State :=
  { leased onCore with requests := [(7, { kind := k, owner := o, world := 1, port := 0, dpa := 0xC000000005000, launch := 1 })] }

/-- LinkCompletions and LinksAndIntegrity: requests of each kind, ports up and down, lines of the companion processor. -/
theorem witness_links :
    let s := asking (.read 4) (.set 1 0 3 0x100)
    let down : State := { s with ports := [] }
    let one (p : Nat) : State := { s with ports := List.replicate 6 { Port0 with up := true }, requests := s.requests.map (fun e => (e.1, { e.2 with port := p })) }
    let held (b : Bool) : State := { onCore with hostHeld := [(0x40, b)] }
    let plain : State := (mapped 0 (leased onCore)).onSlice 0 (fun S => { S with frames := [(0, { Frame0 with ownersel := 2, pz := false }), (1, { Frame0 with ownersel := 2, pz := false })] })
    (s.requests.get? 7 = some { kind := .read 4, owner := .set 1 0 3 0x100, world := 1, port := 0, dpa := 0xC000000005000, launch := 1 } ∧
      (s.port 0).up = true ∧ s.linkDown 1 0xC000000005000 = false ∧ isHost 0xC000000005000 = true ∧
      s.sentBefore 7 (s.requests.getD 7 default) = false ∧ s.lineWaits (s.requests.getD 7 default) = false ∧ s.inRun 1 = true ∧
      (trusted (fun t => { t with tstate := 1 }) s).inRun 1 = false ∧ s.sealFor (s.requests.getD 7 default) = 0) ∧
    (let s : State := { s with requests := [(6, { kind := .write [1], owner := .cue 1, world := 1, port := 0, dpa := 0xC000000005000, launch := 1 }),
        (7, { kind := .write [2], owner := .cue 1, world := 1, port := 0, dpa := 0xC000000005000, launch := 1 })] }
     s.sentBefore 7 (s.requests.getD 7 default) = true) ∧
    ((asking (.write [1]) (.set 1 0 3 0x100)).requests.get? 7).isSome = true ∧ ((asking (.atomic 8 4 0 1) (.cue 1)).requests.get? 7).isSome = true ∧
    (let a := asking (.atomic 8 4 0 1) (.set 1 0 3 0x100)
     (a.requests.getD 7 default).answered = none ∧ (a.farAtomics 1 0).length = 1 ∧ a.amoReady 1 0 = false ∧
      ({ a with requests := a.requests.map (fun e => (e.1, { e.2 with answered := some 0 })) } : State).amoReady 1 0 = true) ∧
    ((down.port 0).up = false) ∧ ((one 2).port 2).up = true ∧ (one 2).requests.length = 1 ∧ (one 2).groups = [] ∧
    ((leased onCore).port 0).up = true ∧ (leased onCore).requests = [] ∧ (leased onCore).hostHeld = [] ∧
    ((onCore.onPort 1 (fun P => { P with ide := 2 })).port 1).ide = 2 ∧ (onCore.port 1).ide ≠ 2 ∧ (held false).hostHeld = [(0x40, false)] ∧
    (held true).frameWorld (0x40 * 128) = some 1 ∧ plain.hostMay 0x200000 = true ∧ onCore.hostMay 0x2000 = false ∧ plain.lineBusy 0 (0x200000 / 128) = false ∧
    (onCore.world 1).wins[3]? = some 256 ∧ onCore.unverified = [] ∧ (∀ e ∈ onCore.cores, e.2.ops = []) := by
  decide +kernel

/-- RowsAndGranules: a clean granule, a poisoned one, one of another version, one of a frame that is pending zero; rows and sets. -/
theorem witness_rows :
    let g (x : Gran) : State := { onCore with gran := [(0x80, x)] }
    let pz := onCore.onFrame 0 0 (fun fr => { fr with pz := true })
    let scrub (f : Scrub → Scrub) : State := onCore.onScrub 0 f
    let a := 0x2000
    isDram a = true ∧ (onCore.slice 0).state ≠ 3 ∧ onCore.frameWorld a ≠ none ∧ onCore.pendingZero a = false ∧ pz.pendingZero a = true ∧
    (let row := onCore.readRow (sliceAt a) (rowAt ((onCore.slice (sliceAt a)).frame (frameAt a)).striped a) 0
     row.pendingZero a = false ∧ (row.gran.getD (a / 64) Gran0).bad = false ∧ (row.gran.getD (a / 64) Gran0).poison = false ∧
       (row.gran.getD (a / 64) Gran0).ver = row.version a) ∧
    (let row := (g { Gran0 with ver := 3 }).readRow (sliceAt a) (rowAt ((onCore.slice (sliceAt a)).frame (frameAt a)).striped a) 0
     row.pendingZero a = false ∧ (row.gran.getD (a / 64) Gran0).poison = false ∧ (row.gran.getD (a / 64) Gran0).ver ≠ row.version a) ∧
    onCore.frameWorld a = some 1 ∧ ((g { Gran0 with poison := true }).gran.getD (a / 64) Gran0).poison = true ∧
    (g { Gran0 with poison := true }).pendingZero a = false ∧ ((g { Gran0 with syms := 2 }).gran.getD (a / 64) Gran0).syms = 2 ∧
    ((g { Gran0 with syms := 3 }).gran.getD (a / 64) Gran0).syms = 3 ∧ (127 < 128 ∧ 128 ≤ 128 ∧ 68 ≤ 68 ∧ 68 < 69) ∧
    isDram (2 ^ 33 * 64) = false ∧ onCore.frameWorld (2 ^ 33) = none ∧ (onCore.slice 0).scrub.copying ≠ some 5 ∧
    ((scrub (fun x => { x with copying := some 5 })).slice 0).scrub.copying = some 5 ∧
    ((onCore.slice 0).frame (5 / 128 / 16)).ownersel ≠ 0 ∧ (onCore.slice 0).scrub.inSet 0 = false ∧ (onCore.slice 0).scrub.due.contains 5 = false ∧
    ((scrub (fun x => { x with active := [(0, (0, 1))] })).slice 0).scrub.inSet 0 = true ∧
    ((scrub (fun x => { x with hoten := false })).slice 0).scrub.hoten = false ∧
    (let y := ((scrub (fun x => { x with reten := false, hot := [(0, [{ row := 5, score := 0, clean := 63 }])] })).slice 0).scrub
     y.hoten = true ∧ (y.hot.getD ((5 / 16) % 8) []).any (fun h => h.row == 5) = true) ∧
    (onCore.slice 0).scrub.active = [] ∧ (onCore.slice (sliceAt a)).state = 1 ∧
    (let freed := pz.onSlice 0 (fun S => { S with state := 2, owner := 0 })
     freed.pendingZero a = true ∧ (freed.slice 0).state = 2) := by
  decide +kernel

/-- World 1 owns slice 0, is in RUN and runs nothing. -/
def idle : State := { onCore with troupes := [], launches := [], cur := none }

/-- LeasesGrantAndRelease: entries in each state, a walk that ends and one that faults, commands and answers. -/
theorem witness_lease_steps :
    let asked : Lease := { Lease0 with state := 1, len := 2, base := 5, waiter := some 1 }
    let own (l : Lease) (s : State) : State := s.onWorld 1 (fun W => { W with leases := [(0, l)] })
    let lreq (len : Nat) : State := onCore.onWorld 1 (fun W => { W with lreq := { W.lreq with busy := true, len := len, base := 2 ^ 36 - len } })
    let flt (w : Nat) : State := (own asked onCore).onWorld 1 (fun W => { W with flt := { Flt0 with pend := true, waiter := w } })
    (Lease0.state ≠ 1 ∧ asked.state = 1 ∧ asked.drv = false ∧ (own asked onCore).faultStands 1 1 0 0 = false) ∧
    (State.walkPages 1 ((List.range asked.len).drop asked.walked) (mapped 1 (own asked onCore)) asked).2.2.isNone = true ∧
    (match (State.walkPages 1 ((List.range asked.len).drop asked.walked) (own asked onCore) asked).2.2 with | some (va, .one) => va == 5 * 4096 | _ => false) = true ∧
    ({ asked with rel := true, state := 2 }.rel = true ∧ { asked with rel := true, state := 2 }.users = 0 ∧ asked.rel = false ∧
      { asked with drv := true }.drv = true) ∧
    ((onCore.world 1).lreq.busy = false) ∧
    (((lreq 0).world 1).lreq.busy = true ∧ ((lreq 0).world 1).lreq.len = 0 ∧
      (((lreq 0).world 1).leases.getD ((lreq 0).world 1).lreq.index Lease0).drv = false) ∧
    (((lreq 4).world 1).lreq.base + ((lreq 4).world 1).lreq.len = 2 ^ 36 ∧ ((lreq 4).world 1).freeEntry = some 0) ∧
    (((lreq 4).onWorld 1 (fun W => { W with leases := (List.range 256).map (fun i => (i, asked)) })).world 1).freeEntry = none ∧
    (((flt 1).world 1).flt.pend = true ∧ ((flt 1).world 1).flt.waiter = 1 ∧ (((flt 1).world 1).leases.getD 0 Lease0).waiter = some 1) ∧
    ((flt 2).world 1).flt.waiter = 2 ∧ (onCore.world 1).flt.pend = false ∧
    (let late : State := { own { Lease0 with state := 2, len := 1, last := 5 } onCore with cycle := 2 ^ 40 }
     10 ^ 8 ≤ late.now - ((late.world 1).leases.getD 0 Lease0).last ∧ idle.now - 0 < 10 ^ 8) ∧
    ((flt 1).world 1).fltNext = [] ∧ (((flt 1).onWorld 1 (fun W => { W with fltNext := [Flt0] })).world 1).fltNext = Flt0 :: [] ∧
    onCore.s2fNext = [] ∧ onCore.s2Busy = false ∧
    ({ onCore with s2f := { Flt0 with pend := true, waiter := 4 } } : State).s2f.waiter = 4 ∧
    ({ onCore with s2f := { Flt0 with pend := true, waiter := 3 } } : State).s2f.pend = true ∧ onCore.s2f.pend = false ∧
    ((trusted (fun t => { t with s2inv := true }) onCore).world 1).trust.s2inv = true := by
  decide +kernel

/-- InterfacesOfWorlds: each TSTATE, with the slices that a lock asks for, and a device in lock-down. -/
theorem witness_interfaces :
    let at' (n : Nat) : State := trusted (fun t => { t with tstate := n, minsl := 1, maxsl := 1, s2valid := true, session := true }) idle
    (at' 1).mayLock 1 = true ∧ (at' 2).mayLock 1 = false ∧ (at' 2).tstate 1 = 2 ∧ ((at' 2).world 1).trust.stopping = false ∧
    (at' 1).tstate 1 ≠ 2 ∧ 2 ≤ (at' 4).tstate 1 ∧ (at' 1).tstate 1 < 2 ∧ (at' 1).tstate 1 ≠ 0 ∧ (at' 3).tstate 1 = 3 ∧
    (at' 3).lockedDown = false ∧ ({ idle with lockedDown := true } : State).lockedDown = true ∧
    ((at' 2).beginStop 1 |>.world 1).trust.stopping = true ∧ Refused.busy.code = some 3 ∧
    (at' 3).activation = none ∧ ((at' 3).world 1).trust.session = true ∧ ({ at' 3 with activation := some 2 } : State).activation = some 2 := by
  decide +kernel

/-- ResetsAndGroups and PowerAndBasicControls: groups that form, members that are away, slices with work and without, temperatures and
numbers at their limits. -/
theorem witness_groups :
    let G (st : Nat) (away : List Nat) : State :=
      { idle with ports := List.replicate 6 { Port0 with up := true }, groups := [(0, { Group0 with members := 3, state := st, digests := [(1, 9)], absent := away })] }
    ((G 1 []).group 0).state = 1 ∧ (∀ p < 6, ((G 1 []).port p).up = true) ∧ ((G 0 []).group 0).state ≠ 1 ∧
    (((G 2 [1]).group 0).state = 2 ∧ ((G 2 [1]).group 0).absent.contains 1 = true ∧
      ((G 2 [1]).group 0).digests.get? 1 = some 9 ∧ ((G 2 [1]).group 0).digests.get? 1 ≠ some 8) ∧
    (((G 3 [1]).group 0).state = 3 ∧ ((G 3 [1]).group 0).absent.contains 1 = true) ∧
    ({ idle with ctl := { idle.ctl with ready := true } } : State).takesWrite 0 = true ∧ idle.takesWrite 0 = false ∧
    ((G 2 []).group 0).absent.contains 1 = false ∧ ((idle.port 0).up = false) ∧
    idle.activation = none ∧ ({ idle with activation := some 3 } : State).activation = some 3 ∧ 63 < 64 ∧ 7 < 8 := by
  decide +kernel

theorem witness_power :
    let want (n c : Nat) : State := idle.onSlice 0 (fun S => { S with idle := n, cur := c })
    let line (k : Nat) : Tab HomeLine := [(lineKey 1 k, { clusters := [], slices := [], retained := false, dirty := true, prot := false, way := 0, used := 1 })]
    let homed : State := { want 2 0 with lines := line 0x40 }
    onCore.sliceIdle 0 = false ∧ (want 1 0).sliceIdle 0 = true ∧ ((want 1 0).slice 0).idle = 1 ∧ ((want 1 0).slice 0).cur ≠ 1 ∧
    ((want 2 0).slice 0).idle = 2 ∧ (want 2 0).sliceIdle 0 = true ∧ ((want 2 0).slice 0).cur ≠ 2 ∧ (want 2 0).homedAt 0 = [] ∧
    (homed.sliceIdle 0 = true ∧ homed.homedAt 0 = [(1, 0x40)] ∧ homed.lineBusy 1 0x40 = false ∧ isOutside (0x40 * 128) = false) ∧
    ({ homed with drains := [{ (default : Drain) with world := 1, homes := [0], lines := [0x40] }] } : State).lineBusy 1 0x40 = true ∧
    ({ idle with ctl := { idle.ctl with ready := true } } : State).takesWrite 0 = true ∧ idle.takesWrite 0 = false ∧ idle.lockedDown = false ∧
    ((want 0 2).slice 0).idle = 0 ∧ ((want 0 2).slice 0).cur ≠ 0 ∧ ((want 1 0).slice 0).idle ≠ 0 ∧
    105 < 106 ∧ 99 < 100 ∧ 115 < 116 ∧ 105 ≤ 105 ∧ 115 ≤ 115 ∧ 2 < 3 := by
  decide +kernel

/-- Nothing of a world waits for its quiesce point but its commands. -/
def still (s : State) (v : Nat) : Bool :=
  s.launches.all (fun e => decide (e.2.world = v → e.2.ending = false → e.2.stage = .placing → e.2.next ≠ 0)) &&
    decide ((s.world v).outside = s.owned v) && (s.owned v).all (fun k => decide ((s.slice k).req = (s.slice k).steps))

/-- World 1 is quiet, with its outside lines at home in slice 0. -/
def atRest : State := idle.onWorld 1 (fun W => { W with outside := [0] })

/-- QuiescedCommands: a world that runs and one that is quiet; a carve; forms and versioned buffers in each of their cases. -/
theorem witness_quiesced :
    let form (f : Bool) (pins : Nat) (owner : Nat) : State := (atRest.onFrame 0 0 (fun fr => { fr with pinned := pins, ownersel := owner })).onSlice 0
      (fun S => { S with form := { frame := 0, form := f, busy := true, result := 1, world := 1 } })
    let vc (op len : Nat) (b : Vbuf) (s : State) : State := s.onWorld 1 (fun W => { W with vcmd := { W.vcmd with op := op, len := len, busy := true }, vbufs := [(0, b)] })
    let live : Vbuf := { Vbuf0 with valid := true, len := 1, ver := 2 ^ 32 - 2 }
    let q (s : State) : Bool := s.worldQuiet 1 && still s 1
    onCore.worldQuiet 1 = false ∧ q atRest = true ∧ (atRest.slices.all (fun e => !e.2.form.busy)) = true ∧ (atRest.world 1).vcmd.busy = false ∧
    atRest.commandWorld ≠ some 1 ∧ (atRest.world 1).trust.stopping = false ∧ atRest.launches = [] ∧ atRest.owned 1 = [0] ∧
    ((trusted (fun t => { t with stopping := true }) atRest).world 1).trust.stopping = true ∧
    (let s := atRest.onSlice 0 (fun S => { S with req := 2 })
     let s1 := s.carveTo 0 2
     s.worldQuiet 1 = true ∧ (s.world 1).outside = s.owned 1 ∧ (s.slice 0).req ≠ (s.slice 0).steps ∧ (∀ e ∈ s1.slices, e.2.form.busy = false) ∧
      (s1.world 1).vcmd.busy = false ∧ s1.commandWorld ≠ some 1 ∧ (s1.world 1).trust.stopping = false) ∧
    (q (form false 0 1) = true ∧ ((form false 0 1).slice 0).form.busy = true ∧ (((form false 0 1).slice 0).frame 0).striped = false) ∧
    (((form true 1 1).slice 0).frame 0).pinned = 1 ∧ (((form true 0 0).slice 0).frame 0).ownersel = 0 ∧ ((form true 0 1).slice 0).owner = 1 ∧
    (q (vc 0 1 Vbuf0 atRest) = true ∧ ((vc 0 1 Vbuf0 atRest).world 1).vcmd.busy = true ∧ (State.vbufPages 1 0 0 1 (vc 0 1 Vbuf0 atRest)).2 = none) ∧
    (let s := vc 0 1 Vbuf0 (mapped 1 atRest)
     let full := s.onSlice 0 (fun S => { S with vwin := (List.range 256).map (fun i => (i, { base := 5 + i, len := 1, ver := 1, world := 1, buf := 9 })) })
     let s0 := (State.vbufPages 1 0 0 1 s).1
     q s = true ∧ (State.vbufPages 1 0 0 1 s).2 = some [0] ∧ s0.runClash (pageRuns [0]) = false ∧ (s0.slice 0).vwin = [] ∧ (s.slice 0).vwin = [] ∧ (s.slice 1).vwin = [] ∧
      (full.writeWindows 1 0 (pageRuns [0])).isNone = true) ∧
    (((vc 1 0 live atRest).world 1).vbufs.getD 0 Vbuf0).valid = true ∧ live.ver ≠ 2 ^ 32 - 1 ∧ q (vc 1 0 live atRest) = true ∧
    q (vc 2 0 live atRest) = true := by
  decide +kernel

/-- SliceCommands: each operation in each of its cases. -/
theorem witness_slice_commands :
    let cmd (op world slice dest : Nat) : State := { ((atRest.onSlice 1 (fun S => { S with owner := 1, state := 1 })).onWorld 1
        (fun W => { W with outside := [0, 1] })) with
      sliceCmd := { op := op, slice := slice, dest := dest, world := world, minsl := 1, maxsl := 64, busy := true, result := 1 } }
    let due (s : State) (w : Nat) : Bool := s.sliceDue s.sliceCmd.op == some w && s.sliceCmd.busy && s.worldQuiet w && still s w &&
      w == (if s.sliceCmd.op = 5 then (s.slice s.sliceCmd.slice).owner else s.sliceCmd.world)
    idle.sliceDue 0 = none ∧ (due (cmd 0 2 0 0) 2 = true ∧ (cmd 0 2 0 0).tstate 2 = 0) ∧ (due (cmd 0 0 0 0) 0 = true ∧ (cmd 0 0 0 0).tstate 0 = 3 ∧ due (cmd 1 0 0 0) 0 = true) ∧ (cmd 0 2 0 0).lockedDown = false ∧
    (due (cmd 0 65 0 0) 65 = true ∧ due (cmd 2 65 0 0) 65 = true ∧ due (cmd 3 65 0 0) 65 = true ∧ due (cmd 4 65 0 0) 65 = true) ∧
    (due (cmd 0 1 0 0) 1 = true ∧ (cmd 0 1 0 0).tstate 1 ≠ 0) ∧
    (let s := { (trusted (fun t => { t with tstate := 1 }) (cmd 1 1 0 0)).onWorld 1 (fun W => { W with outside := [] }) with slices := [] }
     due s 1 = true ∧ s.tstate 1 = 1 ∧ s.ownedCount 1 = 0) ∧ (cmd 1 1 0 0).tstate 1 ≠ 1 ∧ (cmd 1 1 0 0).ownedCount 1 = 2 ∧
    (let s := trusted (fun t => { t with maxsl := 3 }) (cmd 2 1 5 0)
     due s 1 = true ∧ 0 < s.tstate 1 ∧ s.tstate 1 ≤ 3 ∧ s.ownedCount 1 < (s.world 1).trust.maxsl ∧ (s.slice 5).state = 0) ∧
    (due (cmd 2 0 5 0) 0 = true ∧ ((cmd 2 0 5 0).slice 5).state ≠ 1 ∧ ((cmd 2 0 0 0).slice 0).state = 1) ∧
    (due (cmd 3 1 0 0) 1 = true ∧ ((cmd 3 1 0 0).slice 0).state = 1 ∧ ((cmd 3 1 0 0).slice 0).owner = 1 ∧ (cmd 3 1 0 0).lockedWorld 1 = false ∧
      ((cmd 3 1 0 0).slice 0).anyPinned = false) ∧
    (let s := trusted (fun t => { t with locked := true, minsl := 2 }) (cmd 3 1 0 0)
     s.lockedWorld 1 = true ∧ s.ownedCount 1 ≤ (s.world 1).trust.minsl) ∧
    (due (cmd 4 1 0 1) 1 = true ∧ ((cmd 4 1 0 1).slice 1).state = 1 ∧ ((cmd 4 1 0 1).slice 1).owner = 1 ∧ ((cmd 4 1 0 1).slice 1).frames = [] ∧
      ((cmd 4 1 0 1).slice 0).anyPinned = false) ∧
    ((cmd 4 1 1 0).slice 0).frames.any (fun e => !e.2.pz) = true ∧
    (let s := ((cmd 5 1 1 0).onSlice 1 (fun S => { S with state := 3 })).onWorld 1 (fun W => { W with outside := [0] })
     due s 1 = true ∧ (s.slice 1).state = 3) ∧ ((cmd 5 1 1 0).slice 1).state ≠ 3 := by
  decide +kernel

/-- Slot 0 holds a queue of world 1 whose ring of two records lies at VA 0x1000, with one record pending. -/
def ringed : State :=
  { (leased idle).onSlot 0 (fun q => { q with state := 1, world := 1, gang := 4, ring := 0x1000, log2sz := 1, wptr := 1, record := 0x80 }) with
    worlds := ((leased idle).onWorld 1 (fun W => { W with
      ctx := [(0, 1)]
      leases := W.leases.map (fun e => (e.1, { e.2 with drv := true })) })).worlds
    mem := ((leased idle).mem.writeBytes 0x4000 (leBytes 8 0x80)).writeBytes 0x2080 (leBytes 8 0x1000 ++ [1, 0, 0, 0]) }

/-- The same with a record that cannot be read. -/
def badRing : State := { ringed with gran := [(0x3000 / 64, { Gran0 with poison := true })] }

/-- QueuesAndDequeue: doorbells in and beyond the ring, gangs, an empty ring and a pending record, dependencies met and not. -/
theorem witness_queues :
    let gang (op : Bool) (n list : Nat) (s : State) : State := s.onWorld 1 (fun W => { W with gang := { list := list, count := n, gang := 4, op := op, busy := true, result := 1 } })
    let q := ringed.slot 0
    let dep (w : DWord) (s : State) : State := { s with launches := [(1, { Launch0 with world := 1, words := List.replicate 12 0 ++ [w] })] }
    (ringed.accepts 1 = true ∧ q.state = 1 ∧ q.world = 1 ∧ (2 + 2 ^ 32 - q.rptr) % 2 ^ 32 = 2 ^ q.log2sz ∧ 2 ^ q.log2sz < (3 + 2 ^ 32 - q.rptr) % 2 ^ 32) ∧
    (trusted (fun t => { t with tstate := 1 }) ringed).accepts 1 = false ∧ (ringed.slot 1).state = 0 ∧
    (((gang false 0 0 ringed).world 1).gang.busy = true ∧ (gang false 65 0 ringed).accepts 1 = true ∧ (gang false 1 0 ringed).freeSlots.length = 2047 ∧
      ((gang false 1 3 ringed).gangQueues 1 ((gang false 1 3 ringed).world 1).gang).2 = none) ∧
    (let s := gang false 1 0x40 { ringed with slots := [] }
     match s.gangQueues 1 (s.world 1).gang with
     | (s1, some [q]) => !s1.duplicateQid 1 [q] && !q.overrun && s.freeSlots.head? == some 0
     | _ => false) = true ∧
    (let mem := (ringed.mem.writeBytes 0x4008 (leBytes 8 0xC0)).writeBytes 0x20C0 (leBytes 8 0x1000 ++ [1, 0, 0, 0, 7])
     let two : State := { ringed with slots := [], mem := mem }
     let s := gang false 2 0x40 two
     match s.gangQueues 1 (s.world 1).gang with
     | (s1, some [p, q]) => !s1.duplicateQid 1 [p, q] && p.qid == 0 && q.qid == 7
     | _ => false) = true ∧
    (let s := gang false 1 0x40 ringed
     match s.gangQueues 1 (s.world 1).gang with | (s1, some [q]) => s1.duplicateQid 1 [q] | _ => false) = true ∧
    (let s := gang true 0 0 ringed
     let busy : State := { s with launches := [(1, { Launch0 with world := 1, stage := .reading })] }
     s.gangSlots 1 4 = [0] ∧ q.gang = (s.world 1).gang.gang ∧ (s.onSlot 0 (fun q => { q with state := 3 })).atBoundary 0 = true ∧
      (busy.onSlot 0 (fun q => { q with state := 3 })).atBoundary 0 = false ∧ (s.unmapQueue 0).gangSlots 1 4 = []) ∧
    ((idle.world 1).gang.busy = false) ∧ (q.wptr ≠ q.rptr ∧ ringed.activation = none ∧ ringed.mayFollow q false = true) ∧
    (match ringed.choreoRead (.driver false) 1 0x1000 128 with
      | (_, .ok b) => b.length == 128 && ringed.mayFollow q (bitAt (fieldAt b 80 2) 4)
      | _ => false) = true ∧
    (match idle.choreoRead (.driver false) 1 0x1000 128 with | (_, .error (.bad e)) => e == 0x20 | _ => false) = true ∧
    (match badRing.choreoRead (.driver false) 1 0x1000 128 with | (_, .error (.bad e)) => e == 0x50 | _ => false) = true ∧
    (let s := dep 0x1000 ringed
     match s.usable 1 0 0x1000, s.choreoDpa 1 0 0x1000 with
     | .dpa a, .dpa _ => (match (s.lookReads (.context 0) 1 0x1000).depWord 1 a with
       | (s1, .ok x) => decide (sextNat 64 x ≤ 0) && fine (s1.bind (s.launches.getD 1 default)).2
       | _ => false)
     | _, _ => false) = true ∧
    ((dep 0 ringed).launches.getD 1 default).boundFields = [] ∧ fine ((dep 0 ringed).bind ((dep 0 ringed).launches.getD 1 default)).2 = true ∧
    ringed.faultStands 1 5 1 0 = false ∧
    (let s := { dep 0x1000 ringed with mem := ringed.mem.writeBytes 0x3000 [1] }
     match s.usable 1 0 0x1000, s.choreoDpa 1 0 0x1000 with
     | .dpa a, .dpa _ => (match (s.lookReads (.context 0) 1 0x1000).depWord 1 a with | (_, .ok x) => decide (0 < sextNat 64 x) | _ => false)
     | _, _ => false) = true := by
  decide +kernel

/-- LaunchesRun: launches in each stage, troupes that are staged and not, runs that end, a head that has waited. -/
theorem witness_launches :
    let l (f : Launch → Launch) : State := onCore.onLaunch 1 f
    let L (s : State) : Launch := s.launches.getD 1 default
    let ended (again : Bool) : State := { onCore with troupes := [], cur := none, launches := [(1, { L onCore with ended := 1, again := again })] }
    let use : Nat × Nat × Nat × Nat := (0, 0, 0, 0)
    (L (l (fun L => { L with stage := .admission }))).stage = .admission ∧ (L onCore).desc.bad = none ∧ (L onCore).desc.layouts = [] ∧
    (L onCore).stageBad = none ∧ (L onCore).leaseBad = none ∧ onCore.rangeBad 1 (L onCore) = none ∧ onCore.owned 1 ≠ [] ∧
    recordBad (L onCore).words = false ∧ recordBad (setAt (L onCore).words 8 0xFFFF000000000000) = true ∧
    onCore.neverFits (L onCore) = none ∧ (onCore.neverFits { L onCore with desc := { (L onCore).desc with spad := 2 ^ 30 } }).isSome = true ∧
    (L onCore).desc.leases[0]? = none ∧ ([use])[0]? = some use ∧
    ((∀ e ∈ idle.launches, e.2.world ≠ 1) ∧ idle.quiescing 1 = false ∧ idle.accepts 1 = true ∧
      (trusted (fun t => { t with stopping := true }) idle).quiescing 1 = true) ∧
    (ended false).launches.length = 1 ∧ (ended false).troupes = [] ∧ (L (ended false)).ending = false ∧
    (onCore.troupes.getD 1 default).staged = true ∧ ((onUnit.onTroupe 1 (fun T => { T with staged := false })).troupes.getD 1 default).place.isUnit = true ∧
    (let s := onCore.onTroupe 1 (fun T => { T with staged := false })
     (State.stageAll (L s) ((L s).stagePieces.drop (s.troupes.getD 1 default).stagedTo) s (s.troupes.getD 1 default)).2.2.isNone) = true ∧
    (let s := onCore.onTroupe 1 (fun T => { T with started := false })
     (s.troupes.getD 1 default).started = false ∧ ∀ e ∈ s.troupes, e.2.staged = true) ∧
    (let s := (ended false).onLaunch 1 (fun L => { L with ending := true })
     s.runQuiet 1 = true ∧ s.troupesOf 1 = [] ∧ (L s).ending = true) ∧
    ({ (ended false) with requests := (asking .fill (.launch 1)).requests } : State).runQuiet 1 = false ∧
    ((L (ended true)).stage = .running ∧ (L (ended true)).next = (L (ended true)).companies ∧ (L (ended true)).ended = (L (ended true)).companies ∧
      (L (ended true)).saved = [] ∧ (ended true).runQuiet 1 = true ∧ (L (ended true)).again = true) ∧
    (onCore.slot 0).waited = 0 ∧ (let s := { ringed.onSlot 0 (fun q => { q with waited := 1 }) with cycle := 2 ^ 30 }
      (s.slot 0).waited ≠ 0 ∧ (s.slot 0).waited - 1 + s.ctl.promo * 1000000 ≤ s.now) := by
  decide +kernel

/-- FiguresForm: a core with a ready set, one that waits; threads that have waited 512 cycles and less; a unit. -/
theorem witness_figures :
    let free : State := { onCore with cur := none }
    let cue : State := { onCue with cur := none }
    let S := (free.setAt? 1 0).getD default
    let unit : State := { onUnit with cur := none }
    free.coreTurn 0 = true ∧ ({ free.onCore 0 (fun C => { C with paced := true }) with cycle := 1 } : State).coreTurn 0 = false ∧ (free.ready 0).length = 1 ∧
    (cue.coreTurn 0 = true ∧ cue.troupes.length = 1 ∧ (cue.troupes.getD 1 default).place = .core 0 ∧ cueCan cue (cue.troupes.getD 1 default) = true) ∧
    (∀ e ∈ idle.troupes, e.2.place ≠ .core 0) ∧ free.setAt? 1 0 = some S ∧ (S.lane 31).live = true ∧ (S.lane 31).hold = .ready ∧
    (S.lane 31).since + 512 ≤ 512 ∧ ¬ (S.lane 31).since + 512 ≤ 511 ∧ 0 ≠ 255 ∧ unit.unitSets 0 1 = [] ∧
    unit.unitSets 0 0 = [(1, 0)] ∧ canIssue unit (unit.troupes.getD 1 default) ((unit.setAt? 1 0).getD default) = true ∧
    ((unit.setAt? 1 0).getD default).unitPc unit.cycle.toNat = some 0x100 ∧ (∃ th ∈ ((unit.setAt? 1 0).getD default).threads, th.ready = true) ∧
    (let old := free.onSet 1 0 (fun S => S.onLanes (maskBit 31) (fun _ th => { th with aged := true }))
     ((old.ready 0).filter (fun r => r.aged.isSome)).length = 1 ∧ (oldest (old.ready 0)).isSome = true ∧
      ∀ r ∈ old.ready 0, inMask r.fig.mask 31 = true ∧ (r.ages.get? 31).isSome = true) ∧
    (∀ th ∈ ((unit.setAt? 1 0).getD default).threads, ¬ (th.live = true ∧ th.hold = .yield)) := by
  decide +kernel

/-- Two companies of one launch on a core. -/
def twoOn : State :=
  let T := onCore.troupes.getD 1 default
  { onCore with troupes := [(1, T), (2, { T with company := 1 })], cur := none }

/-- ContextsMove: commands in each of their cases, a troupe that may be saved and one that may not, and a saved company. -/
theorem witness_contexts :
    let cmd (op slot len : Nat) (going : Bool) (s : State) : State := s.onWorld 1 (fun W => { W with
      preempt := { Preempt0 with op := op, slot := slot, busy := true, all := decide (slot = 0), going := going }, area := { W.area with len := len } })
    let c : SavedCompany := { company := 0, stamp := 0, troupes := [], ops := [], pages := 1, page := 0, held := true, places := [.core 0] }
    let kept : State := onCore.onLaunch 1 (fun L => { L with saved := [c] })
    (Preempt0.busy = false ∧ ((cmd 0 0 0 false onCore).preemptCmd 1).busy = true ∧ (cmd 0 7 0 false onCore).preemptSlotBad 1 = true ∧
      (cmd 0 0 0 false onCore).preemptSlotBad 1 = false ∧ (cmd 0 0 0 false idle).preemptTroupes 1 = [] ∧
      ((cmd 0 0 0 false onCore).preemptTroupes 1).length = 1) ∧
    (let s := cmd 1 0 0 false onCore
     (State.makeContexts 1 (companiesIn (s.preemptTroupes 1)) s).isNone = true) ∧
    (let s := cmd 1 0 (2 ^ 20) false onCore
     (State.makeContexts 1 (companiesIn (s.preemptTroupes 1)) s).isSome = true ∧ s.areaGap 1 3 = some 0) ∧
    (let s := cmd 1 0 (2 ^ 20) false twoOn
     (s.preemptTroupes 1).length = 2 ∧ (State.makeContexts 1 (companiesIn (s.preemptTroupes 1)) s).isSome = true ∧
      let h := twoOn.onTroupe 1 (fun T => { T with cmd := 2 })
      h.saveReady 1 (h.troupes.getD 1 default) = true ∧ (h.troupes.getD 2 default).cmd = 0) ∧
    ((onCore.onTroupe 1 (fun T => { T with cmd := 2 })).troupes.any (fun e => e.2.cmd == 2)) = true ∧ onCore.troupes.all (fun e => e.2.cmd != 2) = true ∧
    (let s := cmd 2 0 0 false kept
     s.launches.length = 1 ∧ s.preemptNames 1 (s.launches.getD 1 default) = true) ∧
    (let s := onCore.onTroupe 1 (fun T => { T with cmd := 2 })
     s.saveReady 1 (s.troupes.getD 1 default) = true ∧ (s.troupes.getD 1 default).place = .core 0 ∧
      { closing .closed with cur := none }.saveReady 1 ((closing .closed).troupes.getD 1 default) = false) ∧
    ((kept.launches.getD 1 default).saved.find? (fun c => c.company == 0 && !c.places.isEmpty) = some c ∧ kept.roomForOps c = true ∧
      kept.areaHeld (kept.contextCap 1 0 1) = false) ∧
    (let s : State := { ringed with launches := kept.launches }
     s.areaHeld (s.contextCap 1 0 1) = true) ∧ idle.launches.get? 1 = none ∧
    kept.carriesTags 1 (kept.launches.getD 1 default) c [] = false := by
  decide +kernel

/-- ContextsMove: bytes of a company that carry its tags. -/
theorem witness_contexts_tags (c : SavedCompany) :
    (onCore.launches.getD 1 default).desc.troupes = 1 ∧ onCore.carriesTags 1 (onCore.launches.getD 1 default) c
      (onCore.sectionsOf 1 (onCore.launches.getD 1 default) c 0) = true := by
  have h : (onCore.launches.getD 1 default).desc.troupes = 1 := by decide
  exact ⟨h, by simpa using carriesTags_self onCore 1 _ c [] h⟩

/-- RegisterWrites: functions that are served and not, commands that are busy and not, values at the ends of their ranges. -/
theorem witness_registers :
    let up : State := { idle with ctl := { idle.ctl with ready := true } }
    idle.servesWrites 1 0x108 = false ∧ up.servesWrites 1 0x108 = true ∧ 0x109 % 8 ≠ 0 ∧ 64 ≤ 64 ∧ up.lockedDown = false ∧ up.ctl.ready = true ∧
    up.tstate 1 ≠ 4 ∧ (up.world 1).gang.busy = false ∧ (up.preemptCmd 1).busy = false ∧ (up.world 1).lreq.busy = false ∧ 255 < 256 ∧
    up.sliceCmd.busy = false ∧ (trusted (fun t => { t with locked := true }) up).lockedWorld 1 = true ∧
    100 ≤ nfld 100 0 12 ∧ nfld 2960 0 12 ≤ 2960 ∧ nfld 99 0 12 < 100 ∧ 2960 < nfld 2961 0 12 := by
  decide +kernel

/-- Further cases of SealsAndCacheLines, ThreadControl, CueQueues, ContextsMove and RegisterWrites: dirty lines to send back, an exit with stores
out, a join of which some threads' time has passed, a qfill that has stalled, a command on a tag above 64, fields written while a command runs. -/
theorem witness_further_cases :
    let f := regs [(12, 0x3000)] far
    let dirty : State := { f with copies := [(lineKey 1 (0xC000000005000 / 128), { bytes := List.replicate 128 0, dirty := 1 })] }
    let stores := onUnit.onUnit 0 0 (fun U => { U with
      queue := [{ id := 9, troupe := 1, set := 0, pc := 0x100, kind := 1, mod := 4, dst := 8, lanes := [(0, 0x2000)], data := [] }] })
    let split := onCore.onSet 1 0 (fun S => { S.onLanes 1 (fun _ th => { th with pc := 0x104 }) with joined := 2 })
    let ended := onCue.onSet 1 0 (fun S => S.onLanes (BitVec.allOnes 32) (fun _ th => { th with live := false }))
    Met dirty (.cinv 12 0 0) (fun c => (∀ j ∈ dirty.doers c, dirty.linesBad (dirty.launchOf c.T) j (c.va j 12) 1 = none) ∧
      isSystem c.issue.hints = true ∧ dirty.namedLines (dirty.launchOf c.T) (dirty.doers c) (fun j => c.va j 12) 1 = [0xC000000005000 / 128] ∧
      isOutside 0xC000000005000 = true ∧ dirty.copyDirty 1 (0xC000000005000 / 128) = true ∧ dirty.drains = []) ∧
    Met stores (.exit 0) (fun c => c.act ≠ 0 ∧ stores.nbStores c.t c.k c.T = true) ∧
    Met split (.join 0) (fun c => c.T.place.isUnit = false ∧ c.act ≠ 0 ∧ (c.S.lane 0).live = true ∧ (c.S.lane 0).pc ≠ c.issue.group ∧
      maskOf (fun j => (c.lanes.filter (fun j => !inMask (BitVec.ofNat 32 c.S.joined) j)).contains j) ≠ c.mask) ∧
    CueMet (ended.onCue 1 (fun C => { C with answers := [(2, 1)] })) (fun T _ => (T.setTab.get? 0).map (·.alive) = some false ∧
      (T.cue.answers.get? 2).isSome = true) ∧
    (64 < ({ idle with mgmtPreempt := { Preempt0 with world := 66 } } : State).preemptWorld 65 ∧ idle.preemptWorld 1 ≤ 64) ∧
    (((idle.onWorld 1 (fun W => { W with lreq := { W.lreq with busy := true }, gang := { W.gang with busy := true } })).world 1).lreq.busy = true ∧
      ({ idle with sliceCmd := { SliceCmd0 with busy := true } } : State).sliceCmd.busy = true) :=
  ⟨met (by decide +kernel) (by decide +kernel), met (by decide +kernel) (by decide +kernel), met (by decide +kernel) (by decide +kernel),
    cue_met (cue_at (by decide +kernel)) (by decide +kernel), by decide +kernel⟩

/-- StepRunsDecoded: a word that decodes and one that does not, the steps of bring-up, and turns on the agenda. -/
theorem witness_steps :
    let u := onCore.cur.getD default
    onCore.pass.cur = some u ∧
    (match onCore.pass.codeOf u.agent with
      | some c => c.desc.inCode u.word && (onCore.pass.fetchBad c u.word).isNone &&
          (match decode (onCore.pass.decodeCtx u).profile (onCore.pass.codeWord c u.word) with
            | .ok i => i == .nop 0 && (contextFaults (onCore.pass.decodeCtx u) i).isEmpty
            | .error _ => false)
      | none => false) = true ∧
    (match (running 0).pass.codeOf u.agent with
      | some c => (match decode ((running 0).pass.decodeCtx u).profile ((running 0).pass.codeWord c u.word) with
            | .ok _ => false
            | .error r => r == 0 && (rowOf ((running 0).pass.decodeCtx u).profile ((running 0).pass.codeWord c u.word)).isNone)
      | none => false) = true ∧
    State.reset.pass.cur = none ∧ State.reset.pass.bringUp = 0 ∧ isTurn (.doorbell 1 0 0) = true := by
  decide +kernel

/-- DecodeEncode and StepKeepsForm: well-formed words of each map, and states whose memory has its form. -/
theorem witness_forms :
    (∀ p ∈ ([.core, .nearBank] : List Profile), profileFaults p (encode (.add 8 12 20 1 0)) = []) ∧
    (∀ p ∈ ([.cue, .prologue] : List Profile), profileFaults p (encode (.sadd 8 12 20)) = []) ∧ profileFaults .nearBank (encode (.nld 8 12 2 1 5)) = [] ∧
    Instr.wf (.add 8 12 20 1 0) = true ∧ Instr.wf (.sadd 8 12 20) = true ∧ Instr.side (.nld 8 12 2 1 5) = .step ∧
    onCore.mem.wf = true ∧ State.reset.mem.wf = true := by
  decide +kernel

/-- SpecialFunctionResults and TranscendentalRounding: values at the ends of their ranges, and spans whose ends round alike at the first
precision that is tried. -/
theorem witness_special :
    (0 < 1 ∧ 2 ^ 21 - 1 < 2 ^ 21 ∧ 2 ^ 24 - 1 < 2 ^ 24 ∧ (2 ^ 23 ≤ 2 ^ 23 ∧ 2 ^ 23 < 2 ^ 24) ∧ 255 < 256) ∧
    (let S := trigSpan true 3 1 80
     (80 : Nat) ∈ precisions ∧ fp32.near (.num false S.lo (-(S.p : Int))) = fp32.near (.num false S.hi (-(S.p : Int)))) ∧
    ((7 : Nat) < 2 ^ 3 ∧ 3 ≠ 2 ^ Nat.log2 3 ∧ Nat.log2 3 ≤ 3 * 80 ∧ 2 * 3 < 2 ^ 3 ∧ 32 * 2 ^ 160 ≤ 32 * 2 ^ 160) ∧
    (13 = 1 * 2 ^ 3 + 5 ∧ 5 < 2 ^ 3 ∧ Nat.log2 13 < 8 + 3 ∧ 3 ≤ Nat.log2 13 + 30) ∧
    (0 ≤ (Nat.log2 3 : Int) + (-1) ∧ (Nat.log2 3 : Int) + (-2) < 0 ∧ -13 ≤ (Nat.log2 1 : Int) + (-13) ∧ (Nat.log2 15 : Int) + 0 < 4) := by
  decide +kernel

/-- Launch 1 runs on a core; launch 2 of the same world has a company to place, and its queue a deficit. -/
def placing (deficit : Nat) : State :=
  let L := onCore.launches.getD 1 default
  { onCore.onSlot 0 (fun q => { q with state := 1, world := 1, deficit := deficit }) with
    cur := none, launches := [(1, { L with slot := 1, qid := 9 }), (2, { L with stage := .placing, next := 0, slot := 0 })] }

/-- LaunchesRun: a head placed beside a running launch, one without the deficit and one whose gate is closed; the core with the most free
sets; a staging copy that waits for a translation; windows that are too short and long enough. -/
theorem witness_placement :
    let s := placing 10
    let L := s.launches.getD 2 default
    let h : Head := { launch := 2, companies := [0], saved := false }
    let shut := s.onWorld 1 (fun W => { W with budget := { W.budget with inForce := { W.budget.inForce with core := 1 } } })
    let streamed := s.onWorld 1 (fun W => { W with leases := [(0, { Lease0 with state := 2, rw := true, users := 1, len := 4, streamed := true })] })
    let M := { L with uses := [{ entry := 0, rw := true }], desc := { L.desc with stages := [(0, 0, 0, 64)] } }
    (s.troupes.length = 1 ∧ s.headOf 1 2 = some h ∧ s.slotOf L = some 0 ∧ fine (s.gate 1 L h) = true ∧
      h.companies.length * L.desc.sets * L.desc.troupes ≤ (s.slot 0).deficit ∧ L.isMicro = false ∧
      ((placing 0).slot 0).deficit < h.companies.length * L.desc.sets * L.desc.troupes ∧ fine ((placing 0).gate 1 L h) = true ∧
      fine (shut.gate 1 L h) = false ∧ shut.headOf 1 2 = some h) ∧
    (s.quiescing 1 = false ∧ s.accepts 1 = true ∧ s.worldQuiet 1 = false ∧ s.endCompanies 1 = s) ∧
    ((s.planOf 1).core L.desc).isSome = true ∧ bestCore L.desc (((s.planOf 1).cores.head?.map (·.2)).getD []) = some 1 ∧
    (match (State.stageAll M M.stagePieces streamed (s.troupes.getD 1 default)).2.2 with | some (0, .translate ..) => true | _ => false) = true ∧
    streamed.faultStands 1 4 2 0 = false ∧
    (s.now < (s.world 1).budget.meter.since + 10000 ∧ (s.world 1).budget.meter.since + 10000 ≤ ({ s with cycle := 10500 } : State).now) := by
  decide +kernel

/-- May a set of a unit issue, or yield its turn? -/
def ableOf (s : State) (e : Nat × Nat) : Bool :=
  match s.troupes.get? e.1, s.setAt? e.1 e.2 with
  | some T, some S => canIssue s T S && S.threads.any (fun th => th.ready || (th.live && th.hold == .yield))
  | _, _ => false

/-- FiguresForm: cue streams that take their turn in order and round again; sets of a unit of which one has no live thread, one yields and
one is ready. -/
theorem witness_rounds :
    let T := onCue.troupes.getD 1 default
    let cues (last : Nat) : State := { onCue.onCore 0 (fun C => { C with cueTurn := last }) with troupes := [(1, T), (2, T)], cur := none }
    let S := (onUnit.setAt? 1 0).getD default
    let dead : SetState := S.onLanes (BitVec.allOnes 32) (fun _ th => { th with live := false })
    let yields : SetState := S.onLanes 1 (fun _ th => { th with hold := .yield })
    let unit (ss : Tab SetState) : State := { onUnit.onTroupe 1 (fun T => { T with sets := ss.length, setTab := ss }) with cur := none }
    let held (s : State) : State := (s.unitSets 0 0).foldl (fun s e => s.holdSet e) s
    let s1 := held (unit [(0, dead), (1, yields)])
    let s2 := held (unit [(0, dead), (1, S)])
    ((cues 0).coreTurn 0 = true ∧ cueCan (cues 0) T = true ∧ T.place = .core 0 ∧ (cues 0).troupes.get? 2 = some T ∧ T.order 1 = 1 ∧ T.order 2 = 2) ∧
    (((cues 0).coreAt 0).cueTurn < T.order 1 ∧ ((cues 1).coreAt 0).cueTurn < T.order 2 ∧ T.order 1 ≤ ((cues 1).coreAt 0).cueTurn ∧
      T.order 1 ≤ ((cues 2).coreAt 0).cueTurn ∧ T.order 2 ≤ ((cues 2).coreAt 0).cueTurn) ∧
    ((unit [(0, dead), (1, S)]).unitSets 0 0 = [(1, 0), (1, 1)] ∧ ableOf s1 (1, 0) = false ∧ ableOf s1 (1, 1) = true ∧ ableOf s2 (1, 1) = true ∧
      ((s1.slice 0).unit 0).turn = 0 ∧ ((s2.setAt? 1 1).bind (fun S => S.unitPc s2.cycle.toNat)) = some 0x100 ∧
      ((s1.setAt? 1 1).map (fun S => S.threads.any (fun th => th.live && th.hold == .yield))) = some true ∧
      ableOf (held (unit [(0, dead), (1, dead)])) (1, 1) = false) ∧
    (let paced : State := { cues 0 with cores := [(0, { (cues 0).coreAt 0 with paced := true })] }
     paced.troupeTurn 1 = true ∧ ({ paced with cycle := 1 } : State).troupeTurn 1 = false) := by
  decide +kernel

/-- MovesAndConversions, CueOperations: literals that are read, and one whose granule fails. -/
theorem witness_literals :
    let bad (s : State) : State := { s with gran := [(0x1100 / 64, { Gran0 with poison := true })] }
    let fails (s : State) : Option (Option Nat) := (s.cur.bind (fun u => s.codeOf u.agent)).map (fun c => s.fetchBad c 0x100)
    fails onCore = some none ∧ fails (bad onCore) = some (some 0x50) ∧ fails onCue = some none ∧ fails (bad onCue) = some (some 0x50) ∧
    ((onCore.cur.bind (fun u => onCore.codeOf u.agent)).map (fun c => c.desc.inObject 0x100 4)) = some true := by
  decide +kernel

/-- CueStoresAndAtomics: system-scope stores that commit at a home and past it, to a line that is held back, to a port that is down, and
one whose home fails. -/
theorem witness_system_stores :
    let f := hinted [(3, 4)] (leased onCue)
    let dpa := 0xC000000005000
    let past : State := { f with ctl := { f.ctl with poolc := false } }
    let busy : State := { f with drains := [{ (default : Drain) with world := 1, homes := [f.home 1 (dpa / 128)], lines := [dpa / 128] }] }
    let down : State := { f with ports := [] }
    let kept : State := { f with copies := [(lineKey 1 (dpa / 128), { bytes := List.replicate 128 0, dirty := 0 })] }
    let home (s : State) : Option (List (Nat × Nat)) := (s.writeLine 1 (runTab dpa (leBytes 8 0)) 0 none).map (·.2)
    CueMet f (fun T u => isSystem u.hints = true ∧ f.sealState 1 0 0x3000 = 0 ∧ fine (f.laneAddr (f.launchOf T) .store 0x3000 8) = true ∧
      f.lineBusy 1 (dpa / 128) = false ∧ f.linkDown 1 dpa = false ∧ f.ctl.poolc = true) ∧
    past.ctl.poolc = false ∧ past.lineBusy 1 (dpa / 128) = false ∧ busy.lineBusy 1 (dpa / 128) = true ∧ down.linkDown 1 dpa = true ∧
    home kept = some [] ∧ ((home (kept.onSlice 0 (fun S => { S with state := 3 }))).map (·.isEmpty)) = some false ∧ answerBad (badAnswer 0x27) = some (0x27, 0) := by
  exact ⟨cue_met (cue_at (by decide +kernel)) (by decide +kernel), by decide +kernel⟩

/-- Cases of CueQueues, ChunksCommit, SealsAndCacheLines, EnginesRun, StepTraps, FiguresForm and RegisterWrites: scratchpad that an operation
still reads, seals that fail at the commit and behind a drain, an engine with reads to spare, lines that are owed and not, a transaction at
its limit, a signature that meets nothing, an event number that is reserved, turns that stand on the agenda. -/
theorem witness_more_cases :
    let s := leased onCore
    let L := s.launchOf (s.troupes.getD 1 default)
    let reads : Op := { Op0 with kind := .cpyOut, width := 4, lanes := [(0, 0, 0x20)], ivals := [{ lo := 0, hi := 128, write := false }] }
    let board (o : Op) : State := operating o s
    let taken : State := s.onWorld 1 (fun W => { W with wobs := [(0, { Wob0 with state := 1, len := 1 })] })
    let waits : State := { s with drains := [{ (default : Drain) with troupe := 1, launch := 1, world := 1, seals := [(0, 128)] }] }
    let S := (inTx.setAt? 1 0).getD default
    let f : Figure := { troupe := 1, set := 0, mask := 1, pc := 0x100, more := false }
    let stood (a : Turn) : State := { idle with agenda := [a], bringUp := 6 }
    s.spadFree 1 0 128 = true ∧ (board reads).spadFree 1 0 128 = false ∧
    (taken.withSeals.sealAll L 1 [(0, 128)]).isNone = true ∧ (s.withSeals.sealAll L 1 [(0, 128)]).isSome = true ∧
    fine (waits.withSeals.sealNow 1 0 1 0 128) = false ∧ fine (waits.sealNow 1 0 1 0 128) = true ∧ waits.sealComing 1 0 0 = true ∧
    s.engineReads 0 1 2 < (s.world 1).wins.getD 0 256 ∧
    s.linesOwed 0 { reads with troupe := 1, pos := 2 } = false ∧
    ((S.onChunk (fun c => { c with count := 4096 })).txFull = true ∧ (S.onChunk (fun c => { c with count := 4095 })).txFull = false) ∧
    ((s.setAt? 1 0).map (fun S => decide (S.reply [0x40] (0, 0, 0) = .keep false))) = some true ∧
    10 ≤ nfld 10 0 8 ∧ nfld 9 0 8 < 10 ∧
    (∀ a ∈ ([.settle f, .issue (.step f), .issue (.cue 1), .event .pwrBasic] : List Turn),
      (stood a).pass.cur = none ∧ 6 ≤ (stood a).pass.bringUp ∧ (stood a).pass.agenda = a :: []) := by
  decide +kernel

/-- Cases of ChunksCommit, HomesAndLines, EnginesRun, TrapsAreTaken and LaunchesRun: a set that a signature squashes, drains at targets, lanes of
one amo at a home and at a target, requests and commands that fail, late traps, a run that ends with its troupes. -/
theorem witness_failures :
    let s := leased onCore
    let bad (s : State) : State := { s with gran := [(0x80, { Gran0 with poison := true })] }
    let T := s.troupes.getD 1 default
    let open1 : State := s.onSet 1 0 (fun S => (S.openChunk 0x100 0x100).onChunk (fun c => { c with reads := [0x40] }))
    let S := (open1.setAt? 1 0).getD default
    let st (rel : Bool) : Store :=
      { dpa := 0xC000000005000, va := 0, bytes := [1], lane := 0, sys := true, rel := rel, l1 := 0, msc := 0 }
    let drain (outs : List Eff) (seals : List (Nat × Nat)) (t : State) : State :=
      { t with drains := [{ troupe := 1, set := 0, launch := 1, world := 1, pc := 0x100, outs := outs, seals := seals, homes := [0], lines := [], stores := [] }] }
    let out (t : State) : State := { t with requests := (asking (.write [1]) (.set 1 0 32 0x100)).requests }
    let a : Atomic := { seq := 0, asker := .lane 1 0 0, world := 1, tcid := 0, va := 0, dpa := 0x2000, op := 8, width := 4, cmp := 0, val := 5 }
    let waits : Option Waiting := some { mask := 3, dst := 8, ahead := 0, next := 0x104, got := [], wide := 1, vas := [(0, 0)] }
    let amo (answer : Option Nat) (t : State) : State := { (t.onSlice 0 (fun S => { S with atomics := [a] })).onSet 1 0 (fun S => { S with waiting := waits })
      with requests := [(7, { kind := .atomic 8 4 0 1, owner := .set 1 0 1 0x100, world := 1, port := 0, dpa := 0xC000000005000, launch := 1, answered := answer })] }
    let q : NbReq := { id := 9, troupe := 1, set := 0, pc := 0x100, kind := 1, mod := 4, dst := 8, lanes := [(0, 0x2000)], data := [(0, [1, 2, 3, 4])] }
    let nb (kind : Nat) : State := s.onUnit 0 5 (fun U => { U with queue := [{ q with kind := kind }] })
    let late (f : SetState → SetState) (t : State) : State := t.onSet 1 0 (fun S => f { S with traps := [{ cause := 0x50, flags := 1 }] })
    let dying : State := { s.onLaunch 1 (fun L => { L with ending := true, stage := .running }) with cur := none }
    (S.chunk.any (fun c => [0x40].any (fun l => readSig c.reads l) && c.tx.isNone && c.copies.isEmpty && c.amask.isNone && c.reds.isEmpty &&
      c.spWrites.isEmpty) = true ∧ S.reply [0x40] (0, 0, 0) = .open' false ∧ open1.setAt? 1 0 = some S) ∧
    ((drain [.store (st true)] [] (out s)).unacked 1 0 = true ∧ (drain [.store (st true)] [] s).unacked 1 0 = false ∧
      (drain [] [(0, 128)] (out s)).unacked 1 0 = true ∧
      (drain [.red { someRed with sys := true }] [] s).drains.findIdx? (fun d => d.troupe == 1 && d.set == 0) = some 0) ∧
    ((amo none s).amoReady 1 0 = false ∧ (amo (some 0) s).amoReady 1 0 = true ∧ (amo (some 0) s).amoFails 1 0 = [] ∧
      (amo (some 0x50) s).amoFails 1 0 ≠ [] ∧ (amo (some 0x50) s).amoReady 1 0 = true ∧ (amo (some 0) (bad s)).amoFails 1 0 ≠ [] ∧
      (amo (some 0) s).sealFor ((amo (some 0) s).requests.getD 7 default) ≠ 1) ∧
    ((((nb 1).slice 0).unit 5).queue = [q] ∧ (bad (nb 0)).nbFaults 1 (laneGranules q.lanes) ≠ []) ∧
    (((late id s).setAt? 1 0).map (fun S => (S.traps.find? S.due).isSome && S.chunks.isEmpty && S.live != 0 && !S.inTx)) = some true ∧
    (((late id inTx).setAt? 1 0).map (fun S => (S.traps.find? S.due).isSome && S.inTx)) = some true ∧
    (((late (fun S => S.onLanes (BitVec.allOnes 32) (fun _ th => { th with live := false })) s).setAt? 1 0).map
      (fun S => (S.traps.find? S.due).isSome && S.live == 0)) = some true ∧
    (bitAt ({ cause := 8, flags := 2 } : Trap).flags 1 = true ∧ ({ cause := 0x50, flags := 5 } : Trap).late = true) ∧
    ((dying.launches.get? 1).any (fun L => L.ending && L.stage != .done) = true ∧ dying.runQuiet 1 = true ∧ dying.enginesDone 1 = true ∧
      (dying.troupesOf 1).length = 1 ∧ T.launch = 1) := by
  decide +kernel

/-- Cases of EnginesRun, LinkCompletions and LinksAndIntegrity: pieces and commands that fail, requests of each kind and owner, a port that
falls with requests and lines, data that fails its check. -/
theorem witness_link_cases :
    let s := laidOut (leased onCore)
    let bad (s : State) : State := { s with gran := [(0x80, { Gran0 with poison := true })] }
    let o : Op := { Op0 with kind := .tcpyOut, set := 0xFF, layout := { row with fmt := 1 }, coords := [0, 0, 0, 0, 0], ivals := [{ lo := 0, hi := 64, write := false }] }
    let x (dpa : Nat) : Xfer :=
      { core := 0, entry := 0, op := { o with troupe := 1 }, us := [0], lo := 0, dpa := dpa, n := 32, world := 1
        tcid := 0, launch := 1, far := isOutside dpa, prot := false }
    let c := redCmdOf block 1 1 0 0 0x100 false
    let own (fr : Frame) : Frame := { fr with ownersel := 1, pz := false }
    let r := (((windowed s).onFrame 0 4 own).onFrame 0 5 own).onSlice 0 (fun S => { S with nb := { S.nb with queue := [c] } })
    let L := r.launchOf (r.troupes.getD 1 default)
    let gone : State := r.onFrame 0 5 (fun fr => { fr with ownersel := 0 })
    let held : State := s.onSlice 0 (fun S => { S with state := 3 })
    let kinds : List (ReqKind × ReqOwner) := [(.read 4, .cue 1), (.read 8, .launch 1), (.write [1], .cue 1), (.read 32, .op 0 0 0),
      (.flush 1 [1], .op 0 0 0), (.flush 1 [1], .set 1 0 32 0x100), (.atomic 8 4 0 1, .set 1 0 32 0x100), (.fill, .home)]
    let t := asking .fill .home
    let worry : State := { asking (.read 4) (.cue 1) with unverified := [(2 ^ 46 + 5, 0)], hostHeld := [(0x40, true)] }
    let lane : Op := { Op0 with kind := .cpyOut, troupe := 1, width := 4, lanes := [(0, 0, 0x20)], ivals := [{ lo := 0, hi := 4, write := false }] }
    let y : Xfer := { x 0x2000 with op := lane }
    let fails (s : State) : Bool := ((operating lane s).writeLine 1 ((operating lane s).xferBytes y) y.pol).any (fun p =>
      (y.failing (fun a => (p.2.find? (fun b => b.1 == a / 64 * 64)).map (·.2))).isSome)
    ((x 0x2000).failing ((bad s).readFault 1)).isSome = true ∧ held.contained 1 0x2000 = true ∧
    fails (bad s) = true ∧
    ((r.slice 0).nb.queue = [c] ∧ ((bad r).redRun 0 1 (r.windows L 0) c).2 = [] ∧ (gone.redRun 0 1 (gone.windows L 0) c).2 ≠ [] ∧
      gone.lineBusy 1 (gone.dpaOf L c.caddr / 128) = false) ∧
    (∀ k ∈ kinds, ((asking k.1 k.2).requests.get? 7).isSome = true ∧ (asking k.1 k.2).sentBefore 7 ((asking k.1 k.2).requests.getD 7 default) = false ∧
      (asking k.1 k.2).lineWaits ((asking k.1 k.2).requests.getD 7 default) = false) ∧
    (t.ctl.poolc = true ∧ t.copies.get? (lineKey 1 (0xC000000005000 / 128)) = none ∧ t.inRun 1 = true) ∧
    ((worry.port 0).up = true ∧ worry.requests.length = 1 ∧ worry.inFlight 0 0 [2 ^ 46 + 5] = [1] ∧ isDram (0x40 * 128) = true) := by
  decide +kernel

/-- EnginesRun: a pooled line that a world with no read to spare may not read yet. -/
theorem witness_no_reads : (onCore.onWorld 1 (fun W => { W with maxout := 0 })).mayRead 1 0xD000000005000 = false := by
  have h : ((onCore.onWorld 1 (fun W => { W with maxout := 0 })).world 1).maxout = 0 := by decide +kernel
  simp only [State.mayRead, State.portOf, isHost, h]
  simp
  omega

/-- Cases of LeasesGrantAndRelease and WorldCommands: a driver's entry that is granted, answers to every waiter, a request past the space, homes
that a hint moves, and a destination that is not the world's. -/
theorem witness_lease_cases :
    let own (l : Lease) (s : State) : State := s.onWorld 1 (fun W => { W with leases := [(0, l)] })
    let asked : Lease := { Lease0 with state := 1, len := 2, base := 5, drv := true }
    let d : State := (mapped 1 (own asked onCore)).onWorld 1 (fun W => { W with lreq := { W.lreq with busy := true, index := 0 } })
    let past : State := onCore.onWorld 1 (fun W => { W with lreq := { W.lreq with busy := true, len := 1, base := 2 ^ 36 } })
    let flt (n : Nat) : State := (own { asked with waiter := none } onCore).onWorld 1 (fun W => { W with flt := { Flt0 with pend := true, waiter := n } })
    let hinted : State := leased { atRest with launches := [(1, { Launch0 with world := 1, stage := .placing, words := List.replicate 10 0 ++ [0x40] })] }
    (d.faultStands 1 2 0 0 = false ∧ (State.walkPages 1 ((List.range 2).drop 0) d asked).2.2.isNone = true ∧ (d.world 1).lreq.busy = true ∧
      ((d.world 1).leases.getD (d.world 1).lreq.index Lease0) = asked) ∧
    (2 ^ 36 < (past.world 1).lreq.base + (past.world 1).lreq.len ∧ ((past.world 1).leases.getD (past.world 1).lreq.index Lease0).state ≠ 1) ∧
    (∀ n ∈ [1, 2, 4, 5, 6], ((flt n).world 1).flt.waiter = n ∧ (((flt n).world 1).leases.getD 0 Lease0).waiter = none) ∧
    ((hinted.launches.filter (fun e => e.2.world == 1 && e.2.stage == .placing && e.2.next == 0 && !e.2.ending)).length = 1 ∧
      nfld (nfld (((hinted.launches.getD 1 Launch0).words.getD 10 0).toNat) 0 16) 5 2 = 2) ∧
    ((onCore.slice 0).state = 1 ∧ (onCore.slice 1).state ≠ 1) := by
  decide +kernel

end Sys2Proof.Tests
end

section
/-! O54: register writes (00 R6; 25 R481, R490, Table 25-1). First what reaches the map at all, then the block of the map that an offset lies
in, then each register by its offset. -/

namespace Sys2Proof.Machine

section Laws

variable (s : State) (w x : Nat)

/-! ### What a write reaches -/

theorem exec_registerWrite_of_not_served {s : State} {w off : Nat} (v : DWord) (h : s.servesWrites w off = false) :
    exec (.registerWrite w off v) s = .next s := by
  change execRegisterWrite w off v s = _
  simp [execRegisterWrite, h]

theorem exec_registerWrite_of_unaligned (s : State) (w : Nat) {off : Nat} (v : DWord) (h : off % 8 ≠ 0) :
    exec (.registerWrite w off v) s = .next s := by
  change execRegisterWrite w off v s = _
  simp [execRegisterWrite, h]

theorem exec_registerWrite_of_served {s : State} {w off : Nat} (v : DWord) (hs : s.servesWrites w off = true) (h8 : off % 8 = 0) :
    exec (.registerWrite w off v) s = .next (s.writeAt w off v.toNat) := by
  change execRegisterWrite w off v s = _
  simp [execRegisterWrite, hs, h8]

/-- After bring-up, without lock-down and outside ERROR, every write of a function is served (22 R446, 24 R471, 25 R490). -/
theorem State.servesWrites_of_ready {s : State} {w : Nat} (off : Nat) (hw : w ≤ 64) (hlock : s.lockedDown = false)
    (hready : s.ctl.ready = true) (herror : s.tstate w ≠ 4) : s.servesWrites w off = true := by
  simp [State.servesWrites, State.takesWrite, hw, hlock, hready, herror]

/-- A write that leaves the state as it is leaves it so whether it is served or not. -/
theorem exec_registerWrite_of_writeAt_self {s : State} {w off : Nat} {v : DWord} (h : s.writeAt w off v.toNat = s) :
    exec (.registerWrite w off v) s = .next s := by
  change execRegisterWrite w off v s = _
  simp [execRegisterWrite, h]

/-! ### Changes that agree where they act -/

theorem State.onWorld_congr {s : State} {w : Nat} {f g : World → World} (h : f (s.world w) = g (s.world w)) :
    s.onWorld w f = s.onWorld w g := by
  simp only [State.onWorld, h]

theorem State.onPreempt_congr {s : State} {page : Nat} {f g : PreemptCmd → PreemptCmd}
    (h : f (s.preemptCmd page) = g (s.preemptCmd page)) : s.onPreempt page f = s.onPreempt page g := by
  by_cases hp : page = 65
  · rw [State.preemptCmd, if_pos hp] at h
    simp only [State.onPreempt, if_pos hp, h]
  · rw [State.preemptCmd, if_neg hp] at h
    simp only [State.onPreempt, if_neg hp]
    exact State.onWorld_congr (by simp only [h])

/-! ### The fields that software sees

What is stored while BUSY is 1 never touches BUSY or RESULT. -/

@[simp] theorem Lreq.busy_put (r : Lreq) (off x : Nat) : (r.put off x).busy = r.busy := by
  unfold Lreq.put
  split <;> rfl

@[simp] theorem Lreq.busy_seen (r : Lreq) : r.seen.busy = r.busy :=
  List.foldlRecOn (motive := fun q : Lreq => q.busy = r.busy) r.later _ rfl
    (fun q hq e _ => (q.busy_put e.1 e.2).trans hq)

theorem SliceCmd.seen_keeps (c : SliceCmd) : c.seen.busy = c.busy ∧ c.seen.result = c.result ∧ c.seen.later = [] :=
  List.foldlRecOn (motive := fun d : SliceCmd => d.busy = c.busy ∧ d.result = c.result ∧ d.later = []) c.later _
    ⟨rfl, rfl, rfl⟩ (fun _ hd _ _ => hd)

/-! ### The blocks of the map (25 Table 25-1) -/

section Blocks

variable {off : Nat}

theorem State.writeAt_preempt : s.writeAt w 0x300 x = s.writePreempt w x := rfl

theorem State.writeAt_ch (h : off < 0x40000) (hp : off ≠ 0x300) : s.writeAt w off x = s.writeCh w off x := by
  rw [State.writeAt, if_neg hp, if_pos h]

theorem State.writeAt_xl (h : off < 0x10000) : s.writeAt w (0x40000 + off) x = s.writeXl w off x := by
  rw [State.writeAt, if_neg (by omega), if_neg (by omega), if_pos (by omega), Nat.add_sub_cancel_left]

theorem State.writeAt_trap (h : off < 0x10000) : s.writeAt w (0x60000 + off) x = s.writeTrap w off x := by
  rw [State.writeAt, if_neg (by omega), if_neg (by omega), if_neg (by omega), if_neg (by omega), if_pos (by omega),
    Nat.add_sub_cancel_left]

/-- The pages of the management world are no part of a tenant's function (25 R481). -/
theorem State.writeAt_admin_of_tenant {w : Nat} (hw : w ≠ 0) (h : 0xC00000 ≤ off) : s.writeAt w off x = s := by
  have above (b : Nat) (hb : b ≤ 0xC00000) : ¬ off < b := by omega
  simp [State.writeAt, above, hw, show off ≠ 0x300 by omega]

theorem State.writeAt_secAdmin (h : off < 0x400000) : s.writeAt 0 (0x1000000 + off) x = s.writeSecAdmin off x := by
  have above (b : Nat) (hb : b ≤ 0x1000000) : ¬ 0x1000000 + off < b := by omega
  simp [State.writeAt, above, show 0x1000000 + off ≠ 0x300 by omega, show 0x1000000 + off < 0x1400000 by omega]

end Blocks

/-! ### The registers -/

theorem State.writeAt_gang_of_busy {s : State} {w : Nat} (h : (s.world w).gang.busy = true) : s.writeAt w 0x108 x = s := by
  rw [State.writeAt_ch _ _ _ (by decide) (by decide)]
  simp [State.writeCh, h]

theorem State.writeAt_gang_of_idle {s : State} {w : Nat} (h : (s.world w).gang.busy = false) :
    s.writeAt w 0x108 x = s.onWorld w (fun W =>
      { W with gang := { W.gang with gang := nfld x 0 20, op := bitAt x 32, busy := true, result := 1 } }) := by
  rw [State.writeAt_ch _ _ _ (by decide) (by decide)]
  simp [State.writeCh, h]

theorem State.writeAt_preempt_of_busy {s : State} {w : Nat} (h : (s.preemptCmd w).busy = true) :
    s.writeAt w 0x300 x = s.onPreempt w (fun c => if bitAt x 21 then c else { c with later := [(0, x)] }) := by
  rw [State.writeAt_preempt, State.writePreempt]
  exact State.onPreempt_congr (if_pos h)

/-- CH_PCTL (24 Table 24-6): an EVENT of 10 to 255 is a reserved value, and EN is stored beside it all the same. -/
theorem State.writeAt_pctl_of_reserved {n : Nat} (hn : n < 16) (hx : 10 ≤ nfld x 0 8) :
    let e := (s.world w).budget.pctl.getD n (0, false, 0)
    s.writeAt w (0x3000 + 16 * n) x = s.onWorld w (fun W =>
      { W with budget := { W.budget with pctl := W.budget.pctl.set n (e.1, bitAt x 8, e.2.2) } }) := by
  have hindex : (0x3000 + 16 * n - 0x3000) / 16 = n := by omega
  have hevent : (0x3000 + 16 * n) % 16 ≠ 8 := by omega
  rw [State.writeAt_ch _ _ _ (by omega) (by omega), State.writeCh, if_neg (by omega), if_neg (by omega), if_neg (by omega),
    if_neg (by omega), if_pos (by simp; omega)]
  simp only [hindex, if_neg hevent, if_pos hx]

theorem State.writeAt_ctx {n : Nat} (hn : n < 256) :
    s.writeAt w (0x40100 + 8 * n) x = s.onWorld w (fun W => { W with ctx := W.ctx.set n (nfld x 0 1 + nfld x 12 40 * 4096) }) := by
  have hindex : (0x100 + 8 * n - 0x100) / 8 = n := by omega
  rw [show 0x40100 + 8 * n = 0x40000 + (0x100 + 8 * n) by omega, State.writeAt_xl _ _ _ (by omega), State.writeXl,
    if_neg (by simp; omega), if_pos (by simp; omega)]
  simp only [hindex]

theorem State.writeAt_lreq : s.writeAt w 0x40080 x = s.onWorld w (fun W => { W with lreq := W.lreq.write 0x80 x }) :=
  State.writeAt_xl s w x (off := 0x80) (by decide)

theorem State.writeAt_hcode :
    s.writeAt w 0x60000 x = s.onWorld w (fun W => { W with trap := { W.trap with valid := bitAt x 0, code := nfld x 12 36 } }) :=
  State.writeAt_trap s w x (off := 0) (by decide)

theorem State.writeAt_sliceCmd : s.writeAt 0 0x1000300 x = { s with sliceCmd := s.sliceCmd.write x } :=
  State.writeAt_secAdmin s x (off := 0x300) (by decide)

theorem State.writeAt_act_of_locked {s : State} {n : Nat} (hn : n ≤ 64) (h : s.lockedWorld n = true) :
    s.writeAt 0 (0x1003000 + 8 * n) x = s := by
  have hindex : (0x3000 + 8 * n - 0x3000) / 8 = n := by omega
  rw [show 0x1003000 + 8 * n = 0x1000000 + (0x3000 + 8 * n) by omega, State.writeAt_secAdmin _ _ (by omega), State.writeSecAdmin,
    if_neg (by omega), if_pos (by simp; omega)]
  simp only [hindex, h, if_true]

theorem State.writeAt_pkgcap : s.writeAt 0 0x1810000 x = s.writePwr 0 x := rfl

/-! ### The commands -/

theorem Lreq.write_of_busy {r : Lreq} (off x : Nat) (h : r.busy = true) : r.write off x = { r with later := r.later.set off x } :=
  if_pos h

/-- Outside a command, a write of XL_LREQ's first word stores its fields, and GO starts the command with RESULT 1 (07 R164). -/
theorem Lreq.write_of_idle {r : Lreq} (x : Nat) (h : r.busy = false) :
    r.write 0x80 x = { r.seen with
      acc := bitAt x 4, base := nfld x 12 36, tcid := nfld x 48 8, busy := bitAt x 0, result := if bitAt x 0 then 1 else r.seen.result } := by
  cases hgo : bitAt x 0 <;> simp [Lreq.write, Lreq.put, h, hgo]

theorem SliceCmd.write_of_busy {c : SliceCmd} (x : Nat) (h : c.busy = true) : c.write x = { c with later := [(0, x)] } := if_pos h

/-- Outside a command, a write of SEC_SLICE_CMD stores its fields, and GO with an OP that is not reserved starts the command with RESULT 1
(24 Table 24-4). -/
theorem SliceCmd.write_of_idle {c : SliceCmd} (x : Nat) (h : c.busy = false) :
    c.write x =
      { op := nfld x 0 3, slice := nfld x 4 6, dest := nfld x 10 6, world := nfld x 16 7, minsl := nfld x 23 7, maxsl := nfld x 30 7
        busy := bitAt x 37 && decide (nfld x 0 3 < 6), result := if bitAt x 37 && decide (nfld x 0 3 < 6) then 1 else c.result
        later := [] } := by
  obtain ⟨hbusy, hresult, hlater⟩ := c.seen_keeps
  cases hgo : bitAt x 37 && decide (nfld x 0 3 < 6) with
  | true => simp [SliceCmd.write, SliceCmd.put, h, hgo, hlater]
  | false => simp [SliceCmd.write, SliceCmd.put, h, hgo, hbusy, hresult, hlater]

theorem State.writePwr_of_within (hlo : 100 ≤ nfld x 0 12) (hhi : nfld x 0 12 ≤ 2960) :
    s.writePwr 0 x = { s with ctl := { s.ctl with pkgcap := nfld x 0 12 } } := by
  simp [State.writePwr, hlo, hhi]

theorem State.writePwr_of_outside (h : nfld x 0 12 < 100 ∨ 2960 < nfld x 0 12) : s.writePwr 0 x = s := by
  rw [State.writePwr, if_neg (by simp; omega)]

end Laws

/-- Settles O54: a write that is served is the write at its offset, which each register's own lemma then gives. -/
theorem registerWrites : Obligations.RegisterWrites := by
  unfold Obligations.RegisterWrites
  intro s w off v
  refine ⟨exec_registerWrite_of_not_served v, exec_registerWrite_of_unaligned s w v, exec_registerWrite_of_served v, ?_⟩
  intro hw hlock hready herror
  have served {o : Nat} (h8 : o % 8 = 0) {t : State} (h : s.writeAt w o v.toNat = t) : exec (.registerWrite w o v) s = .next t :=
    h ▸ exec_registerWrite_of_served v (State.servesWrites_of_ready o hw hlock hready herror) h8
  refine ⟨fun h => ?gangBusy, fun h => ?gangIdle, fun h => ?preemptBusy, fun n hn => ?ctx, fun h => ?lreqBusy, fun h => ?lreqIdle,
    ?hcode, fun n hn hx => ?pctl, fun h0 hoff => ?tenant, fun h0 => ?management⟩
  case gangBusy => exact served rfl (State.writeAt_gang_of_busy _ h)
  case gangIdle => exact served rfl (State.writeAt_gang_of_idle _ h)
  case preemptBusy => exact served rfl (State.writeAt_preempt_of_busy _ h)
  case ctx => exact served (by omega) (State.writeAt_ctx s w _ hn)
  case lreqBusy =>
    exact served rfl ((State.writeAt_lreq s w _).trans (State.onWorld_congr (by rw [Lreq.write_of_busy _ _ h])))
  case lreqIdle =>
    exact served rfl ((State.writeAt_lreq s w _).trans (State.onWorld_congr (by rw [Lreq.write_of_idle _ h])))
  case hcode => exact served rfl (State.writeAt_hcode s w _)
  case pctl => exact served (by omega) (State.writeAt_pctl_of_reserved s w _ hn hx)
  case tenant => exact exec_registerWrite_of_writeAt_self (State.writeAt_admin_of_tenant s _ h0 hoff)
  case management =>
    subst h0
    refine ⟨fun h => ?sliceBusy, fun h => ?sliceIdle, fun n hn h => ?act, fun hlo hhi => ?capWithin, fun h => ?capOutside⟩
    case sliceBusy => exact served rfl (by rw [State.writeAt_sliceCmd, SliceCmd.write_of_busy _ h])
    case sliceIdle => exact served rfl (by rw [State.writeAt_sliceCmd, SliceCmd.write_of_idle _ h])
    case act => exact exec_registerWrite_of_writeAt_self (State.writeAt_act_of_locked _ hn h)
    case capWithin => exact served rfl ((State.writeAt_pkgcap s _).trans (State.writePwr_of_within s _ hlo hhi))
    case capOutside => exact served rfl ((State.writeAt_pkgcap s _).trans (State.writePwr_of_outside s _ h))

end Sys2Proof.Machine
end

section
/-! O58: decoding and encoding agree (02 R27-R34, R51-R53). A word is its fields side by side: `encode` puts them together, the two opcode maps
take them apart, and each map's row is shown to undo the other. -/

namespace Sys2Proof

/-! ### Fields of words -/

theorem fld_append_of_le {v w n lo : Nat} (x : BitVec v) (y : BitVec w) (h : w ≤ lo) : fld (x ++ y) lo n = fld x (lo - w) n :=
  BitVec.extractLsb'_append_eq_of_le h

theorem fld_append_of_add_le {v w n lo : Nat} (x : BitVec v) (y : BitVec w) (h : lo + n ≤ w) : fld (x ++ y) lo n = fld y lo n :=
  BitVec.extractLsb'_append_eq_of_add_le h

theorem fld_self {w : Nat} (x : BitVec w) : fld x 0 w = x := BitVec.extractLsb'_eq_self

/-- Two fields side by side are a field of a word where each of them is. -/
theorem append_eq_fld_iff {v n k lo : Nat} (x : BitVec n) (y : BitVec k) (w : BitVec v) :
    x ++ y = fld w lo (n + k) ↔ x = fld w (lo + k) n ∧ y = fld w lo k := by
  have joined : fld w (lo + k) n ++ fld w lo k = fld w lo (n + k) := BitVec.extractLsb'_append_extractLsb'_eq_extractLsb' rfl
  constructor
  · intro h
    exact ⟨by rw [← BitVec.extractLsb'_append_eq_left (a := x) (b := y), h, ← joined]; exact BitVec.extractLsb'_append_eq_left,
      by rw [← BitVec.extractLsb'_append_eq_right (a := x) (b := y), h, ← joined]; exact BitVec.extractLsb'_append_eq_right⟩
  · rintro ⟨rfl, rfl⟩
    exact joined

theorem rz_eq_nil_iff (w : Word) (lo n r : Nat) : rz w lo n r = [] ↔ fld w lo n = 0#n := by
  unfold rz
  split <;> simpa using ‹_›

theorem eq_ofNat_of_toNat_eq {n k : Nat} {x : BitVec n} (h : x.toNat = k) : x = BitVec.ofNat n k := by
  rw [← h, BitVec.ofNat_toNat, BitVec.setWidth_eq]

/-! ### The rows of the two maps -/

/-- The step map gives an instruction back from its word: its major finds its row, and the row takes the word apart as it was put together. -/
theorem stepRow_encode {i : Instr} (h : i.side = .step ∨ i.side = .both) : stepRow (encode i) = some (i, []) := by
  generalize hw : encode i = w
  have hmajor : fld w 25 7 = fld (encode i) 25 7 := by rw [hw]
  cases i <;> rcases h with h | h <;> cases h
  all_goals
    unfold encode at hw hmajor
    simp (disch := decide) only [fld_append_of_le, fld_self, Nat.reduceSub] at hmajor
    unfold stepRow
    rw [hmajor]
    show some _ = some _
    subst hw
    simp (disch := decide) only [fld_append_of_le, fld_append_of_add_le, fld_self, Nat.reduceSub, rz, if_true, List.append_nil,
      BitVec.ofNat_eq_ofNat]

/-- The cue map gives an instruction back from its word. -/
theorem cueRow_encode {i : Instr} (h : i.side = .cue ∨ i.side = .both) : cueRow (encode i) = some (i, []) := by
  generalize hw : encode i = w
  have hmajor : fld w 25 7 = fld (encode i) 25 7 := by rw [hw]
  cases i <;> rcases h with h | h <;> cases h
  all_goals
    unfold encode at hw hmajor
    simp (disch := decide) only [fld_append_of_le, fld_self, Nat.reduceSub] at hmajor
    unfold cueRow
    rw [hmajor]
    show some _ = some _
    subst hw
    simp (disch := decide) only [fld_append_of_le, fld_append_of_add_le, fld_self, Nat.reduceSub, rz, if_true, List.append_nil,
      BitVec.ofNat_eq_ofNat]

/-- A row of the step map whose reserved fields are zero is an encoded instruction, of which the word is the word. -/
theorem encode_of_stepRow {w : Word} {i : Instr} {rs : List Nat} (h : stepRow w = some (i, rs)) (hrs : rs = []) :
    encode i = w ∧ i.side ≠ .event := by
  unfold stepRow at h
  split at h <;> cases h
  all_goals
    rename_i hmajor
    replace hmajor := eq_ofNat_of_toNat_eq hmajor
    refine ⟨Eq.trans ?_ (fld_self w), nofun⟩
    unfold encode
    refine (append_eq_fld_iff _ _ w).mpr ?_
    revert hrs
    simp +contextual only [List.append_eq_nil_iff, rz_eq_nil_iff, ↓append_eq_fld_iff, Nat.reduceAdd, hmajor, and_self, implies_true]

/-- A row of the cue map whose reserved fields are zero is an encoded instruction, of which the word is the word. -/
theorem encode_of_cueRow {w : Word} {i : Instr} {rs : List Nat} (h : cueRow w = some (i, rs)) (hrs : rs = []) :
    encode i = w ∧ i.side ≠ .event := by
  unfold cueRow at h
  split at h <;> cases h
  all_goals
    rename_i hmajor
    replace hmajor := eq_ofNat_of_toNat_eq hmajor
    refine ⟨Eq.trans ?_ (fld_self w), nofun⟩
    unfold encode
    refine (append_eq_fld_iff _ _ w).mpr ?_
    revert hrs
    simp +contextual only [List.append_eq_nil_iff, rz_eq_nil_iff, ↓append_eq_fld_iff, Nat.reduceAdd, hmajor, and_self, implies_true]

theorem rowOf_encode {p : Profile} {i : Instr} (he : i.side ≠ .event) (hs : i.side = .step → p = .core ∨ p = .nearBank)
    (hc : i.side = .cue → p = .cue ∨ p = .prologue) : rowOf p (encode i) = some (i, []) := by
  cases hp : i.side with
  | step => obtain rfl | rfl := hs hp <;> exact stepRow_encode (.inl hp)
  | cue => obtain rfl | rfl := hc hp <;> exact cueRow_encode (.inl hp)
  | both =>
    cases p with
    | core | nearBank => exact stepRow_encode (.inr hp)
    | cue | prologue => exact cueRow_encode (.inr hp)
  | event => exact absurd hp he

theorem encode_of_rowOf {p : Profile} {w : Word} {i : Instr} (h : rowOf p w = some (i, [])) : encode i = w ∧ i.side ≠ .event := by
  cases p with
  | core | nearBank => exact encode_of_stepRow h rfl
  | cue | prologue => exact encode_of_cueRow h rfl

/-! ### Reasons -/

theorem minNat_eq_none_iff {l : List Nat} : minNat l = none ↔ l = [] := by
  cases l with
  | nil => exact ⟨fun _ => rfl, fun _ => rfl⟩
  | cons x l =>
    refine ⟨fun h => ?_, nofun⟩
    unfold minNat at h
    split at h <;> cases h

theorem noRowFaults_ne_nil (p : Profile) (w : Word) : noRowFaults p w ≠ [] := by
  unfold noRowFaults
  split <;> simp

/-- A word decodes to the instruction of its row, where nothing is against it (02 R53). -/
theorem decode_eq_ok_iff {p : Profile} {w : Word} {i : Instr} :
    decode p w = .ok i ↔ rowOf p w = some (i, []) ∧ profileFaults p w = [] ∧ i.wordFaults = [] := by
  unfold decode decodeFaults
  cases hrow : rowOf p w with
  | none =>
    cases hmin : minNat (noRowFaults p w) with
    | none => exact absurd (minNat_eq_none_iff.mp hmin) (noRowFaults_ne_nil p w)
    | some r => simp
  | some e =>
    obtain ⟨j, rs⟩ := e
    cases hmin : minNat (profileFaults p w ++ rs ++ j.wordFaults) with
    | none =>
      have hnil := minNat_eq_none_iff.mp hmin
      simp only [List.append_eq_nil_iff] at hnil
      obtain ⟨⟨hp, rfl⟩, hj⟩ := hnil
      simp only [Except.ok.injEq, Option.some.injEq, Prod.mk.injEq, and_true, hp, true_and]
      exact ⟨fun h => ⟨h, h ▸ hj⟩, fun h => h.1⟩
    | some r =>
      refine ⟨nofun, ?_⟩
      rintro ⟨hj, hp, hi⟩
      cases hj
      rw [hp, hi] at hmin
      cases hmin

/-- The operands of an encoded instruction name no unit of the device, so that none is out of range. -/
theorem operandsOk_of_side {i : Instr} (h : i.side ≠ .event) : i.operandsOk = true := by
  unfold Instr.operandsOk
  split
  case h_74 => rfl
  all_goals exact absurd rfl h

/-- Settles O58: an instruction's row gives it back from its word, and a row without a reason against it gives the word back. -/
theorem decodeEncode : Obligations.DecodeEncode := by
  unfold Obligations.DecodeEncode
  refine ⟨fun p i hwf he hs hc hp => ?_, fun p w i h => ?_⟩
  · simp only [Instr.wf, Bool.and_eq_true, List.isEmpty_iff] at hwf
    exact decode_eq_ok_iff.mpr ⟨rowOf_encode he hs hc, hp, hwf.1⟩
  · obtain ⟨hrow, -, hi⟩ := decode_eq_ok_iff.mp h
    obtain ⟨hword, he⟩ := encode_of_rowOf hrow
    exact ⟨by simp [Instr.wf, hi, operandsOk_of_side he], hword, he⟩

end Sys2Proof
end

section
/-! O57: words of the tables and of the listings. -/

namespace Sys2Proof

/-- Settles O57: each word is run through the decoder. -/
theorem decodeWords : Obligations.DecodeWords := by
  unfold Obligations.DecodeWords
  decide

end Sys2Proof
end

section
/-! O55: a step runs the instruction that the word at its issue decodes to (02 R27, R53; 20 R415; 25 R490). First what the context adds to a
decoded word and what a step's passing changes; then what a step is, case by case. -/

namespace Sys2Proof

/-! ### Decoding where a word issues -/

theorem decodeAt_of_ok {c : DecodeCtx} {w : Word} {i : Instr} (h : decode c.profile w = .ok i) (hc : contextFaults c i = []) :
    decodeAt c w = i := by
  obtain ⟨hrow, hp, hi⟩ := decode_eq_ok_iff.mp h
  simp [decodeAt, decodeFaults, hrow, hp, hi, hc, minNat]

theorem decodeAt_of_no_row {c : DecodeCtx} {w : Word} {r : Nat} (h : decode c.profile w = .error r) (hrow : rowOf c.profile w = none) :
    decodeAt c w = .illegalInstruction r := by
  unfold decode at h
  unfold decodeAt
  simp only [hrow, List.append_nil] at h ⊢
  split at h <;> cases h <;> rfl

namespace Machine

/-! ### A step passes -/

theorem foldl_tally_eq (cs : List (Nat × Nat)) (n : Nat) (s : State) :
    cs.foldl (fun s c => s.tally c.2 1 n) s = { s with worlds := (cs.foldl (fun s c => s.tally c.2 1 n) s).worlds } := by
  induction cs generalizing s with
  | nil => rfl
  | cons c cs ih => rw [List.foldl_cons, ih, State.tally_eq]

theorem State.countCycles_eq (s : State) (n : Nat) : s.countCycles n = { s with worlds := (s.countCycles n).worlds } :=
  foldl_tally_eq _ n s

theorem State.pass_eq (s : State) :
    s.pass = { s with cycle := s.pass.cycle, tick := s.tick + 1, worlds := s.pass.worlds } := by
  unfold State.pass
  rw [State.countCycles_eq]

/-! ### What a step is -/

theorem step_of_cur {s : State} {u : Issue} (h : s.pass.cur = some u) : step s = fetchStep s.pass u := by
  simp only [step, h]

theorem step_of_bringUp {s : State} (h : s.pass.cur = none) (hb : s.pass.bringUp < 6) : step s = .next s.pass.bringUpStep := by
  simp only [step, h, hb, if_true]

theorem step_of_agenda {s : State} {a : Turn} {rest : List Turn} (h : s.pass.cur = none) (hb : 6 ≤ s.pass.bringUp)
    (ha : s.pass.agenda = a :: rest) : step s = takeTurn { s.pass with agenda := rest } a := by
  simp only [step, h, ha, if_neg (Nat.not_lt.mpr hb)]

theorem fetchStep_of_read {s : State} {u : Issue} {c : Code} (h : s.codeOf u.agent = some c) (hin : c.desc.inCode u.word = true)
    (hr : s.fetchBad c u.word = none) :
    fetchStep s u = exec (decodeAt (s.decodeCtx u) (s.codeWord c u.word)) (s.fetched c u.word 4) := by
  simp only [fetchStep, h, hin, hr, if_true]

theorem takeTurn_event {i : Instr} (s : State) (h : isTurn i = true) : takeTurn s (.event i) = exec i s := by
  simp only [takeTurn, h, if_true]

theorem takeTurn_step (s : State) (f : Figure) : takeTurn s (.issue (.step f)) =
    .next (if s.troupeTurn f.troupe then (s.first [.settle f]).begin (.step f) else { s with agenda := passOn s.agenda }) := rfl

theorem takeTurn_cue (s : State) (t : Nat) : takeTurn s (.issue (.cue t)) = .next (if s.troupeTurn t then s.begin (.cue t) else s) := rfl

/-- The agenda says nothing of a core's pace. -/
theorem State.troupeTurn_agenda (s : State) (ts : List Turn) (t : Nat) : ({ s with agenda := ts } : State).troupeTurn t = s.troupeTurn t := rfl

/-- Settles O55: each kind of step by its own equation. -/
theorem stepRunsDecoded : Obligations.StepRunsDecoded := by
  unfold Obligations.StepRunsDecoded
  intro s
  refine ⟨fun u c hu hc hin hr => ?issue, fun hu => ⟨step_of_bringUp hu, fun hb rest => ⟨?event, ?figure, ?settle, ?cue⟩⟩, ?pass⟩
  case issue =>
    have hstep := (step_of_cur hu).trans (fetchStep_of_read hc hin hr)
    exact ⟨hstep, fun i hi hctx => by rw [hstep, decodeAt_of_ok hi hctx], fun r he hrow => by rw [hstep, decodeAt_of_no_row he hrow]⟩
  case event => exact fun i ha hi => (step_of_agenda hu hb ha).trans (takeTurn_event _ hi)
  case figure =>
    refine fun f ha => ⟨fun ht => ?_, fun ht => ?_⟩ <;>
      rw [step_of_agenda hu hb ha, takeTurn_step, State.troupeTurn_agenda, ht] <;> rfl
  case settle => exact fun f ha => step_of_agenda hu hb ha
  case cue =>
    intro t ha ht
    rw [step_of_agenda hu hb ha, takeTurn_cue, State.troupeTurn_agenda, ht]
    rfl
  case pass =>
    rw [State.pass_eq]
    exact ⟨rfl, rfl, rfl, rfl, rfl⟩

end Machine
end Sys2Proof
end

section
/-! O36: control flow of the cue stream (02 R34; 16 R364, R372-R375; 22 R453, R455). First what an instruction does where the stream may issue
it, for the three ways a branch can go and the two ends of a computed target. -/

namespace Sys2Proof.Machine

section Cue
variable {s : State} {t : Nat} {T : Troupe} {u : Issue}

/-! ### What issues -/

theorem cueDo_of_cueAt (h : CueAt s t T u) (f : Nat → Troupe → Issue → Out) : cueDo s f = f t T u := by
  simp only [cueDo, h.1, h.2, if_true]

/-! ### Branches -/

theorem cueJump_of_not_taken (h : CueAt s t T u) (o : BitVec 19) {taken : (Nat → DWord) → Bool} (link : Bool) (ht : taken T.gets = false) :
    cueJump s o taken link = .next (s.cueTo t (u.word + 4) Troupe.tick) := by
  simp [cueJump, h.1, h.2, ht, State.cueNext]

theorem cueJump_of_lands (h : CueAt s t T u) {o : BitVec 19} {taken : (Nat → DWord) → Bool} (link : Bool) (ht : taken T.gets = true)
    (hl : s.codeHas u.agent (sbTarget u o) = true) :
    cueJump s o taken link = .next (s.cueTo t (sbTarget u o).toNat
      (fun T => if link then T.write 0 12 (BitVec.ofNat 64 (u.word + 4)) else T.tick)) := by
  simp [cueJump, h.1, h.2, ht, hl]

theorem cueJump_of_misses (h : CueAt s t T u) {o : BitVec 19} {taken : (Nat → DWord) → Bool} (link : Bool) (ht : taken T.gets = true)
    (hl : ¬ s.codeHas u.agent (sbTarget u o) = true) :
    cueJump s o taken link = .next (s.raiseCue t u.group 0x0A 1 0 (wrap 64 (sbTarget u o)) 0) := by
  simp [cueJump, h.1, h.2, ht, hl, State.cueTrap]

theorem exec_sbra (z : BitVec 5) (q : BitVec 1) (o : BitVec 19) (s : State) :
    exec (.sbra z q o) s = cueJump s o (fun g => (g z.toNat != 0) == (q == 1)) false := rfl

theorem exec_sjmp (o : BitVec 19) (s : State) : exec (.sjmp o) s = cueJump s o (fun _ => true) false := rfl

theorem exec_scall (o : BitVec 19) (s : State) : exec (.scall o) s = cueJump s o (fun _ => true) true := rfl

/-- The test of sbra: a register that is not zero, or is, as its bit asks. -/
theorem sbra_taken_iff (x : DWord) (q : BitVec 1) : ((x != 0) == (q == 1)) = true ↔ (x ≠ 0 ↔ q = 1) := by
  rw [beq_iff_eq, Bool.eq_iff_iff, bne_iff_ne, beq_iff_eq]

/-! ### Computed targets -/

theorem cueTargetBad_of_lands {a : Agent} {x : Nat} (h4 : x % 4 = 0) (hx : x < 2 ^ 32) (hl : s.codeHas a x = true) :
    s.cueTargetBad a x = none := by
  simp only [State.cueTargetBad, h4, Nat.div_eq_of_lt hx, hl, bne_self_eq_false, Bool.not_true, Bool.false_eq_true, if_false]

theorem cueTargetBad_of_misaligned (a : Agent) {x : Nat} (h4 : x % 4 ≠ 0) : s.cueTargetBad a x = some (0x01, 0x0C) := by
  simp [State.cueTargetBad, h4]

theorem exec_sret_of_lands (h : CueAt s t T u) {a : BitVec 8} (h4 : (T.gets a.toNat).toNat % 4 = 0) (hx : (T.gets a.toNat).toNat < 2 ^ 32)
    (hl : s.codeHas u.agent (T.gets a.toNat).toNat = true) :
    exec (.sret a) s = .next (s.cueTo t (T.gets a.toNat).toNat Troupe.tick) := by
  refine (cueDo_of_cueAt h _).trans ?_
  simp only [cueTargetBad_of_lands h4 hx hl]

theorem exec_sret_of_misaligned (h : CueAt s t T u) {a : BitVec 8} (h4 : (T.gets a.toNat).toNat % 4 ≠ 0) :
    exec (.sret a) s = .next (s.raiseCue t u.group 0x01 0x0C 0 (T.gets a.toNat).toNat 0) := by
  refine (cueDo_of_cueAt h _).trans ?_
  simp only [cueTargetBad_of_misaligned _ h4, State.cueTrap]

/-! ### The end of a stream -/

theorem exec_sexit_of_handler (h : CueAt s t T u) (hh : T.cue.handler.isSome = true) :
    exec .sexit s = .next (s.raiseCue t u.group 0x0B 2 0 0 0) := by
  refine (cueDo_of_cueAt h _).trans ?_
  simp only [hh, if_true, State.cueTrap]

theorem exec_sexit_of_copies_done (h : CueAt s t T u) (hh : T.cue.handler = none)
    (hc : ∀ e ∈ (s.coreAt T.place.coreNo).ops, ¬ (e.2.troupe = t ∧ e.2.set = 0xFF)) :
    exec .sexit s = .next (s.onCue t (fun C => { C with ended := true, win := [], pc := u.word + 4 })).endIssue := by
  have done : ((s.coreAt T.place.coreNo).ops.any fun e => e.2.troupe == t && e.2.set == 0xFF) = false := by
    simpa using hc
  refine (cueDo_of_cueAt h _).trans ?_
  simp only [hh, done, Option.isSome_none, Bool.false_eq_true, if_false]

/-! ### The return from a handler -/

theorem exec_srett_of_none (h : CueAt s t T u) (hh : T.cue.handler = none) :
    exec .srett s = .next (s.raiseCue t u.group 0x0B 1 0 0 0) := by
  refine (cueDo_of_cueAt h _).trans ?_
  simp only [hh, State.cueTrap]

end Cue

/-- The high half word of a register needs no cut. -/
theorem nfld_top (x : DWord) : nfld x.toNat 48 16 = x.toNat / 2 ^ 48 := by
  have := x.isLt
  exact Nat.mod_eq_of_lt (by omega)

theorem cueControlFlow : Claims.CueControlFlow := by
  unfold Claims.CueControlFlow
  intro s t T u z q o a h
  have hz := sbra_taken_iff (T.gets z.toNat) q
  simp only [exec_sbra, exec_sjmp, exec_scall]
  exact ⟨fun ht => cueJump_of_not_taken h o false (Bool.eq_false_iff.mpr (mt hz.mp ht)),
    fun ht hl => cueJump_of_lands h false (hz.mpr ht) hl, fun ht hl => cueJump_of_misses h false (hz.mpr ht) hl,
    fun hl => cueJump_of_lands h false rfl hl, fun hl => cueJump_of_misses h false rfl hl,
    fun hl => cueJump_of_lands h true rfl hl, fun hl => cueJump_of_misses h true rfl hl,
    exec_sret_of_lands h, exec_sret_of_misaligned h, exec_sexit_of_handler h, exec_sexit_of_copies_done h, cueDo_of_cueAt h _⟩

theorem cueTraps : Claims.CueTraps := by
  unfold Claims.CueTraps
  intro s t T u d i h
  refine ⟨cueDo_of_cueAt h _, exec_srett_of_none h, fun b hb => ⟨fun h4 hx hl => ?lands, fun h4 => ?misaligned⟩⟩
  all_goals
    refine (cueDo_of_cueAt h _).trans ?_
    simp only [hb]
  case lands =>
    simp only [h4, Nat.div_eq_of_lt hx, hl, nfld_top, bne_self_eq_false, Bool.not_true, Bool.false_eq_true, if_false]
    rfl
  case misaligned =>
    simp only [bne_iff_ne.mpr h4, if_true]
    rfl

/-- Settles O36: each instruction of the stream by its lemma. -/
theorem cueControl : Obligations.CueControl := ⟨cueControlFlow, cueTraps⟩

end Sys2Proof.Machine
end

section
/-! O28: control flow of the step stream (02 R32, R37; 16 R364, R376-R379; 18 R396). First masks, the lanes of a set whose threads wait, and
what the close of a chunk leaves; then one lemma for every jump, and the thread control one instruction at a time. -/

namespace Sys2Proof

/-! ### Masks -/

theorem eq_zero_iff_inMask (m : Word) : m = 0 ↔ ∀ j < 32, inMask m j = false := by
  refine ⟨fun h j _ => by simp [h, inMask], fun h => BitVec.eq_of_getLsbD_eq fun j hj => ?_⟩
  rw [BitVec.ofNat_eq_ofNat, BitVec.getLsbD_zero]
  exact h j hj

theorem maskOf_ne_zero_iff (f : Nat → Bool) : maskOf f ≠ 0 ↔ ∃ j < 32, f j = true := by
  rw [Ne, eq_zero_iff_inMask]
  simp +contextual

theorem inMask_and_not (m n : Word) (j : Nat) : inMask (m &&& ~~~ n) j = (inMask m j && !inMask n j) := by
  by_cases h : j < 32
  · simp [inMask, h]
  · simp [inMask, BitVec.getLsbD_of_ge m j (Nat.le_of_not_lt h)]

namespace Machine

/-! ### Threads that wait -/

theorem SetState.lane_holding (S : SetState) (m : Word) (h : Hold) (j : Nat) :
    (S.holding m h).lane j = if inMask m j = true ∧ j < S.threads.length then { S.lane j with hold := h } else S.lane j :=
  S.lane_onLanes m _ j

@[simp] theorem SetState.length_holding (S : SetState) (m : Word) (h : Hold) : (S.holding m h).threads.length = S.threads.length :=
  List.length_mapIdx

/-- Waiting is no change of a thread's predicates, generator and clock. -/
theorem SetState.own_holding (S : SetState) (m : Word) (h : Hold) (j : Nat) :
    (((S.holding m h).lane j).p, ((S.holding m h).lane j).gen, ((S.holding m h).lane j).clk) = ((S.lane j).p, (S.lane j).gen, (S.lane j).clk) := by
  rw [SetState.lane_holding]
  split <;> rfl

/-! ### Lanes and chunks after an instruction -/

/-- What is said of the lanes after an instruction is said of the lanes alone. -/
theorem Lanes.congr {c : Ctx} {i : Instr} {S R : SetState} {res : Nat → List (Nat × Word)} {own : Nat → Word × Word × DWord}
    (h : Lanes c i S res own) (e : ∀ j, R.lane j = S.lane j) : Lanes c i R res own := by
  obtain ⟨idle, next, results, keeps, owns⟩ := h
  constructor <;> simpa only [e]

theorem KeepsChunk.congr {c : Ctx} {i : Instr} {S R : SetState} (h : KeepsChunk c i S) (ho : opensNext i = false)
    (hk : R.chunk = S.chunk) (hc : R.closing = S.closing) : KeepsChunk c i R := by
  unfold KeepsChunk at h ⊢
  split at h
  · simpa only [hk, hc] using h
  · refine ⟨hc.trans h.1, fun hx => hk.trans (h.2.1 hx), fun hx => ?_⟩
    rw [ho] at hx
    cases hx

theorem SetState.length_retire (c : Ctx) (i : Instr) (regs f next) : (SetState.retire c i regs f next).threads.length = c.S.threads.length := by
  rw [SetState.retire_eq]
  exact List.length_mapIdx

/-- Where the threads go on is all that the addresses of an instruction decide. -/
theorem SetState.lane_retire_onLanes_pc (c : Ctx) (i : Instr) (regs f next next') (j : Nat) :
    ((SetState.retire c i regs f next).onLanes c.mask (fun j th => { th with pc := next' j })).lane j =
      (SetState.retire c i regs f next').lane j := by
  rw [SetState.lane_onLanes, SetState.length_retire, SetState.retire_lane, SetState.retire_lane]
  split <;> rfl

/-! ### Closing a chunk (10 R214, R217) -/

theorem SetState.lane_close (S : SetState) (j : Nat) : S.close.lane j = S.lane j := by
  rw [SetState.close_eq]
  rfl

theorem SetState.live_close (S : SetState) : S.close.live = S.live := by
  rw [SetState.close_eq]
  rfl

theorem SetState.handler_close (S : SetState) : S.close.handler = S.handler := by
  rw [SetState.close_eq]

theorem SetState.close_of_none {S : SetState} (h : S.chunk = none) : S.close.chunk = none ∧ S.close.closing = S.closing := by
  simp [SetState.close, SetState.shift, h]

theorem SetState.close_of_running {S : SetState} {k : Chunk} (h : S.chunk = some k) (hp : k.phase = .running) (hc : S.closing = none) :
    S.close.chunk = none ∧ S.close.closing = some { k with phase := .closed } := by
  simp [SetState.close, SetState.shift, h, hp, hc]

theorem SetState.chunk_shift (S : SetState) : S.shift.chunk = none ∨ S.shift.chunk = S.chunk := by
  unfold SetState.shift
  split
  · split
    · exact .inl rfl
    · exact .inr rfl
  · exact .inr rfl

/-- No chunk runs on behind its close. -/
theorem SetState.phase_of_close {S : SetState} {k : Chunk} (h : S.close.chunk = some k) : k.phase ≠ .running := by
  unfold SetState.close at h
  rcases SetState.chunk_shift { S with chunk := S.chunk.map fun c => if c.phase = .running then { c with phase := .closed } else c }
    with hn | hs
  · rw [hn] at h
    cases h
  · obtain ⟨q, -, rfl⟩ := Option.map_eq_some_iff.mp (hs.symm.trans h)
    split
    · nofun
    · assumption

/-- A chunk that an instruction has closed, or has left open, closes once. -/
theorem SetState.close_retire_of_running {c : Ctx} {i : Instr} {k : Chunk} (h : c.S.chunk = some k) (hp : k.phase = .running)
    (hc : c.S.closing = none) (regs f next) {R : SetState} (hRk : R.chunk = (SetState.retire c i regs f next).chunk)
    (hRc : R.closing = (SetState.retire c i regs f next).closing) :
    R.close.chunk = none ∧ R.close.closing = some { k with phase := .closed } := by
  have hk : (SetState.advance c i regs f next).chunk = some k := by rw [SetState.advance_eq]; exact h
  have hn : (SetState.advance c i regs f next).closing = none := by rw [SetState.advance_eq]; exact hc
  rw [SetState.retire_def, hk] at hRk hRc
  dsimp only at hRk hRc
  split at hRk
  · obtain ⟨hd, he⟩ := SetState.close_of_running hk hp hn
    rw [if_pos ‹_›, he] at hRc
    rw [hd] at hRk
    exact hRc ▸ SetState.close_of_none hRk
  · rw [if_neg ‹_›] at hRc
    exact SetState.close_of_running (hRk.trans hk) hp (hRc.trans hn)

/-! ### What a step instruction that issues does -/

section Step
variable {s : State} {i : Instr} {c : Ctx}

theorem stepOp_of_issues (h : Issues s i c) (f : Ctx → Out) : stepOp s i f = f c := by
  simp only [stepOp, show stepGo s i = some (.go c) from h]

theorem setAt?_of_issues (h : Issues s i c) : (s.setAt? c.t c.k).isSome = true := by
  obtain ⟨F, S, hI⟩ := issued h
  simp [hI.found]

theorem mask_ne_zero_of_issues (h : Issues s i c) : c.mask ≠ 0 := by
  obtain ⟨F, S, hI⟩ := issued h
  exact hI.nonempty

theorem inMask_act_of_issues (h : Issues s i c) {j : Nat} (hj : inMask c.act j = true) : inMask c.mask j = true := by
  obtain ⟨F, S, hI⟩ := issued h
  exact hI.act_sub hj

theorem lt_of_issues (h : Issues s i c) {j : Nat} (hj : inMask c.mask j = true) : j < c.S.threads.length := by
  obtain ⟨F, S, hI⟩ := issued h
  exact hI.lt hj

theorem retire_lane_of_issues (h : Issues s i c) (regs f next) {j : Nat} (hj : inMask c.mask j = true) :
    (SetState.retire c i regs f next).lane j = stepThread c i.ahead regs f next j (c.S.lane j) := by
  rw [SetState.retire_lane, if_pos ⟨hj, lt_of_issues h hj⟩]

theorem retire_lane_idle (regs f next) {j : Nat} (hj : inMask c.mask j = false) : (SetState.retire c i regs f next).lane j = c.S.lane j := by
  rw [SetState.retire_lane, if_neg (by simp [hj])]

theorem retire_lanes_of_issues (h : Issues s i c) {regs : Nat → List (Nat × Word)} (hn : ∀ j, ((regs j).map (·.1)).Nodup) :
    Lanes c i (SetState.retire c i regs (fun _ th => th) (fun _ => c.next)) regs c.old :=
  SetState.retire_lanes (fun _ => lt_of_issues h) (fun _ => inMask_act_of_issues h) regs _ c.old hn fun _ _ => rfl

/-- An instruction that gives no register completes, with no thread active or with nothing done to the active ones. -/
theorem gives_nothing_of_retire (h : Issues s i c) {f : Nat → Thread → Thread} (hf : ∀ j, inMask c.act j = true → f j (c.S.lane j) = c.S.lane j)
    (he : exec i s = .next (s.done c (SetState.retire c i (fun _ => []) f (fun _ => c.next)))) : Gives s i c (fun _ => []) :=
  completes_of_retire h _ f c.old (fun _ => List.nodup_nil) (fun j hj => hf j hj) he

/-! ### Jumps -/

/-- An instruction that retires, each thread to its address, jumps. -/
theorem jumps_of_retire (h : Issues s i c) {regs : Nat → List (Nat × Word)} {next dest : Nat → Nat}
    (hn : ∀ j, ((regs j).map (·.1)).Nodup) (hd : ∀ j, inMask c.mask j = true → next j = dest j)
    (he : exec i s = .next (s.done c (SetState.retire c i regs (fun _ th => th) next))) : Jumps s i c regs dest := by
  refine ⟨_, _, he, State.done_onlySet (setAt?_of_issues h) _, ?_, fun j hj => ?_, SetState.retire_chunk c i _ _ _,
    SetState.retire_rest c i _ _ _⟩
  · exact (retire_lanes_of_issues h hn).congr (SetState.lane_retire_onLanes_pc c i regs _ next _)
  · rw [retire_lane_of_issues h _ _ _ hj, ← hd j hj]
    rfl

theorem branch_of_misses {o : BitVec 19} {taken : Word} (i : Instr) (regs : Nat → List (Nat × Word)) (ht : taken ≠ 0)
    (hl : ¬ c.lands s (sbTarget c.issue o)) :
    s.branch c i o taken regs = .next (s.raise c taken 0x0A 1 (wrap 64 (sbTarget c.issue o)) 0) := by
  simp only [State.branch, bne_iff_ne.mpr ht, show s.codeHas c.issue.agent (sbTarget c.issue o) = false from Bool.eq_false_iff.mpr hl,
    Bool.not_false, Bool.and_true, if_true]

theorem branch_of_lands {o : BitVec 19} {taken : Word} (i : Instr) (regs : Nat → List (Nat × Word))
    (hl : taken ≠ 0 → c.lands s (sbTarget c.issue o)) :
    s.branch c i o taken regs = .next (s.done c (SetState.retire c i regs (fun _ th => th)
      (fun j => if inMask taken j then (sbTarget c.issue o).toNat else c.next))) := by
  by_cases ht : taken = 0
  · simp [State.branch, ht]
  · simp [State.branch, show s.codeHas c.issue.agent (sbTarget c.issue o) = true from hl ht]

/-- The failure of a computed target in one lane, first its alignment (16 R364). -/
def targetBad (s : State) (c : Ctx) (a : BitVec 7) (j : Nat) : Option LaneBad :=
  if (c.rd j a).toNat % 4 ≠ 0 then some { lane := j, cause := 0x01, reason := 0x0C, addr := (c.rd j a).toNat, info := 0 }
  else if s.codeHas c.issue.agent (c.rd j a).toNat = false then
    some { lane := j, cause := 0x0A, reason := 1, addr := (c.rd j a).toNat, info := 0 }
  else none

theorem computed_of_issues (h : Issues s i c) (a : BitVec 7) :
    computed i a s = s.orRaise c (c.lanes.filterMap (targetBad s c a)) (fun _ =>
      .next (s.done c (SetState.retire c i (fun _ => []) (fun _ th => th)
        (fun j => if inMask c.act j then (c.rd j a).toNat else c.next)))) := by
  refine (stepOp_of_issues h _).trans ?_
  have hbad : ∀ l, badLanes c.lanes l = c.lanes.filterMap l := fun _ => rfl
  simp only [hbad, bne_iff_ne, Bool.not_eq_true']
  rfl

/-- A computed branch reports its failing lanes, and jumps where there are none. -/
theorem computed_jumps {a : BitVec 7} (he : exec i s = computed i a s) :
    (∀ k e, Issues s i c → report (c.lanes.filterMap (targetBad s c a)) = some (k, e) →
      exec i s = .next (s.raise c k e.cause e.reason e.addr e.info)) ∧
    (Issues s i c → (∀ j, inMask c.act j = true → (c.rd j a).toNat % 4 = 0 ∧ c.lands s (c.rd j a).toNat) →
      Jumps s i c (fun _ => []) (fun j => if inMask c.act j then (c.rd j a).toNat else c.next)) := by
  refine ⟨fun k e h hr => ?_, fun h hl => ?_⟩
  · rw [he, computed_of_issues h, State.orRaise, hr]
  · have none : c.lanes.filterMap (targetBad s c a) = [] := by
      refine List.filterMap_eq_nil_iff.mpr fun j hj => ?_
      obtain ⟨h4, hland⟩ := hl j (mem_lanesOf.mp hj)
      simp [targetBad, h4, show s.codeHas c.issue.agent (c.rd j a).toNat = true from hland]
    refine jumps_of_retire h (fun _ => List.nodup_nil) (fun _ _ => rfl) ?_
    rw [he, computed_of_issues h, none]
    rfl

/-! ### Exit (16 R378, 18 R396) -/

/-- A thread as exit leaves it. -/
def Thread.ended (th : Thread) : Thread := { th with live := false, win := [] }

/-- An interrupted context as exit leaves it (22 R449). -/
def Saved.ended (m : Word) (h : Saved) : Saved :=
  { h with threads := h.threads.mapIdx (fun j th => if inMask m j then th.ended else th) }

/-- The threads of a figure that exits. -/
def SetState.afterExit (c : Ctx) (g : BitVec 3) : SetState :=
  SetState.retire c (.exit g) (fun _ => []) (fun _ => Thread.ended) (fun _ => c.next)

/-- The set behind an exit: its threads and its handler's interrupted ones have ended, and its chunk has closed. -/
def SetState.exited (c : Ctx) (g : BitVec 3) : SetState :=
  { SetState.afterExit c g with
    handler := if (SetState.afterExit c g).live = 0 then none else (SetState.afterExit c g).handler.map (Saved.ended c.act) }.close

theorem exec_exit_of_idle {g : BitVec 3} (h : Issues s (.exit g) c) (ha : c.act = 0) :
    exec (.exit g) s = .next (s.done c (SetState.afterExit c g)) := by
  refine (stepOp_of_issues h _).trans ?_
  simp only [ha, if_true]
  rfl

theorem exec_exit_of_stores {g : BitVec 3} (h : Issues s (.exit g) c) (ha : c.act ≠ 0) (hs : s.nbStores c.t c.k c.T = true) :
    exec (.exit g) s = .next (s.hold c c.mask (.until [.nbStores])) := by
  refine (stepOp_of_issues h _).trans ?_
  simp only [ha, hs, if_false, if_true]

theorem exec_exit_of_ends {g : BitVec 3} (h : Issues s (.exit g) c) (ha : c.act ≠ 0) (hs : s.nbStores c.t c.k c.T = false) :
    exec (.exit g) s = .next (s.done c (SetState.exited c g)) := by
  refine (stepOp_of_issues h _).trans ?_
  simp only [ha, hs, if_false, Bool.false_eq_true]
  rfl

theorem lane_exited (c : Ctx) (g : BitVec 3) (j : Nat) : (SetState.exited c g).lane j = (SetState.afterExit c g).lane j :=
  SetState.lane_close _ j

theorem live_exited (c : Ctx) (g : BitVec 3) : (SetState.exited c g).live = (SetState.afterExit c g).live :=
  SetState.live_close _

theorem handler_exited (c : Ctx) (g : BitVec 3) : (SetState.exited c g).handler =
    if (SetState.exited c g).live = 0 then none else c.S.handler.map (Saved.ended c.act) := by
  have hh : (SetState.afterExit c g).handler = c.S.handler := by rw [SetState.afterExit, SetState.retire_eq]
  rw [live_exited, ← hh]
  exact SetState.handler_close _

theorem lane_exited_of_issues {g : BitVec 3} (h : Issues s (.exit g) c) {j : Nat} (hj : inMask c.mask j = true) :
    ((SetState.exited c g).lane j).live = (if inMask c.act j then false else (c.S.lane j).live) ∧ ((SetState.exited c g).lane j).pc = c.next := by
  rw [lane_exited, SetState.afterExit, retire_lane_of_issues h _ _ _ hj, stepThread_eq]
  refine ⟨?_, rfl⟩
  split
  · rw [Thread.write_eq]
    rfl
  · rfl

theorem lane_exited_idle {g : BitVec 3} {j : Nat} (hj : inMask c.mask j = false) : (SetState.exited c g).lane j = c.S.lane j := by
  rw [lane_exited, SetState.afterExit, retire_lane_idle _ _ _ hj]

/-! ### Join (16 R379) -/

theorem all_lanesOf_live_iff (S : SetState) (pc : Nat) :
    ((lanesOf S.live).all fun j => (S.lane j).pc == pc) = true ↔ ∀ j < 32, (S.lane j).live = true → (S.lane j).pc = pc := by
  simp only [List.all_eq_true, beq_iff_eq, mem_lanesOf, SetState.live, inMask_maskOf, Bool.and_eq_true, decide_eq_true_eq]
  exact ⟨fun h j hj hl => h j ⟨hj, hl⟩, fun h j hj => h j hj.1 hj.2⟩

/-- The threads that a join holds. -/
def Ctx.joinHolds (c : Ctx) : Word :=
  maskOf (fun j => (c.lanes.filter (fun j => !inMask (BitVec.ofNat 32 c.S.joined) j)).contains j)

theorem exec_join_of_nop {g : BitVec 3} (h : Issues s (.join g) c) (ha : c.T.place.isUnit = true ∨ c.act = 0) :
    exec (.join g) s = s.retire c (.join g) (fun _ => []) := by
  refine (stepOp_of_issues h _).trans ?_
  have nop : (c.T.place.isUnit || decide (c.act = 0)) = true := by simpa using ha
  simp only [nop, if_true]

theorem exec_join_of_all {g : BitVec 3} (h : Issues s (.join g) c) (hu : c.T.place.isUnit = false) (ha : c.act ≠ 0)
    (hall : ∀ j < 32, (c.S.lane j).live = true → (c.S.lane j).pc = c.issue.group) :
    exec (.join g) s = s.retire { c with S := { c.S.holding (c.S.live &&& ~~~ c.mask) .ready with
      joined := (BitVec.ofNat 32 c.S.joined &&& ~~~ c.mask ||| c.S.live &&& ~~~ c.mask).toNat } } (.join g) (fun _ => []) := by
  refine (stepOp_of_issues h _).trans ?_
  simp only [hu, ha, (all_lanesOf_live_iff c.S c.issue.group).mpr hall, decide_false, Bool.or_false, Bool.false_eq_true, if_false, if_true]

theorem exec_join_of_some {g : BitVec 3} (h : Issues s (.join g) c) (hu : c.T.place.isUnit = false) (ha : c.act ≠ 0)
    (hall : ¬ ∀ j < 32, (c.S.lane j).live = true → (c.S.lane j).pc = c.issue.group) :
    exec (.join g) s = if c.joinHolds = c.mask then .next (s.hold c c.mask .join)
      else s.retire { c with
        S := { c.S.holding c.joinHolds .join with joined := (BitVec.ofNat 32 c.S.joined &&& ~~~ c.mask).toNat }
        mask := c.mask &&& ~~~ c.joinHolds, act := c.act &&& ~~~ c.joinHolds } (.join g) (fun _ => []) := by
  refine (stepOp_of_issues h _).trans ?_
  have hm : maskOf (fun j => (c.lanes.filter (fun j => !inMask (BitVec.ofNat 32 c.S.joined) j)).contains j) = c.joinHolds := rfl
  simp only [hu, ha, Bool.eq_false_iff.mpr (mt (all_lanesOf_live_iff c.S c.issue.group).mp hall), decide_false, Bool.or_false,
    Bool.false_eq_true, if_false, beq_iff_eq, hm]
  split
  · rw [‹c.joinHolds = c.mask›]
  · rfl

/-- An instruction that gives no register completes for the threads that go on, in a set where it has changed none of their values. -/
theorem completesFrom_nothing_of_retire (h : Issues s i c) {d : Ctx} (ht : d.t = c.t) (hk : d.k = c.k)
    (hl : d.S.threads.length = c.S.threads.length) (hm : ∀ j, inMask d.mask j = true → inMask c.mask j = true)
    (ha : ∀ j, inMask d.act j = true → inMask d.mask j = true) (ho : ∀ j, d.old j = c.old j)
    (he : exec i s = s.retire d i (fun _ => [])) : CompletesFrom s s i d (fun _ => []) c.old := by
  refine completesFrom_of_retire (ht ▸ hk ▸ setAt?_of_issues h) (fun j hj => hl ▸ lt_of_issues h (hm j hj)) ha _ (fun _ th => th) c.old
    (fun _ => List.nodup_nil) (fun j _ => ?_) he
  rw [← ho j]
  rfl

/-- Some of a figure's threads go on, beside threads that wait or wait no more. -/
theorem completesFrom_of_holding (h : Issues s i c) {m mask act : Word} {w : Hold} {joined : Nat}
    (hm : ∀ j, inMask mask j = true → inMask c.mask j = true) (ha : ∀ j, inMask act j = true → inMask mask j = true)
    (he : exec i s = s.retire { c with S := { c.S.holding m w with joined := joined }, mask := mask, act := act } i (fun _ => [])) :
    CompletesFrom s s i { c with S := { c.S.holding m w with joined := joined }, mask := mask, act := act } (fun _ => []) c.old :=
  completesFrom_nothing_of_retire h rfl rfl (SetState.length_holding c.S m w) hm ha (c.S.own_holding m w) he

/-! ### Yield -/

/-- The set behind a yield. -/
def SetState.yielded (c : Ctx) (g : BitVec 3) : SetState :=
  (SetState.retire c (.yield g) (fun _ => []) (fun _ th => th) (fun _ => c.next)).holding c.act .yield

theorem exec_yield {g : BitVec 3} (h : Issues s (.yield g) c) : exec (.yield g) s = .next (s.done c (SetState.yielded c g)) :=
  stepOp_of_issues h _

/-- But for their period, the threads of a yield have retired. -/
theorem lane_yielded_holding_ready {g : BitVec 3} (h : Issues s (.yield g) c) (j : Nat) :
    ((SetState.yielded c g).holding c.act .ready).lane j =
      (SetState.retire c (.yield g) (fun _ => []) (fun _ th => th) (fun _ => c.next)).lane j := by
  simp only [SetState.yielded, SetState.lane_holding, SetState.length_holding]
  split
  · rw [retire_lane_of_issues h _ _ _ (inMask_act_of_issues h (And.left ‹_›))]
    rfl
  · rfl

theorem hold_lane_yielded {g : BitVec 3} (h : Issues s (.yield g) c) {j : Nat} (hj : inMask c.act j = true) :
    ((SetState.yielded c g).lane j).hold = .yield := by
  rw [SetState.yielded, SetState.lane_holding, SetState.length_retire, if_pos ⟨hj, lt_of_issues h (inMask_act_of_issues h hj)⟩]

end Step

/-! ### The claims -/

theorem branches : Claims.Branches := by
  unfold Claims.Branches
  intro s c p q o a g
  have hbra (j : Nat) (hj : inMask c.mask j = true) (x y : Nat) :
      (if inMask (maskOf fun j => inMask c.mask j && (c.S.lane j).pred p.toNat == (q == 1)) j then x else y) =
        if inMask c.mask j && (c.S.lane j).pred p.toNat == (q == 1) then x else y := by
    simp [inMask_lt hj]
  refine ⟨fun h hl => ?braLands, fun h ht hl => ?braMisses, fun h hl => ?callLands, fun h hl => ?callMisses, computed_jumps rfl, computed_jumps rfl⟩
  case braLands =>
    refine jumps_of_retire h (fun _ => List.nodup_nil) (fun j hj => hbra j hj _ _) ?_
    exact (stepOp_of_issues h _).trans (branch_of_lands _ _ (fun ht => hl ((maskOf_ne_zero_iff _).mp ht)))
  case braMisses => exact (stepOp_of_issues h _).trans (branch_of_misses _ _ ((maskOf_ne_zero_iff _).mpr ht) hl)
  case callLands =>
    refine jumps_of_retire h (next := fun j => if inMask c.mask j then (sbTarget c.issue o).toNat else c.next)
      (fun _ => List.nodup_singleton _) (fun j hj => if_pos hj) ?_
    exact (stepOp_of_issues h _).trans (branch_of_lands _ _ (fun _ => hl))
  case callMisses => exact (stepOp_of_issues h _).trans (branch_of_misses _ _ (mask_ne_zero_of_issues h) hl)

theorem threadControl : Claims.ThreadControl := by
  unfold Claims.ThreadControl
  intro s c g
  refine ⟨fun h => ?nop, fun h => ⟨fun ha => ?exitIdle, exec_exit_of_stores h, fun ha hs => ?exitEnds⟩,
    fun h => ⟨fun hn => ?joinNop, fun hu ha hall => ?joinAll, fun hu ha hall hb => ?joinNone, fun hu ha hall hb => ?joinSome⟩,
    fun h => ?yield⟩
  case nop => exact gives_of_vecOp h (fun _ _ => []) (fun _ => List.nodup_nil) rfl
  case exitIdle => exact gives_nothing_of_retire h (fun j hj => by simp [ha, inMask] at hj) (exec_exit_of_idle h ha)
  case exitEnds =>
    refine ⟨_, _, exec_exit_of_ends h ha hs, State.done_onlySet (setAt?_of_issues h) _, fun j hj => ?_, fun j hj => ?_,
      fun j hj => lane_exited_idle hj, fun j hj => (lane_exited_of_issues h hj).2, fun q hq => SetState.phase_of_close hq,
      fun q hq hp hc => SetState.close_retire_of_running hq hp hc _ _ _ rfl rfl, handler_exited c g⟩
    · rw [(lane_exited_of_issues h (inMask_act_of_issues h hj)).1, if_pos hj]
    · cases hm : inMask c.mask j with
      | true => rw [(lane_exited_of_issues h hm).1, if_neg (by simp [hj])]
      | false => rw [lane_exited_idle hm]
  case joinNop => exact gives_nothing_of_retire h (fun _ _ => rfl) (exec_join_of_nop h hn)
  case joinAll =>
    exact completesFrom_of_holding h (fun _ hj => hj) (fun _ => inMask_act_of_issues h) (exec_join_of_all h hu ha hall)
  case joinNone => exact (exec_join_of_some h hu ha hall).trans (if_pos hb)
  case joinSome =>
    refine completesFrom_of_holding h (fun j hj => ?_) (fun j hj => ?_) ((exec_join_of_some h hu ha hall).trans (if_neg hb))
    · rw [inMask_and_not, Bool.and_eq_true] at hj
      exact hj.1
    · rw [inMask_and_not, Bool.and_eq_true] at hj ⊢
      exact ⟨inMask_act_of_issues h hj.1, hj.2⟩
  case yield =>
    refine ⟨_, _, exec_yield h, State.done_onlySet (setAt?_of_issues h) _, ?_, fun j hj => hold_lane_yielded h hj,
      (SetState.retire_chunk c _ _ _ _).congr rfl rfl rfl⟩
    exact (retire_lanes_of_issues h (regs := fun _ => []) (fun _ => List.nodup_nil)).congr (lane_yielded_holding_ready h)

theorem hintsGather : Claims.HintsGather := by
  unfold Claims.HintsGather
  intro s u k p h
  show execHint k p s = _
  simp only [execHint, h]

/-- Settles O28: each instruction by its lemmas. -/
theorem controlFlow : Obligations.ControlFlow := ⟨branches, threadControl, hintsGather⟩

end Machine
end Sys2Proof
end

section
/-! O26: near-bank accesses and reduction commands (02 R35; 05 R101, R104-R109, R112, R116, R119). First what the read of a bank leaves
alone, and what a queue with room takes; then an access whose lanes pass, and the parameter blocks of a bsum. -/

namespace Sys2Proof.Machine

/-! ### What the reads of a bank leave alone -/

/-- Between two states neither the troupes nor the near-bank blocks of the slices change: what a bank does to its rows, its granules and
its logs. -/
structure KeepsNearBank (s t : State) : Prop where
  troupes : t.troupes = s.troupes
  nb : ∀ k, (t.slice k).nb = (s.slice k).nb

namespace KeepsNearBank

theorem refl (s : State) : KeepsNearBank s s := ⟨rfl, fun _ => rfl⟩

theorem trans {s t u : State} (h : KeepsNearBank s t) (h' : KeepsNearBank t u) : KeepsNearBank s u :=
  ⟨h'.troupes.trans h.troupes, fun k => (h'.nb k).trans (h.nb k)⟩

theorem ite {s t u : State} {p : Prop} [Decidable p] (ht : KeepsNearBank s t) (hu : KeepsNearBank s u) :
    KeepsNearBank s (if p then t else u) := by
  split
  · exact ht
  · exact hu

theorem foldl {α : Type} {f : State → α → State} (h : ∀ s x, KeepsNearBank s (f s x)) (l : List α) (s : State) :
    KeepsNearBank s (l.foldl f s) := by
  induction l generalizing s with
  | nil => exact refl s
  | cons x l ih => exact (h s x).trans (ih (f s x))

/-- A granule's sideband is no part of either. -/
theorem gran (s : State) (g : Tab Gran) : KeepsNearBank s { s with gran := g } := ⟨rfl, fun _ => rfl⟩

theorem onSlice (s : State) (k : Nat) {f : Slice → Slice} (h : ∀ S, (f S).nb = S.nb) : KeepsNearBank s (s.onSlice k f) := by
  refine ⟨rfl, fun n => ?_⟩
  rw [State.slice_onSlice]
  split
  · subst n
    exact h _
  · rfl

theorem onScrub (s : State) (k : Nat) (f : Scrub → Scrub) : KeepsNearBank s (s.onScrub k f) := onSlice s k fun _ => rfl

theorem logErr (s : State) (a kind syms source : Nat) : KeepsNearBank s (s.logErr a kind syms source) := by
  unfold State.logErr
  exact onSlice s _ fun _ => rfl

theorem logRow (s : State) (k r kind source : Nat) : KeepsNearBank s (s.logRow k r kind source) := logErr s _ _ _ _

theorem freshen (s : State) (a : Nat) : KeepsNearBank s (s.freshen a) := by
  unfold State.freshen State.onFrame
  exact (gran s _).trans (onSlice _ _ fun _ => rfl)

theorem poison (s : State) (a : Nat) : KeepsNearBank s (s.poison a) := (freshen s a).trans (gran _ _)

theorem warmRow (s : State) (k r n source : Nat) : KeepsNearBank s (s.warmRow k r n source) :=
  ite (onScrub s k _) ((onScrub s k _).trans (logRow _ k r 5 source))

theorem retireRows (s : State) (k : Nat) : KeepsNearBank s (s.retireRows k) := by
  unfold State.retireRows
  have spent := foldl (f := fun (s : State) r =>
      if (s.slice k).scrub.exhausted.contains (r % 128) then s
      else (s.logRow k r 7 0).onScrub k (fun x => { x with exhausted := x.exhausted ++ [r % 128] }))
    (fun s r => ite (refl s) ((logRow s k r 7 0).trans (onScrub _ k _))) (s.slice k).scrub.spent s
  refine ite (refl s) (spent.trans ?_)
  split
  · exact onScrub _ k _
  · exact refl _

theorem activate (s : State) (k r : Nat) (read : Bool) (source : Nat) : KeepsNearBank s (s.activate k r read source) :=
  ite ((onScrub s k _).trans ((logRow _ k r 10 source).trans (onScrub _ k _))) (onScrub s k _)

theorem checkSymbols (s : State) (source a : Nat) : KeepsNearBank s (s.checkSymbols source a) := by
  unfold State.checkSymbols
  have corrected := fun g => (gran s g).trans ((logErr _ a 1 (s.gran.getD (a / 64) Gran0).syms source).trans
    (warmRow _ (sliceAt a) (rowAt ((s.slice (sliceAt a)).frame (frameAt a)).striped a) (s.gran.getD (a / 64) Gran0).syms source))
  exact ite (refl s) (ite (logErr s a 4 0 source) (ite ((poison s a).trans (logErr _ a 2 0 source))
    (ite (refl s) ((corrected _).trans (retireRows _ _)))))

theorem readRow (s : State) (k r source : Nat) : KeepsNearBank s (s.readRow k r source) :=
  (activate s k r true source).trans (foldl (fun s a => checkSymbols s source a) _ _)

theorem bankRead (s : State) (w a source : Nat) : KeepsNearBank s (s.bankRead w a source) :=
  have row := readRow s (sliceAt a) (rowAt ((s.slice (sliceAt a)).frame (frameAt a)).striped a) source
  ite (refl s) (ite (logErr s a 9 0 source) (ite (row.trans (logErr _ a 3 0 source)) row))

end KeepsNearBank

/-! ### Checks that every lane passes -/

theorem orRaise_badLanes_of_none (s : State) (c : Ctx) {lanes : List Nat} {bad : Nat → Option LaneBad} (h : ∀ j ∈ lanes, bad j = none)
    (go : Unit → Out) : s.orRaise c (badLanes lanes bad) go = go () := by
  rw [badLanes, List.filterMap_eq_nil_iff.mpr h]
  rfl

/-! ### Near-bank accesses (05 R101, R104-R109) -/

/-- The registers that loaded bytes fill are those of the load's group (05 Table 5-4). -/
theorem map_fst_loadRegs (m d : Nat) (b : List Byte) :
    (loadRegs m d b).map (·.1) = (List.range (if m = 6 then 4 else if m = 5 then 2 else 1)).map (d + ·) := by
  unfold loadRegs
  split
  case h_5 h5 h6 => simp [show m ≠ 5 from h5, show m ≠ 6 from h6]
  all_goals simp [Function.comp_def]

@[simp] theorem Thread.drops_nil (th : Thread) : th.drops [] = th := by
  simp [Thread.drops]

@[simp] theorem SetState.onLanes_id (S : SetState) (m : Word) : S.onLanes m (fun _ th => th) = S := by
  have same : S.threads.mapIdx (fun _ th => th) = S.threads := List.mapIdx_eq_iff.mpr (by simp)
  simp only [SetState.onLanes, ite_self, same]

section Access
variable (s : State) (c : Ctx) (k : Nat) (a : BitVec 7) (lanes : List Nat)

/-- The device and virtual address of a lane of a near-bank access. -/
def Ctx.nbLane (j : Nat) : Nat × Nat := nbAt (s.windows (s.launchOf c.T) k) k (c.sp j a)

/-- The granules that an access samples. -/
def Ctx.nbGranules : List Nat := addAll [] (lanes.map (fun j => (c.nbLane s k a j).2 / 64))

/-- The request that an access queues. -/
def Ctx.nbRequest (kind md dst : Nat) (data : Nat → List Word) : NbReq :=
  { id := s.nextId, troupe := c.t, set := c.k, pc := c.issue.group, kind := kind, mod := md, dst := dst
    lanes := lanes.map (fun j => (j, (c.nbLane s k a j).1)), data := lanes.map (fun j => (j, data j)) }

/-- The lanes of an access pass the checks of R101. -/
def Ctx.nbFits (u n : Nat) (write : Bool) : Prop :=
  ∀ j ∈ lanes, nbBad (s.windows (s.launchOf c.T) k) u (c.sp j a) n write = none

/-- Registers that an access of a kind writes. -/
def nbDsts (kind md dst : Nat) : List (Nat × Word) :=
  if kind = 1 then [] else if kind = 0 then (loadRegs md dst []).map (fun w => (w.1, 0)) else [(dst, 0)]

/-- The set behind a read whose request `id` will fill registers: windows over them, which no earlier window fills any more (02 R35). -/
def SetState.awaiting (id ahead : Nat) (dsts : List Nat) : SetState :=
  (SetState.retire { c with S := c.S.onLanes (maskOf (fun j => lanes.contains j)) (fun _ th => th.drops dsts) } (.nop 0)
      (fun _ => []) (fun _ th => th) (fun _ => c.next)).onLanes (maskOf (fun j => lanes.contains j))
    (fun _ th => th.later ahead (some id) (dsts.map (fun r => (r, 0))))

end Access

section Accesses
variable {s : State} {i : Instr} {c : Ctx} {k u : Nat} {a d : BitVec 7} {lanes : List Nat}

/-- What an access does whose lanes pass, whatever its kind. -/
theorem nbAccess_of_fits (h : Issues s i c) (hp : c.T.place = .unit k u) {kind n md ahead : Nat} {helpers : Bool}
    {data : Ctx → Nat → List Word} (hl : (if helpers then c.lanes else s.doers c) = lanes) (hf : c.nbFits s k a lanes u n (kind == 1)) :
    nbAccess s i kind n md ahead a d helpers data =
      if lanes.isEmpty then s.retire c (.nop 0) (fun _ => [])
      else
        let m := maskOf (fun j => lanes.contains j)
        let S := SetState.retire
          { c with S := c.S.onLanes m (fun _ th => th.drops ((nbDsts kind md d.toNat).map (·.1))) } (.nop 0) (fun _ => [])
          (fun _ th => th) (fun _ => c.next)
        .next ((s.nbQueued c k u (c.nbGranules s k a lanes) (c.nbRequest s k a lanes kind md d.toNat (data c))).done c
          (if kind = 1 then S else S.onLanes m (fun _ th => th.later ahead (some s.nextId) (nbDsts kind md d.toNat)))) := by
  refine (stepOp_of_issues h _).trans ?_
  simp only [show c.T.place.unit? = some (k, u) by rw [hp]; rfl, hl]
  rw [orRaise_badLanes_of_none s c (fun j hj => by rw [hf j hj]; rfl)]
  rfl

theorem nbAccess_of_idle (h : Issues s i c) (hp : c.T.place = .unit k u) {kind n md ahead : Nat} {helpers : Bool}
    {data : Ctx → Nat → List Word} (hl : (if helpers then c.lanes else s.doers c) = []) :
    nbAccess s i kind n md ahead a d helpers data = s.retire c (.nop 0) (fun _ => []) :=
  nbAccess_of_fits h hp hl (fun _ hj => absurd hj List.not_mem_nil)

/-- A load or an nmac queues its request and awaits its registers. -/
theorem nbAccess_read (h : Issues s i c) (hp : c.T.place = .unit k u) {kind n md ahead : Nat} {data : Ctx → Nat → List Word}
    {dsts : List Nat} (hk : kind ≠ 1) (hd : nbDsts kind md d.toNat = dsts.map (fun r => (r, 0))) (hne : c.lanes ≠ [])
    (hf : c.nbFits s k a c.lanes u n false) :
    nbAccess s i kind n md ahead a d true data =
      .next ((s.nbQueued c k u (c.nbGranules s k a c.lanes) (c.nbRequest s k a c.lanes kind md d.toNat (data c))).done c
        (SetState.awaiting c c.lanes s.nextId ahead dsts)) := by
  rw [nbAccess_of_fits h hp rfl (by rwa [beq_false_of_ne hk])]
  simp [hne, hk, hd, SetState.awaiting, Function.comp_def]

/-- A store queues its request, and its threads go on. -/
theorem nbAccess_store (h : Issues s i c) (hp : c.T.place = .unit k u) {n md ahead : Nat} {data : Ctx → Nat → List Word}
    (hne : s.doers c ≠ []) (hf : c.nbFits s k a (s.doers c) u n true) :
    nbAccess s i 1 n md ahead a d false data =
      .next ((s.nbQueued c k u (c.nbGranules s k a (s.doers c)) (c.nbRequest s k a (s.doers c) 1 md d.toNat (data c))).done c
        (SetState.retire c (.nop 0) (fun _ => []) (fun _ th => th) (fun _ => c.next))) := by
  rw [nbAccess_of_fits h hp rfl hf]
  simp [hne, nbDsts]

end Accesses

theorem nearBankAccesses : Claims.NearBankAccesses := by
  unfold Claims.NearBankAccesses
  intro s c d a h g m k u
  refine ⟨fun hi hp hf => ⟨nbAccess_of_idle (helpers := true) hi hp, fun hne => ?nld⟩,
    fun hi hp hf => ⟨nbAccess_of_idle (helpers := true) hi hp, fun hne => ?nmac⟩,
    fun hi hp hf => ⟨nbAccess_of_idle (helpers := false) hi hp, fun hne => nbAccess_store hi hp hne hf⟩⟩
  case nld =>
    refine nbAccess_read hi hp (by decide) ?_ hne hf
    rw [← map_fst_loadRegs m.toNat d.toNat [], List.map_map]
    rfl
  case nmac => exact nbAccess_read hi hp (by decide) rfl hne hf

/-! ### Reduction commands (05 R112, R116, R119) -/

/-- A queue with room takes all the commands that it is offered. -/
theorem offer_of_room {s : State} {k : Nat} {cs : List RedCmd} (h : (s.slice k).nb.queue.length + cs.length ≤ 64) :
    s.offer k cs = (s.onSlice k (fun S => { S with nb := { S.nb with queue := S.nb.queue ++ cs } }), cs.length) := by
  have hn : min cs.length (64 - (s.slice k).nb.queue.length) = cs.length := by omega
  simp only [State.offer, hn, List.take_length]

section Commands
variable {s : State} {c : Ctx} {a : BitVec 7} {g : BitVec 3}

/-- A block by where its troupe stands (05 R113, R119). -/
theorem Ctx.blockOf_eq (s : State) (c : Ctx) (a : BitVec 7) (j : Nat) :
    c.blockOf s a j =
      if c.T.place.isUnit then s.mem.readBytes (nbAt (s.windows (s.launchOf c.T) c.T.place.slice) c.T.place.slice (c.sp j a)).1 64
      else (List.range 64).map (fun b => c.T.byte (c.sp j a + b)) := by
  unfold Ctx.blockOf
  cases c.T.place <;> rfl

/-- The lanes whose commands no earlier issue has put into the queue. -/
def Ctx.commandLanes (s : State) (c : Ctx) : List Nat := (s.doers c).filter (fun j => !c.S.accepted.testBit j)

theorem Ctx.commandLanes_eq (s : State) (c : Ctx) : c.commandLanes s = (s.doers c).filter (fun j => !c.S.accepted.testBit j) := rfl

theorem Ctx.commandOf_eq (s : State) (c : Ctx) (a : BitVec 7) (j : Nat) :
    c.commandOf s a j = redCmdOf (c.blockOf s a j) c.T.launch c.t c.k j c.issue.group c.T.place.isUnit := rfl

/-- The state behind the reads of the blocks, which a unit makes at its bank. -/
def Ctx.blocksRead (s : State) (c : Ctx) (a : BitVec 7) : State :=
  if c.T.place.isUnit then
    (c.commandLanes s).foldl (fun t j => t.bankRead (s.launchOf c.T).world
      (nbAt (s.windows (s.launchOf c.T) c.T.place.slice) c.T.place.slice (c.sp j a)).1 0) s
  else s

theorem keepsNearBank_blocksRead (s : State) (c : Ctx) (a : BitVec 7) : KeepsNearBank s (c.blocksRead s a) :=
  .ite (.foldl (fun t _ => .bankRead t _ _ 0) _ s) (.refl s)

/-- The state whose engine has the commands in its queue. -/
def Ctx.commanded (s : State) (c : Ctx) (a : BitVec 7) : State :=
  (c.blocksRead s a).onSlice c.T.place.slice (fun S =>
    { S with nb := { S.nb with queue := S.nb.queue ++ (c.commandLanes s).map (c.commandOf s a) } })

/-- The set in which no lane of the instruction counts any more as one whose command is in the queue. -/
def SetState.renewed (s : State) (c : Ctx) : SetState :=
  { c.S with accepted := (BitVec.ofNat 32 c.S.accepted &&& ~~~ maskOf (fun j => (s.doers c).contains j)).toNat }

/-- The reads take no room from the queue. -/
theorem offer_commands (hroom : (s.slice c.T.place.slice).nb.queue.length + (c.commandLanes s).length ≤ 64) :
    (c.blocksRead s a).offer c.T.place.slice ((c.commandLanes s).map (c.commandOf s a)) = (c.commanded s a, (c.commandLanes s).length) := by
  rw [offer_of_room (by rwa [(keepsNearBank_blocksRead s c a).nb, List.length_map]), List.length_map]
  rfl

/-- With no active lane but helpers a bsum is a nop. -/
theorem exec_bsum_of_idle (h : Issues s (.bsum a g) c) (hd : s.doers c = []) :
    exec (.bsum a g) s = s.retire c (.bsum a g) (fun _ => []) := by
  refine (stepOp_of_issues h _).trans ?_
  simp only [hd, List.isEmpty_nil, if_true]

theorem blockFits_of_unit {k u j : Nat} (hp : c.T.place = .unit k u) (hf : c.blockFits s a j) :
    c.sp j a % 64 = 0 ∧ nbBad (s.windows (s.launchOf c.T) c.T.place.slice) u (c.sp j a) 64 false = none ∧
      s.granFault (s.launchOf c.T).world (nbAt (s.windows (s.launchOf c.T) c.T.place.slice) c.T.place.slice (c.sp j a)).1 = none ∧
      s.redBad (s.launchOf c.T) (s.windows (s.launchOf c.T) c.T.place.slice) (c.blockOf s a j) (c.commandOf s a j) = none := by
  unfold Ctx.blockFits at hf
  rw [hp] at hf ⊢
  obtain ⟨⟨h64, hb, hg⟩, hr⟩ := hf
  exact ⟨h64, hb, hg, hr⟩

theorem blockFits_of_core {n j : Nat} (hp : c.T.place = .core n) (hf : c.blockFits s a j) :
    c.T.blockBad (c.sp j a) = false ∧ s.lineFull c.t (c.sp j a) = true ∧
      s.redBad (s.launchOf c.T) (s.windows (s.launchOf c.T) c.T.place.slice) (c.blockOf s a j) (c.commandOf s a j) = none := by
  unfold Ctx.blockFits at hf
  rw [hp] at hf ⊢
  obtain ⟨⟨hb, hl⟩, hr⟩ := hf
  exact ⟨hb, hl, hr⟩

section Passing
variable (h : Issues s (.bsum a g) c) (hne : s.doers c ≠ []) (hf : ∀ j ∈ c.commandLanes s, c.blockFits s a j)
  (hroom : (s.slice c.T.place.slice).nb.queue.length + (c.commandLanes s).length ≤ 64)
include h hne hf hroom

/-- On a unit the blocks that pass are read at its bank (05 R119). -/
theorem exec_bsum_of_unit {k u : Nat} (hp : c.T.place = .unit k u) (hs : s.nbStores c.t c.k c.T = false) :
    exec (.bsum a g) s = (c.commanded s a).retire { c with S := SetState.renewed s c } (.bsum a g) (fun _ => []) := by
  refine (stepOp_of_issues h _).trans ?_
  have hu : c.T.place.isUnit = true := by rw [hp]; rfl
  have hn : c.T.place.unit? = some (k, u) := by rw [hp]; rfl
  simp only [← Ctx.blockOf_eq, ← Ctx.commandOf_eq, ← Ctx.commandLanes_eq]
  have reads : (c.commandLanes s).filter (fun j => c.sp j a % 64 == 0 &&
      (nbBad (s.windows (s.launchOf c.T) c.T.place.slice) u (c.sp j a) 64 false).isNone) = c.commandLanes s := by
    refine List.filter_eq_self.mpr fun j hj => ?_
    obtain ⟨h64, hb, -, -⟩ := blockFits_of_unit hp (hf j hj)
    simp [h64, hb]
  simp only [hu, hn, hs, hne, reads, List.isEmpty_iff, if_true, if_false, List.isEmpty_nil, Bool.not_true, Bool.false_eq_true,
    Bool.and_false]
  rw [orRaise_badLanes_of_none _ c fun j hj => ?bad]
  case bad =>
    obtain ⟨h64, hb, hg, hr⟩ := blockFits_of_unit hp (hf j hj)
    simp only [h64, hb, hg, hr, bne_self_eq_false, Bool.false_eq_true, if_false]
  have room := offer_commands (a := a) hroom
  rw [Ctx.blocksRead, if_pos hu] at room
  simp only [room, if_true]
  rfl

/-- On a core the blocks lie in full lines of scratchpad (05 R116). -/
theorem exec_bsum_of_core {n : Nat} (hp : c.T.place = .core n) :
    exec (.bsum a g) s = (c.commanded s a).retire { c with S := SetState.renewed s c } (.bsum a g) (fun _ => []) := by
  refine (stepOp_of_issues h _).trans ?_
  have hu : c.T.place.isUnit = false := by rw [hp]; rfl
  simp only [← Ctx.blockOf_eq, ← Ctx.commandOf_eq, ← Ctx.commandLanes_eq]
  have full : (c.commandLanes s).filter (fun j => !c.T.blockBad (c.sp j a) && !s.lineFull c.t (c.sp j a)) = [] := by
    refine List.filter_eq_nil_iff.mpr fun j hj => ?_
    obtain ⟨-, hl, -⟩ := blockFits_of_core hp (hf j hj)
    simp [hl]
  simp only [hu, hne, full, List.isEmpty_iff, if_false, List.map_nil, List.foldl_nil, List.isEmpty_nil, Bool.not_true, Bool.false_eq_true,
    Bool.false_and]
  rw [orRaise_badLanes_of_none _ c fun j hj => ?bad]
  case bad =>
    obtain ⟨hb, -, hr⟩ := blockFits_of_core hp (hf j hj)
    simp only [hb, hr, Bool.false_eq_true, if_false]
  have room := offer_commands (a := a) hroom
  rw [Ctx.blocksRead, hu, if_neg Bool.false_ne_true] at room
  simp only [room, if_true]
  rfl

end Passing
end Commands

theorem reductionCommandsIssue : Claims.ReductionCommandsIssue := by
  unfold Claims.ReductionCommandsIssue
  intro s c a g lanes rest k L s1 h
  refine ⟨fun hd => gives_nothing_of_retire h (fun _ _ => rfl) (exec_bsum_of_idle h hd), fun hne hs hf hroom => ?_⟩
  have he : exec (.bsum a g) s = (c.commanded s a).retire { c with S := SetState.renewed s c } (.bsum a g) (fun _ => []) := by
    cases hp : c.T.place with
    | unit k u => exact exec_bsum_of_unit h hne hf hroom hp (hs (by rw [hp]; rfl))
    | core n => exact exec_bsum_of_core h hne hf hroom hp
  exact completesFrom_of_issue h (s1 := c.commanded s a) (S1 := SetState.renewed s c) (keepsNearBank_blocksRead s c a).troupes
    rfl _ (fun _ th => th) c.old (fun _ => List.nodup_nil) (fun _ _ => rfl) he

/-- Settles O26: an access whose lanes pass has one effect for each kind, and a bsum has one on a core and on a unit. -/
theorem nearBankInstructions : Obligations.NearBankInstructions := ⟨nearBankAccesses, reductionCommandsIssue⟩

end Sys2Proof.Machine
end

section
/-! O39: the homes and the L1s (06 R122, R129-R134; 07 R146-R149, R163; 11 R240, R249, R254). Each event has its equations, and they give
every clause of `Obligations.HomesAndLines` but the last, for every state: the obligation is the poll of a system-scope wait alone. That
clause reads the lanes that poll from each entry that it changes, and the event from the first entry of the set's number, so that the two
agree where a number stands once in its table, and differ on a table that holds one twice. -/

namespace Sys2Proof

/-! ### Tables whose keys stand once -/

theorem Tab.get?_of_mem {α : Type} {t : Tab α} {n : Nat} {x : α} (ht : (Tab.keys t).Nodup) (h : (n, x) ∈ t) : Tab.get? t n = some x := by
  induction t with
  | nil => cases h
  | cons e t ih =>
    obtain ⟨hk, ht⟩ := List.nodup_cons.mp ht
    rcases List.mem_cons.mp h with rfl | h
    · exact if_pos rfl
    · have hne : e.1 ≠ n := fun he => hk (List.mem_map.mpr ⟨(n, x), h, he.symm⟩)
      exact (if_neg hne).trans (ih ht h)

/-- Where a key stands once, two changes of its entry that agree on it are one. -/
theorem Tab.adjust_congr {α : Type} {t : Tab α} {n : Nat} {f g : α → α} (ht : (Tab.keys t).Nodup)
    (h : ∀ x, Tab.get? t n = some x → f x = g x) : Tab.adjust t n f = Tab.adjust t n g := by
  refine List.map_congr_left fun e he => ?_
  by_cases hn : e.1 = n
  · subst hn
    simp only [if_true, h e.2 (Tab.get?_of_mem ht he)]
  · simp only [hn, if_false]

namespace Machine

/-! ### When the head of a home's atomics is performed -/

theorem Slice.first_of_oldest {S : Slice} {e : Atomic} (ha : ∀ a ∈ S.atomics, e.seq ≤ a.seq) (hr : ∀ r ∈ S.reds, e.seq ≤ r.seq) :
    S.first e = true := by
  have noAtomic : ∀ a ∈ S.atomics, ¬ a.seq < e.seq := fun a h => Nat.not_lt.mpr (ha a h)
  have noRed : ∀ r ∈ S.reds, ¬ r.seq < e.seq := fun r h => Nat.not_lt.mpr (hr r h)
  simp +contextual [Slice.first, noAtomic, noRed]

theorem State.nearReady_iff {s : State} {k : Nat} {e : Atomic} : s.nearReady k e = true ↔
    (s.slice k).first e = true ∧ s.lineBusy e.world (e.dpa / 128) = false ∧ s.anyUnverified e.world [e.dpa / 128] = false ∧
      s.sealState e.world e.tcid e.va ≠ 2 := by
  simp [State.nearReady, and_assoc]

theorem State.amoReady_iff {s : State} {t k : Nat} : s.amoReady t k = true ↔
    (∀ x ∈ s.nearAtomics t k, s.nearReady x.1 x.2 = true) ∧ ∀ r ∈ (s.farAtomics t k).map (·.2), s.farReady r = true := by
  simp only [State.amoReady, Bool.and_eq_true, List.all_eq_true, List.forall_mem_map]

section Cue

variable {s : State} {k u : Nat} {e : Atomic} {rest : List Atomic}
  (he : (s.slice k).atomics = e :: rest) (hu : e.asker = .cue u) (hr : s.nearReady k e = true)
include he hu hr

theorem exec_homeAtomicPerform_of_cue (hp : s.performBad e = none) : exec (.homeAtomicPerform k) s =
    .next ((s.onSlice k (fun S => { S with atomics := rest })).performAtomic e) := by
  change execHomeAtomicPerform k s = _
  simp [execHomeAtomicPerform, he, hu, hr, hp]

theorem exec_homeAtomicPerform_of_cue_fails {b : Bad} (hp : s.performBad e = some b) : exec (.homeAtomicPerform k) s =
    .next (((s.serve e.world e.dpa e.width).onSlice k (fun S => { S with atomics := rest })).giveOld e.asker (badAnswer b.1 b.2)) := by
  change execHomeAtomicPerform k s = _
  simp [execHomeAtomicPerform, he, hu, hr, hp]

end Cue

theorem exec_homeAtomicPerform_of_lane {s : State} {k u i j : Nat} {e : Atomic} {rest : List Atomic}
    (he : (s.slice k).atomics = e :: rest) (hu : e.asker = .lane u i j) :
    exec (.homeAtomicPerform k) s = .next (if s.amoReady u i then s.performAmo u i else s) := by
  change execHomeAtomicPerform k s = _
  simp [execHomeAtomicPerform, he, hu]

/-! ### The lanes of one amo -/

theorem State.mem_amoFails {s : State} {t k : Nat} {f : LaneBad} (h : f ∈ s.amoFails t k) :
    (∃ x ∈ (s.nearAtomics t k).map (·.2), s.performBad x = some (f.cause, f.reason) ∧ f.addr = x.va) ∨
      ∃ r ∈ (s.farAtomics t k).map (·.2), f.lane = r.lane ∧ f.addr = r.va ∧
        (r.answered = some f.cause ∨ f.cause = 0x2D ∧ s.sealFor r = 1) := by
  rcases List.mem_append.mp h with h | h <;> obtain ⟨x, hx, hf⟩ := List.mem_filterMap.mp h
  · refine .inl ⟨x.2, List.mem_map_of_mem hx, ?_⟩
    split at hf
    · obtain ⟨b, hb, rfl⟩ := Option.map_eq_some_iff.mp hf
      exact ⟨hb, rfl⟩
    · cases hf
  · refine .inr ⟨x.2, List.mem_map_of_mem hx, ?_⟩
    split at hf
    · split at hf
      · cases hf; exact ⟨rfl, rfl, .inr ⟨rfl, ‹_›⟩⟩
      · cases hf
    · split at hf
      · cases hf; exact ⟨rfl, rfl, .inr ⟨rfl, ‹_›⟩⟩
      · cases hf
    · cases hf; exact ⟨rfl, rfl, .inl ‹_›⟩

theorem State.amoFails_eq_nil {s : State} {t k : Nat} (hn : ∀ x ∈ (s.nearAtomics t k).map (·.2), s.performBad x = none)
    (hf : ∀ r ∈ (s.farAtomics t k).map (·.2), (r.answered = none ∨ r.answered = some 0) ∧ s.sealFor r ≠ 1) : s.amoFails t k = [] := by
  simp only [List.forall_mem_map] at hn hf
  refine List.append_eq_nil_iff.mpr ⟨List.filterMap_eq_nil_iff.mpr fun x hx => ?_, List.filterMap_eq_nil_iff.mpr fun x hx => ?_⟩
  · split
    · rw [hn x hx]; rfl
    · rfl
  · obtain ⟨hans | hans, hseal⟩ := hf x hx <;> simp [hans, hseal]

/-- What one lane of an amo does among the atomics at homes and those at targets. -/
def State.performLane (t k : Nat) (nears : List Atomic) (fars : List Request) (s : State) (n : Nat) : State :=
  match nears.find? (fun x => x.asker == .lane t k n), fars.find? (fun r => r.lane == n) with
  | some x, _ => s.performAtomic x
  | none, some r => (match r.kind with
    | .atomic op width cmp x => (s.performFar r op width cmp x).1.giveOld (.lane t k n) (s.performFar r op width cmp x).2
    | _ => s)
  | none, none => s

theorem State.performAmo_of_no_fails {s : State} {t k : Nat} (h : s.amoFails t k = []) : s.performAmo t k =
    (List.range 32).foldl (State.performLane t k ((s.nearAtomics t k).map (·.2)) ((s.farAtomics t k).map (·.2))) (s.dropAtomics t k) := by
  unfold State.performAmo
  rw [h]
  rfl

theorem State.performAmo_of_fails {s : State} {t k : Nat} (h : s.amoFails t k ≠ []) : s.performAmo t k =
    ((((s.nearAtomics t k).map (·.2)).filter (fun x => (s.performBad x).isSome)).foldl
      (fun t x => t.serve x.world x.dpa x.width) s).atomicFails t k (s.amoFails t k) := by
  unfold State.performAmo
  simp [h]

/-- A fold that changes the state at one element of a list that holds it once. -/
theorem foldl_ite_of_mem {α β : Type} [BEq β] [LawfulBEq β] {l : List β} {j : β} (hl : l.Nodup) (hj : j ∈ l) (f : α → α) (a : α) :
    l.foldl (fun a n => if n == j then f a else a) a = f a := by
  rw [← List.foldl_filter (p := fun n => n == j) (f := fun a _ => f a), List.filter_beq, List.count_eq_one_of_mem hl hj]
  rfl

section OneLane

variable {s : State} {k u i j : Nat} {e : Atomic} (hu : e.asker = .lane u i j)
include hu

theorem State.performLane_of_one (s : State) (n : Nat) :
    State.performLane u i [e] [] s n = if n == j then s.performAtomic e else s := by
  by_cases hn : n = j
  · subst hn
    simp [State.performLane, hu]
  · have hne : (Asker.lane u i j == Asker.lane u i n) = false := by simp [Ne.symm hn]
    simp [State.performLane, hu, hn, hne]

variable (hn : s.nearAtomics u i = [(k, e)]) (hf : s.farAtomics u i = [])
include hn hf

theorem State.amoFails_of_one : s.amoFails u i =
    ((s.performBad e).map (fun b => { lane := j, cause := b.1, reason := b.2, addr := e.va, info := 0 : LaneBad })).toList := by
  rw [State.amoFails, hn, hf]
  cases h : s.performBad e <;> simp [hu, h]

theorem State.performAmo_of_one (hj : j < 32) (hp : s.performBad e = none) : s.performAmo u i = (s.dropAtomics u i).performAtomic e := by
  have noFails : s.amoFails u i = [] := by rw [State.amoFails_of_one hu hn hf, hp]; rfl
  rw [State.performAmo_of_no_fails noFails, hn, hf, List.map_cons, List.map_nil, List.map_nil,
    funext₂ (State.performLane_of_one hu)]
  exact foldl_ite_of_mem List.nodup_range (List.mem_range.mpr hj) _ _

theorem State.performAmo_of_one_fails {b : Bad} (hp : s.performBad e = some b) : s.performAmo u i =
    (s.serve e.world e.dpa e.width).atomicFails u i [{ lane := j, cause := b.1, reason := b.2, addr := e.va, info := 0 }] := by
  have one := State.amoFails_of_one hu hn hf
  rw [hp] at one
  rw [State.performAmo_of_fails (by rw [one]; simp), one, hn]
  simp [hp]

end OneLane

/-! ### Values: atomics and reductions -/

theorem atomicWrites_iff {op old cmp : Nat} : atomicWrites op old cmp = true ↔ ¬ (op = 9 ∧ old ≠ cmp) := by
  simp [atomicWrites, or_iff_not_imp_left]

theorem State.performAtomic_eq (s : State) (e : Atomic) :
    let s1 := s.homeRead e.world e.dpa e.width 0
    let old := s1.seenNat e.world e.dpa e.width
    let s2 := if e.op = 9 ∧ old ≠ e.cmp then s1 else
      ((s1.homeWrite e.world (runTab e.dpa (leBytes e.width (atomicNew e.op e.width old e.cmp e.val)))).1).expose e.world [e.dpa / 128]
    s.performAtomic e = (s2.toSync e.world (e.dpa / 128)).giveOld e.asker old := by
  simp only [State.performAtomic, atomicWrites_iff, ite_not]

theorem State.performFar_of_writes {s : State} {r : Request} {op width cmp : Nat} (x : Nat)
    (h : op ≠ 9 ∨ leNat (s.mem.readBytes r.dpa width) = cmp) :
    let old := leNat (s.mem.readBytes r.dpa width)
    let bs := leBytes width (atomicNew op width old cmp x)
    s.performFar r op width cmp x =
      ((({ s with mem := s.mem.writeBytes r.dpa bs } : State).refresh r.world r.dpa bs).expose r.world [r.dpa / 128], old) := by
  have hw : atomicWrites op (leNat (s.mem.readBytes r.dpa width)) cmp = true := atomicWrites_iff.mpr (by tauto)
  simp only [State.performFar, hw, if_true]

theorem State.performFar_of_no_write {s : State} {r : Request} {width cmp : Nat} (x : Nat)
    (h : leNat (s.mem.readBytes r.dpa width) ≠ cmp) : s.performFar r 9 width cmp x = (s, leNat (s.mem.readBytes r.dpa width)) := by
  simp [State.performFar, atomicWrites, h]

theorem exec_redApply {s : State} {k : Nat} {e : RedAt} {rest : List RedAt} (he : (s.slice k).reds = e :: rest)
    (hb : s.lineBusy e.world (e.red.dpa / 128) = false) (hv : s.anyUnverified e.world [e.red.dpa / 128] = false)
    (ha : ∀ a ∈ (s.slice k).atomics, e.seq ≤ a.seq) :
    let mine := (s.slice k).entryReds (e.red.dpa / 128)
    exec (.redApply k) s = .next (mine.foldl State.applyRed
      (s.onSlice k (fun S => { S with reds := S.reds.filter (fun r => !mine.contains r) }))) := by
  have older : (s.slice k).atomics.any (fun a => decide (a.seq < e.seq)) = false := by simpa using ha
  change execRedApply k s = _
  simp [execRedApply, he, hb, hv, older]

section Red

variable {s : State} {e : RedAt}

theorem State.applyRed_of_reads (h : s.readFault e.world e.red.dpa = none) :
    let s1 := s.homeRead e.world e.red.dpa e.red.width 0
    s.applyRed e = ((s1.homeWrite e.world (runTab e.red.dpa (leBytes e.red.width
      (atomicNew e.red.op e.red.width (s1.seenNat e.world e.red.dpa e.red.width) 0 e.red.val)))).1).expose e.world [e.red.dpa / 128] := by
  simp only [State.applyRed, h]

theorem State.applyRed_of_fails {cause : Nat} (h : s.readFault e.world e.red.dpa = some cause) :
    s.applyRed e = (s.serve e.world e.red.dpa e.red.width).lateTrap e.launch e.troupe e.set
      { cause := cause, set := e.set, pc := e.pc, addr := e.red.dpa / 64 * 64 } := by
  simp only [State.applyRed, h]

end Red

theorem exec_partialSend {s : State} {core line : Nat} {p : Partial} (h : (s.coreAt core).partials.get? line = some p) :
    exec (.partialSend core line) s = .next ((s.addPartial p).onCore core (fun C => { C with partials := C.partials.del line })) := by
  change execPartialSend core line s = _
  simp only [execPartialSend, h]

/-! ### Lines that come and go -/

theorem State.mscError_zero (s : State) (w line : Nat) : s.mscError w line 0 = s := ite_self s

section Miss

variable {s : State} {core index : Nat} {m : Miss} (hm : (s.coreAt core).misses.get? index = some m) (herr : m.err = 0) (hreq : m.req = none)
include hm herr hreq

theorem exec_l1MissFill_of_fails {cause : Nat} (h : s.missError m.world m.dpa = some cause) : exec (.l1MissFill core index 0) s =
    .next (s.onCore core (fun C => { C with misses := C.misses.set index { m with err := cause } })) := by
  change execL1MissFill core index 0 s = _
  simp [execL1MissFill, hm, herr, hreq, State.mscError_zero, h]

variable (hfine : s.missError m.world m.dpa = none)
include hfine

theorem exec_l1MissFill_of_fetch (ho : isOutside (m.dpa * 128) = true) (hc : s.copies.get? (lineKey m.world m.dpa) = none)
    (hr : s.mayRead m.world (m.dpa * 128) = true) : exec (.l1MissFill core index 0) s =
    .next ((s.send .fill .home m.world (m.dpa * 128) 0).onCore core (fun C =>
      { C with misses := C.misses.set index { m with req := some s.nextId } })) := by
  change execL1MissFill core index 0 s = _
  simp [execL1MissFill, hm, herr, hreq, State.mscError_zero, hfine, ho, hc, hr]

theorem exec_l1MissFill_of_no_read (ho : isOutside (m.dpa * 128) = true) (hc : s.copies.get? (lineKey m.world m.dpa) = none)
    (hr : s.mayRead m.world (m.dpa * 128) = false) : exec (.l1MissFill core index 0) s = .next s := by
  change execL1MissFill core index 0 s = _
  simp [execL1MissFill, hm, herr, hreq, State.mscError_zero, hfine, ho, hc, hr]

theorem exec_l1MissFill_of_held (h : isOutside (m.dpa * 128) = false ∨ (s.copies.get? (lineKey m.world m.dpa)).isSome = true) :
    exec (.l1MissFill core index 0) s =
      .next ((s.onCore core (fun C => { C with misses := C.misses.del index })).fillL1 core m) := by
  have held : (isOutside (m.dpa * 128) && (s.copies.get? (lineKey m.world m.dpa)).isNone) = false := by
    rcases h with h | h <;> simp [h, Option.isNone_eq_false_iff]
  change execL1MissFill core index 0 s = _
  simp [execL1MissFill, hm, herr, hreq, State.mscError_zero, hfine, held]

end Miss

theorem exec_mscEvict {s : State} {w line : Nat} (hh : s.atHome w line = true) (hl : s.mayLeave w line = true) :
    exec (.mscEvict w line 0) s = .next (s.evictLine w line) := by
  have idle : s.lineBusy w line = false := by
    simp only [State.mayLeave, Bool.and_eq_true, Bool.not_eq_true'] at hl
    obtain ⟨⟨idle, -⟩, -⟩ := hl
    exact idle
  change execMscEvict w line 0 s = _
  simp [execMscEvict, hh, hl, idle, State.mscError_zero]

/-! ### The hotness ring -/

/-- A sample that finds no place is counted. -/
def State.dropSample (s : State) (w : Nat) : State :=
  s.onWorld w (fun W => { W with hot := { W.hot with drop := min (W.hot.drop + 1) (2 ^ 32 - 1) } })

section Sample

variable {s : State} {cl w : Nat} {e : Sample} (he : (s.cluster cl).due.find? (fun e => e.world == w) = some e)
include he

theorem exec_hotnessRecord_of_full (hfull : ((s.world w).hot.head + 2 ^ 32 - (s.world w).hot.tail) % 2 ^ 32 = 2 ^ (s.world w).hot.log2sz) :
    exec (.hotnessRecord cl w) s = .next ((s.onCluster cl (fun C => { C with due := C.due.erase e })).dropSample w) := by
  change execHotnessRecord cl w s = _
  simp only [execHotnessRecord, he, hfull, if_true]
  rfl

variable (hroom : ((s.world w).hot.head + 2 ^ 32 - (s.world w).hot.tail) % 2 ^ 32 ≠ 2 ^ (s.world w).hot.log2sz)
include hroom

theorem exec_hotnessRecord_of_no_lease {x : Nat}
    (ha : s.driverDpa w 0 ((s.world w).hot.base + 32 * ((s.world w).hot.head % 2 ^ (s.world w).hot.log2sz)) 32 true = .error x) :
    exec (.hotnessRecord cl w) s = .next ((s.onCluster cl (fun C => { C with due := C.due.erase e })).dropSample w) := by
  change execHotnessRecord cl w s = _
  simp only [execHotnessRecord, he, hroom, ha, if_false]
  rfl

variable {a : Nat} {s1 : State}
  (ha : s.driverDpa w 0 ((s.world w).hot.base + 32 * ((s.world w).hot.head % 2 ^ (s.world w).hot.log2sz)) 32 true = .ok a)
include ha

theorem exec_hotnessRecord_of_written (hw : s.choreoWrite w a e.bytes = (s1, none)) : exec (.hotnessRecord cl w) s =
    .next ((s1.onCluster cl (fun C => { C with due := C.due.erase e })).onWorld w (fun W =>
      { W with hot := { W.hot with head := (W.hot.head + 1) % 2 ^ 32 } })) := by
  change execHotnessRecord cl w s = _
  simp only [execHotnessRecord, he, hroom, ha, hw, if_false]

theorem exec_hotnessRecord_of_write_fails {c : Nat} (hw : s.choreoWrite w a e.bytes = (s1, some c)) : exec (.hotnessRecord cl w) s =
    .next ((s1.onCluster cl (fun C => { C with due := C.due.erase e })).dropSample w) := by
  change execHotnessRecord cl w s = _
  simp only [execHotnessRecord, he, hroom, ha, hw, if_false]
  rfl

end Sample

/-! ### The poll of a system-scope wait -/

/-- The lanes of a set that read their targets again: they poll, and nothing is asked or answered for them (11 R254). -/
def State.pollMask (s : State) (t k : Nat) (S : SetState) : Word :=
  maskOf (fun j => (S.lane j).hold == .poll && !s.asked t k j && (S.answers.get? j).isNone)

/-- The lanes of a mask issue their wait again. -/
def State.readAgain (s : State) (m : Word) (S : SetState) : SetState :=
  S.onLanes m (fun _ th => { th with hold := .ready, since := s.cycle.toNat })

theorem exec_systemWaitPoll {s : State} {t k : Nat} {S : SetState} (h : s.setAt? t k = some S) :
    exec (.systemWaitPoll t k) s = .next (s.onSet t k (s.readAgain (s.pollMask t k S))) := by
  change execSystemWaitPoll t k s = _
  simp only [execSystemWaitPoll, h]
  rfl

/-- The last clause of the obligation: each entry of a set's number has its own polling lanes read again. -/
def State.PollsEachEntry (s : State) (t k : Nat) : Prop :=
  ∀ S, s.setAt? t k = some S → exec (.systemWaitPoll t k) s = .next (s.onSet t k (fun S => s.readAgain (s.pollMask t k S) S))

/-- The clause holds where numbers stand once in the tables, as a `Tab` is meant to hold them. -/
theorem State.pollsEachEntry_of_nodup {s : State} {t k : Nat} (ht : (Tab.keys s.troupes).Nodup)
    (hk : ∀ T, s.troupes.get? t = some T → (Tab.keys T.setTab).Nodup) : s.PollsEachEntry t k := by
  intro S hS
  rw [exec_systemWaitPoll hS]
  have same : s.troupes.adjust t (fun T => T.onSet k (s.readAgain (s.pollMask t k S))) =
      s.troupes.adjust t (fun T => T.onSet k (fun S => s.readAgain (s.pollMask t k S) S)) := by
    refine Tab.adjust_congr ht fun T hT => ?_
    have hTS : T.setTab.get? k = some S := by rwa [State.setAt?, hT] at hS
    have entries := Tab.adjust_congr (f := s.readAgain (s.pollMask t k S)) (g := fun S => s.readAgain (s.pollMask t k S) S) (hk T hT)
      fun R hR => by rw [Option.some.inj (hTS.symm.trans hR)]
    simp only [Troupe.onSet, entries]
  simp only [State.onSet, State.onTroupe, same]

/-- Every other clause holds in every state, so that the obligation stands and falls with its last one. -/
theorem homesAndLines_iff_pollsEachEntry : Obligations.HomesAndLines ↔ ∀ (s : State) (t k : Nat), s.PollsEachEntry t k := by
  unfold Obligations.HomesAndLines
  constructor
  · intro h s t k
    obtain ⟨-, -, -, -, -, -, -, -, -, -, -, poll⟩ := h s 0 0 0 0 0 t k 0
    exact poll
  · intro hpoll s k core line index w t set cl
    refine ⟨?head, ?amo, ?far, ?near, ?red, ?apply, fun p => exec_partialSend, rfl, ?miss, fun hh hl => exec_mscEvict hh hl, ?sample,
      hpoll s t set⟩
    case head =>
      intro e rest he hb hv hs ha hr
      have ready : s.nearReady k e = true := State.nearReady_iff.mpr ⟨Slice.first_of_oldest ha hr, hb, hv, hs⟩
      refine ⟨fun u hu => ⟨exec_homeAtomicPerform_of_cue he hu ready, fun b => exec_homeAtomicPerform_of_cue_fails he hu ready⟩, ?_⟩
      intro u i j hu hj hn hf
      have all : s.amoReady u i = true := State.amoReady_iff.mpr (by simp [hn, hf, ready])
      rw [exec_homeAtomicPerform_of_lane he hu, if_pos all]
      exact ⟨fun hp => by rw [State.performAmo_of_one hu hn hf hj hp], fun b hp => by rw [State.performAmo_of_one_fails hu hn hf hp]⟩
    case amo =>
      intro e rest u i j he hu
      rw [exec_homeAtomicPerform_of_lane he hu]
      refine ⟨fun hr => ?_, fun hr hn hf => ?_, fun hr hbad => ?_, fun f => State.mem_amoFails⟩
      · rw [if_neg (mt State.amoReady_iff.mp hr)]
      · rw [if_pos (State.amoReady_iff.mpr hr), State.performAmo_of_no_fails (State.amoFails_eq_nil hn hf)]
        rfl
      · rw [if_pos (State.amoReady_iff.mpr hr), State.performAmo_of_fails hbad]
    case far =>
      exact fun r op width cmp x => ⟨State.performFar_of_writes x, fun h9 h => h9 ▸ State.performFar_of_no_write x h⟩
    case near => exact s.performAtomic_eq
    case red => exact fun e rest he hb hv ha _ => exec_redApply he hb hv ha
    case apply => exact fun e => ⟨State.applyRed_of_reads, fun cause => State.applyRed_of_fails⟩
    case miss =>
      exact fun m hm herr hreq => ⟨fun cause => exec_l1MissFill_of_fails hm herr hreq, fun hfine =>
        ⟨exec_l1MissFill_of_fetch hm herr hreq hfine, exec_l1MissFill_of_no_read hm herr hreq hfine,
          exec_l1MissFill_of_held hm herr hreq hfine⟩⟩
    case sample =>
      exact fun e he => ⟨exec_hotnessRecord_of_full he, fun a s1 hroom => exec_hotnessRecord_of_written he hroom, fun hroom =>
        ⟨fun x => exec_hotnessRecord_of_no_lease he hroom, fun a s1 c ha => exec_hotnessRecord_of_write_fails he hroom ha⟩⟩

/-- A set whose only thread polls its target. -/
def pollingSet : SetState := { (default : SetState) with threads := [{ Thread.fresh 0 true with hold := .poll }] }

/-- A troupe whose table holds set 0 twice: without a thread first, and then with one that polls. -/
def setTwice : State := { State.reset with troupes := [(0, { (default : Troupe) with setTab := [(0, default), (0, pollingSet)] })] }

/-- Refutes O39: in `setTwice` the event takes its mask from the first entry, in which no lane polls, and the clause of the poll has the
polling thread of the second entry read again. -/
theorem not_homesAndLines : ¬ Obligations.HomesAndLines := by
  intro h
  have poll := homesAndLines_iff_pollsEachEntry.mp h setTwice 0 0 default rfl
  rw [exec_systemWaitPoll (S := default) rfl] at poll
  exact absurd (Host.Outcome.next.inj poll) (by decide)

end Machine
end Sys2Proof
end

section
/-! O42: the responses of link requests (07 R145; 10 R229, R230, R232, R495; 11 R240; 25 R482, R484). A response waits, is one lane of an
`amo`, brings an error, or lands; each has its equation, and what lands goes by the kind of its request. -/

namespace Sys2Proof.Machine

/-! ### What the count of link bytes leaves alone -/

section Count

variable (s : State) (w n : Nat)

theorem State.linkBytes_eq : s.linkBytes w n = { s with worlds := (s.linkBytes w n).worlds } := by
  unfold State.linkBytes
  rw [State.tally_eq]
  rfl

@[simp] theorem State.linkBytes_mem : (s.linkBytes w n).mem = s.mem := by rw [State.linkBytes_eq]
@[simp] theorem State.linkBytes_copies : (s.linkBytes w n).copies = s.copies := by rw [State.linkBytes_eq]
@[simp] theorem State.linkBytes_drains : (s.linkBytes w n).drains = s.drains := by rw [State.linkBytes_eq]
@[simp] theorem State.linkBytes_requests : (s.linkBytes w n).requests = s.requests := by rw [State.linkBytes_eq]
@[simp] theorem State.linkBytes_launches : (s.linkBytes w n).launches = s.launches := by rw [State.linkBytes_eq]
@[simp] theorem State.linkBytes_ctl : (s.linkBytes w n).ctl = s.ctl := by rw [State.linkBytes_eq]

theorem State.wobs_tally (ev k : Nat) : ((s.tally w ev n).world k).wobs = (s.world k).wobs :=
  (congrArg World.wobs (s.tally_world w ev n k) :)

theorem State.wobs_linkBytes (k : Nat) : ((s.linkBytes w n).world k).wobs = (s.world k).wobs := by
  rw [← s.wobs_tally w n 8 k, State.linkBytes, State.world_onWorld]
  split
  · subst k; rfl
  · rfl

theorem State.sealComing_linkBytes (v tcid va : Nat) : (s.linkBytes w n).sealComing v tcid va = s.sealComing v tcid va := by
  simp only [State.sealComing, State.linkBytes_drains, State.linkBytes_launches]

/-- The state of an atomic's buffer is read from the launches, the drains and the MSC_WOB entries. -/
theorem State.sealFor_linkBytes (r : Request) : (s.linkBytes w n).sealFor r = s.sealFor r := by
  simp only [State.sealFor, State.sealState, World.wobAt, State.sealComing_linkBytes, State.wobs_linkBytes, State.linkBytes_launches]

end Count

section Response

variable {s : State} {id : Nat} {r : Request}

/-! ### The cause of a response -/

/-- Is the link of a request down, or was it since the request went out (25 R484)? -/
def State.failedLink (s : State) (r : Request) : Bool := r.down || !(s.port r.port).up || s.linkDown r.world r.dpa

theorem State.linkCause_of_failedLink (status : Nat) (h : s.failedLink r = true) : s.linkCause r status = some 0x50 := if_pos h

theorem State.linkCause_of_success (hd : s.failedLink r = false) (hr : s.inRun r.world = true) : s.linkCause r 0 = none := by
  unfold State.failedLink at hd
  simp [State.linkCause, hd, hr]

theorem State.linkCause_of_error {status : Nat} (hd : s.failedLink r = false) (h : ¬ (s.inRun r.world = true ∧ status = 0))
    (h3 : status ≠ 3) : s.linkCause r status =
      some (if (status = 1 ∨ s.inRun r.world = false) ∧ (isHost r.dpa = true ∨ r.owner.after = true) then 0x27 else 0x50) := by
  unfold State.failedLink at hd
  have bad : (s.inRun r.world && (decide (status = 0) || decide (status = 3))) = false := by simpa [h3] using h
  simp [State.linkCause, hd, bad, apply_ite some]

/-! ### What waits, and what is one lane of an amo -/

theorem Request.isAmo_iff : r.isAmo = true ↔
    ∃ t k lane pc op w cmp x, r.owner = .set t k lane pc ∧ r.kind = .atomic op w cmp x ∧ lane < 32 := by
  unfold Request.isAmo Request.amoOf
  cases r.owner <;> cases r.kind <;> simp

theorem State.sealWaits_iff : s.sealWaits r = true ↔
    (∃ op w cmp x, r.kind = .atomic op w cmp x) ∧ s.sealFor r = 2 ∧ r.owner.after = false := by
  unfold State.sealWaits
  cases r.kind <;> simp

/-- Only writes wait for their turn and for their line. -/
theorem State.no_turn_of_no_write (h : r.kind.writes = false) : s.sentBefore id r = false ∧ s.lineWaits r = false := by
  simp [State.sentBefore, State.lineWaits, h]

/-! ### What a response does -/

/-- What a request without an error does at its target and for the one that sent it. -/
def State.land (s : State) (id : Nat) (r : Request) : State :=
  match r.kind with
  | .fill => s.landFill id r
  | .read n => s.landRead r n
  | .write bs => s.landWrite r bs
  | .flush mask bs => s.landFlush r mask bs
  | .atomic op w cmp x => s.landAtomic r op w cmp x

/-- The request has been answered, and its bytes are counted. -/
def State.answered (s : State) (id : Nat) (r : Request) : State :=
  ({ s with requests := s.requests.del id } : State).linkBytes r.world (max 1 r.kind.moves)

section Exec

variable (hr : s.requests.get? id = some r)
include hr

theorem exec_linkCompletion_of_waits (status : Nat) (h : s.sentBefore id r = true ∨ s.lineWaits r = true) :
    exec (.linkCompletion id status) s = .next s := by
  change execLinkCompletion id status s = _
  rcases h with h | h <;> simp [execLinkCompletion, hr, h]

theorem exec_linkCompletion_of_unchecked (h : r.mayHold = false) : exec (.linkCompletion id 3) s = .next s := by
  change execLinkCompletion id 3 s = _
  simp [execLinkCompletion, hr, h]

variable (hb : s.sentBefore id r = false) (hw : s.lineWaits r = false)
include hb hw

theorem exec_linkCompletion_of_amo {status : Nat} (h3 : status ≠ 3) (ha : r.isAmo = true) (hans : r.answered = none) :
    exec (.linkCompletion id status) s =
      .next ((s.linkBytes r.world r.kind.moves).answerAmo id r ((s.linkCause r status).getD 0)) := by
  change execLinkCompletion id status s = _
  simp [execLinkCompletion, hr, hb, hw, h3, ha, hans]

variable (ha : r.isAmo = false) (hs : s.sealWaits r = false)
include ha hs

theorem exec_linkCompletion_of_error {status cause : Nat} (h3 : status ≠ 3) (hc : s.linkCause r status = some cause) :
    exec (.linkCompletion id status) s = .next (({ s with requests := s.requests.del id } : State).linkError id r cause) := by
  have hc' : ({ s with requests := s.requests.del id } : State).linkCause r status = some cause := hc
  change execLinkCompletion id status s = _
  simp [execLinkCompletion, hr, hb, hw, h3, ha, hs, hc']

theorem exec_linkCompletion_of_success (hd : s.failedLink r = false) (hrun : s.inRun r.world = true) :
    exec (.linkCompletion id 0) s = .next ((s.answered id r).land id r) := by
  have hc : ({ s with requests := s.requests.del id } : State).linkCause r 0 = none := State.linkCause_of_success hd hrun
  change execLinkCompletion id 0 s = _
  simp [execLinkCompletion, hr, hb, hw, ha, hs, hc]
  rfl

end Exec

/-- A request that is no atomic waits for nothing but its turn and its line. -/
theorem exec_linkCompletion_of_lands (hr : s.requests.get? id = some r) (hb : s.sentBefore id r = false) (hw : s.lineWaits r = false)
    (hd : s.failedLink r = false) (hrun : s.inRun r.world = true) (hk : ∀ op w cmp x, r.kind ≠ .atomic op w cmp x) :
    exec (.linkCompletion id 0) s = .next ((s.answered id r).land id r) := by
  have noAmo : r.isAmo = false := by
    rw [Bool.eq_false_iff, ne_eq, Request.isAmo_iff]
    rintro ⟨t, k, lane, pc, op, w, cmp, x, -, h, -⟩
    exact hk op w cmp x h
  have noSeal : s.sealWaits r = false := by
    rw [Bool.eq_false_iff, ne_eq, State.sealWaits_iff]
    rintro ⟨⟨op, w, cmp, x, h⟩, -⟩
    exact hk op w cmp x h
  exact exec_linkCompletion_of_success hr hb hw noAmo noSeal hd hrun

end Response

/-- The first answer for a lane of an `amo` is kept, and the lanes are performed once all of them can be (11 R240). -/
theorem State.answerAmo_of_first {s : State} {id t k lane pc : Nat} {r : Request} (cause : Nat) (ho : r.owner = .set t k lane pc)
    (hans : r.answered = none) :
    let u : State := { s with requests := s.requests.set id { r with answered := some cause } }
    s.answerAmo id r cause = if u.amoReady t k then u.performAmo t k else u := by
  cases r
  cases ho
  cases hans
  rfl

section Atomic

/-! Every operation but a compare-and-swap, operation 9, writes at its target. -/

variable {s : State} {id op w cmp x : Nat} {r : Request} (hk : r.kind = .atomic op w cmp x)
include hk

theorem State.land_atomic_of_cue {t : Nat} (ho : r.owner = .cue t) (h9 : op < 9) (hs : s.sealFor r = 0) :
    let old := leNat (s.mem.readBytes r.dpa w)
    let bs := leBytes w (atomicNew op w old cmp x)
    s.land id r = ((({ s with mem := s.mem.writeBytes r.dpa bs } : State).refresh r.world r.dpa bs).expose r.world [r.dpa / 128]).giveOld
      (.cue t) old := by
  simp [State.land, State.landAtomic, hk, ho, hs, State.performFar_of_writes x (.inl (show op ≠ 9 by omega))]

theorem State.land_atomic_of_set {t k lane pc : Nat} (ho : r.owner = .set t k lane pc) (h9 : op < 9) :
    let bs := leBytes w (atomicNew op w (leNat (s.mem.readBytes r.dpa w)) cmp x)
    s.land id r = (({ s with mem := s.mem.writeBytes r.dpa bs } : State).refresh r.world r.dpa bs).expose r.world [r.dpa / 128] := by
  simp [State.land, State.landAtomic, hk, ho, State.performFar_of_writes x (.inl (show op ≠ 9 by omega))]

end Atomic

/-- Settles O42: each response by what it waits for, what it brings and who sent its request. -/
theorem linkCompletions : Obligations.LinkCompletions := by
  unfold Obligations.LinkCompletions
  intro s id status r hr s0 s1 down run
  have mem : s1.mem = s.mem := State.linkBytes_mem s0 _ _
  have lands {u : State} (hb : s.sentBefore id r = false) (hw : s.lineWaits r = false) (hd : down = false) (hrun : run = true)
      (hk : ∀ op w cmp x, r.kind ≠ .atomic op w cmp x) (hu : s1.land id r = u) : exec (.linkCompletion id 0) s = .next u :=
    hu ▸ exec_linkCompletion_of_lands hr hb hw hd hrun hk
  refine ⟨exec_linkCompletion_of_waits hr status, ?performed, ?amo, ?fails, ?unchecked, ?given⟩
  case performed =>
    rintro hd hrun rfl hb hw
    have lands {u : State} := lands (u := u) hb hw hd hrun
    refine ⟨fun n t k lane pc hk ho => ?read, fun bs t k lane pc hk ho => ?write, fun op w cmp x t hk ho h9 hs => ?atomic⟩
    case read => exact lands (by simp [hk]) (by simp [State.land, State.landRead, hk, ho, mem])
    case write => exact lands (by simp [hk]) (by simp [State.land, State.landWrite, hk, ho, mem])
    case atomic =>
      have noAmo : r.isAmo = false := by simp [Request.isAmo, ho]
      have noSeal : s.sealWaits r = false := by simp [State.sealWaits, hk, hs]
      have noBuffer : s1.sealFor r = 0 := (State.sealFor_linkBytes s0 _ _ r).trans hs
      have performed := State.land_atomic_of_cue (id := id) hk ho h9 noBuffer
      simp only [mem] at performed
      exact (exec_linkCompletion_of_success hr hb hw noAmo noSeal hd hrun).trans (congrArg _ performed)
  case amo =>
    intro op w cmp x t k lane pc hk ho hlane hans hb hw h3 cause s2 s3
    have isAmo : r.isAmo = true := Request.isAmo_iff.mpr ⟨t, k, lane, pc, op, w, cmp, x, ho, hk, hlane⟩
    have before : r.owner.after = false := by simp [ho, ReqOwner.after, hlane]
    have hcause : (s.linkCause r status).getD 0 = cause := by
      by_cases hd : down = true
      · rw [State.linkCause_of_failedLink _ hd]
        exact (if_pos hd).symm
      · have hd' : s.failedLink r = false := Bool.eq_false_iff.mpr hd
        by_cases hok : run = true ∧ status = 0
        · obtain ⟨hrun, rfl⟩ := hok
          rw [State.linkCause_of_success hd' hrun]
          simp [cause, hd, hrun]
        · rw [State.linkCause_of_error hd' hok h3]
          simp [cause, hd, hok, before, run]
    rw [exec_linkCompletion_of_amo hr hb hw h3 isAmo hans, hcause, State.answerAmo_of_first _ ho hans, State.linkBytes_requests]
  case fails =>
    intro n t k lane pc hk ho h3 hbad cause hcause
    obtain ⟨hb, hw⟩ := State.no_turn_of_no_write (s := s) (id := id) (r := r) (by simp [hk, ReqKind.writes])
    have noAmo : r.isAmo = false := by simp [Request.isAmo, Request.amoOf, ho, hk]
    have noSeal : s.sealWaits r = false := by simp [State.sealWaits, hk]
    have hc : s.linkCause r status = some cause := by
      by_cases hd : down = true
      · rw [State.linkCause_of_failedLink _ hd, hcause, if_neg (by simp [hd])]
      · have hd' : s.failedLink r = false := Bool.eq_false_iff.mpr hd
        have hnot : ¬ (s.inRun r.world = true ∧ status = 0) := by
          rintro ⟨hrun, h0⟩
          rcases hbad with h | h | h
          · exact hd h
          · exact absurd (hrun.symm.trans h) (by decide)
          · exact h h0
        rw [State.linkCause_of_error hd' hnot h3, hcause]
        simp [hd, ho, ReqOwner.after, run]
    rw [exec_linkCompletion_of_error hr hb hw noAmo noSeal h3 hc]
    simp only [State.linkError, ho, hk]
    rfl
  case unchecked =>
    intro t ho
    exact exec_linkCompletion_of_unchecked hr (by simp [Request.mayHold, ho])
  case given =>
    rintro hd hrun rfl hb hw
    have lands {u : State} := lands (u := u) hb hw hd hrun
    refine ⟨fun t l howner => ⟨fun n ho hk => ?cueRead, fun n ho hk => ?launchRead, fun bs ho hk hpool => ?cueWrite⟩,
      fun core e u n ho hk => ?opRead, fun core e u mask bs ho hk => ?opFlush, fun t k lane pc mask bs ho hk => ?setFlush,
      fun op w cmp x t k lane pc ho hlane hk h9 => ?reduction, fun ho hk hno => ?home⟩
    case cueRead => exact lands (by simp [hk]) (by simp [State.land, State.landRead, hk, ho, mem])
    case launchRead => exact lands (by simp [hk]) (by simp [State.land, State.landRead, hk, ho, mem])
    case cueWrite =>
      have pool : s1.ctl.poolc = true := by simpa [s1, s0] using hpool
      exact lands (by simp [hk]) (by simp [State.land, State.landWrite, hk, ho, mem, pool])
    case opRead => exact lands (by simp [hk]) (by simp [State.land, State.landRead, hk, ho, mem])
    case opFlush => exact lands (by simp [hk]) (by simp [State.land, State.landFlush, flushTab, hk, ho])
    case setFlush => exact lands (by simp [hk]) (by simp [State.land, State.landFlush, flushTab, hk, ho, mem])
    case reduction =>
      have noAmo : r.isAmo = false := by simp [Request.isAmo, Request.amoOf, hk, ho, hlane]
      have noSeal : s.sealWaits r = false := by simp [State.sealWaits, hk, ho, ReqOwner.after, hlane]
      have performed := State.land_atomic_of_set (s := s1) (id := id) hk ho h9
      simp only [mem] at performed
      exact (exec_linkCompletion_of_success hr hb hw noAmo noSeal hd hrun).trans (congrArg _ performed)
    case home =>
      have noCopy : s1.copies.get? (lineKey r.world (r.dpa / 128)) = none := by simpa [s1, s0] using hno
      exact lands (by simp [hk]) (by simp [State.land, State.landFill, hk, noCopy, mem])

end Sys2Proof.Machine
end

section
/-! O45: the leases (07 R151, R154, R156, R160, R161, R164; 24 R471, R473). An advance of a grant has one equation for each of its ends, and
the steps of grants and of the driver's requests go through them; an answer shows the next fault and then refuses what waited. -/

namespace Sys2Proof.Machine

/-! ### One advance of a grant (07 R154) -/

section Grant

variable {s s' : State} {w i : Nat} {l l' : Lease} (hl : (s.world w).leases.getD i Lease0 = l)
include hl

theorem State.grantMore_of_not_granting (h : l.state ≠ 1) : s.grantMore w i = s := by
  subst hl
  simp [State.grantMore, h]

theorem State.grantMore_of_fault_stands (hf : s.faultStands w (if l.drv then 2 else 1) i 0 = true) : s.grantMore w i = s := by
  subst hl
  simp [State.grantMore, hf]

variable (h1 : l.state = 1) (hf : s.faultStands w (if l.drv then 2 else 1) i 0 = false)
include h1 hf

theorem State.grantMore_of_walked (hw : State.walkPages w ((List.range l.len).drop l.walked) s l = (s', l', none)) :
    let u := ((s'.onLease w i (fun _ => l')).pinAll w l' true).onLease w i (fun l => { l with state := 2, waiter := none, last := s'.now })
    s.grantMore w i = if l.drv = true ∧ (u.world w).lreq.busy = true ∧ (u.world w).lreq.index = i then
        u.onWorld w (fun W => { W with lreq := { W.lreq with busy := false, result := 0 } })
      else u := by
  subst hl
  have now : (s'.onLease w i (fun _ => l')).now = s'.now := rfl
  simp [State.grantMore, h1, hf, hw, and_assoc, now]

theorem State.grantMore_of_page_faults {va : Nat} {e : WalkErr}
    (hw : State.walkPages w ((List.range l.len).drop l.walked) s l = (s', l', some (va, e))) :
    let u := s'.onLease w i (fun _ => l')
    s.grantMore w i = u.reportFault w (u.grantIndex l) (u.grantIndex l) l.tcid va e (if l.drv then 2 else 1) i 0 := by
  subst hl
  simp [State.grantMore, h1, hf, hw]

end Grant

theorem State.reportFault_eq (s : State) (w lease two tcid va : Nat) (e : WalkErr) (waiter entry core : Nat) :
    s.reportFault w lease two tcid va e waiter entry core = match e with
      | .one => s.reportOne w lease tcid va waiter entry core
      | .two g table => s.reportTwo w two tcid g table waiter entry core
      | .target g table => (s.reportTwo w two tcid g table waiter entry core).worldCause 0 { cause := 0x25, addr := g } := by
  cases e <;> rfl

/-! ### The driver's command (07 R164) -/

section Driver

variable {s : State} {w : Nat}

/-- The driver's command ends with a RESULT. -/
def State.endRequest (s : State) (w n : Nat) : State :=
  s.onWorld w (fun W => { W with lreq := { W.lreq with busy := false, result := n } })

theorem exec_driverLeaseRequest_of_idle (h : (s.world w).lreq.busy = false) : exec (.driverLeaseRequest w) s = .next s := by
  change execDriverLeaseRequest w s = _
  simp [execDriverLeaseRequest, h]

variable (hb : (s.world w).lreq.busy = true)
include hb

theorem exec_driverLeaseRequest_of_granting (h1 : ((s.world w).leases.getD (s.world w).lreq.index Lease0).state = 1)
    (hd : ((s.world w).leases.getD (s.world w).lreq.index Lease0).drv = true) :
    exec (.driverLeaseRequest w) s = .next (s.grantMore w (s.world w).lreq.index) := by
  change execDriverLeaseRequest w s = _
  simp [execDriverLeaseRequest, hb, h1, hd]

variable (hn : ¬ (((s.world w).leases.getD (s.world w).lreq.index Lease0).state = 1 ∧
  ((s.world w).leases.getD (s.world w).lreq.index Lease0).drv = true))
include hn

theorem exec_driverLeaseRequest_of_bad_length (h : (s.world w).lreq.len = 0 ∨ 2 ^ 36 < (s.world w).lreq.base + (s.world w).lreq.len) :
    exec (.driverLeaseRequest w) s = .next (s.endRequest w 3) := by
  change execDriverLeaseRequest w s = _
  simp only [execDriverLeaseRequest, hb, Bool.and_eq_true, Bool.or_eq_true, decide_eq_true_eq, hn, h, if_true, if_false]
  rfl

variable (h0 : 0 < (s.world w).lreq.len) (h36 : (s.world w).lreq.base + (s.world w).lreq.len ≤ 2 ^ 36)
include h0 h36

theorem exec_driverLeaseRequest_of_no_entry (h : (s.world w).freeEntry = none) :
    exec (.driverLeaseRequest w) s = .next (s.endRequest w 2) := by
  have good : ¬ ((s.world w).lreq.len = 0 ∨ 2 ^ 36 < (s.world w).lreq.base + (s.world w).lreq.len) := by omega
  change execDriverLeaseRequest w s = _
  simp only [execDriverLeaseRequest, hb, Bool.and_eq_true, Bool.or_eq_true, decide_eq_true_eq, hn, good, h, if_false]
  rfl

theorem exec_driverLeaseRequest_of_entry {i : Nat} (h : (s.world w).freeEntry = some i) :
    exec (.driverLeaseRequest w) s = .next ((s.onWorld w (fun W => { W with
      leases := W.leases.set i { Lease0 with
        state := 1, rw := W.lreq.acc, drv := true, base := W.lreq.base, tcid := W.lreq.tcid, len := W.lreq.len }
      lreq := { W.lreq with index := i, result := 1 } })).grantMore w i) := by
  have good : ¬ ((s.world w).lreq.len = 0 ∨ 2 ^ 36 < (s.world w).lreq.base + (s.world w).lreq.len) := by omega
  change execDriverLeaseRequest w s = _
  simp only [execDriverLeaseRequest, hb, Bool.and_eq_true, Bool.or_eq_true, decide_eq_true_eq, hn, good, h, if_false]
  rfl

end Driver

/-! ### Faults and their answers (07 R160, R161; 24 R471) -/

section Answers

variable {s : State} {w : Nat}

theorem exec_faultRetry (s : State) (w : Nat) :
    exec (.faultRetry w) s = .next (if (s.world w).flt.pend = true ∧ s.takesWrite w = true then s.nextOne w else s) := by
  change execFaultRetry w s = _
  simp only [execFaultRetry, Bool.and_eq_true]

theorem exec_faultAbort_of_not_answered (h : (s.world w).flt.pend = false ∨ s.takesWrite w = false) :
    exec (.faultAbort w) s = .next s := by
  change execFaultAbort w s = _
  rcases h with h | h <;> simp [execFaultAbort, h]

theorem exec_faultAbort_of_answered (hp : (s.world w).flt.pend = true) (ht : s.takesWrite w = true) :
    exec (.faultAbort w) s = .next ((s.nextOne w).denied w (s.world w).flt.waiter (s.world w).flt.entry (s.world w).flt.lease
      (s.world w).flt.core) := by
  change execFaultAbort w s = _
  simp [execFaultAbort, hp, ht]

theorem State.nextOne_of_none (h : (s.world w).fltNext = []) :
    s.nextOne w = s.onWorld w (fun W => { W with flt := { W.flt with pend := false } }) := by
  simp only [State.nextOne, h]

theorem State.nextOne_of_some {f : Flt} {fs : List Flt} (h : (s.world w).fltNext = f :: fs) :
    s.nextOne w = (s.onWorld w (fun W => { W with flt := f, fltNext := fs })).interrupt w 64 := by
  simp only [State.nextOne, h]

@[simp] theorem State.world_interrupt (s : State) (v n k : Nat) : (s.interrupt v n).world k = s.world k := rfl

theorem State.leases_nextOne (s : State) (w : Nat) : ((s.nextOne w).world w).leases = (s.world w).leases := by
  cases h : (s.world w).fltNext with
  | nil => rw [State.nextOne_of_none h, State.world_onWorld_self]
  | cons f fs => rw [State.nextOne_of_some h, State.world_interrupt, State.world_onWorld_self]

theorem exec_s2FaultRetry_of_answered (hp : s.s2f.pend = true) (ht : s.takesWrite 0 = true) :
    exec .s2FaultRetry s = .next ({ s with s2f := { s.s2f with pend := false, resp := 1 } } : State).nextTwo := by
  change execS2FaultRetry s = _
  simp [execS2FaultRetry, hp, ht]

theorem exec_s2FaultDeny_of_answered (hp : s.s2f.pend = true) (ht : s.takesWrite 0 = true) :
    exec .s2FaultDeny s = .next (({ s with s2f := { s.s2f with pend := false, resp := 2 } } : State).denied s.s2f.world s.s2f.waiter
      s.s2f.entry s.s2f.lease s.s2f.core).nextTwo := by
  change execS2FaultDeny s = _
  simp [execS2FaultDeny, hp, ht]

theorem exec_s2Fault_of_not_answered (h : s.s2f.pend = false ∨ s.takesWrite 0 = false) :
    exec .s2FaultRetry s = .next s ∧ exec .s2FaultDeny s = .next s := by
  change execS2FaultRetry s = _ ∧ execS2FaultDeny s = _
  rcases h with h | h <;> simp [execS2FaultRetry, execS2FaultDeny, h]

theorem State.nextTwo_of_none (h : s.s2fNext = []) : s.nextTwo = s := by
  simp only [State.nextTwo, h]

theorem State.nextTwo_of_some {f : Flt} {fs : List Flt} (h : s.s2fNext = f :: fs) (hb : s.s2Busy = false) :
    s.nextTwo = ({ s with s2f := f, s2fNext := fs } : State).interrupt 0 65 := by
  simp [State.nextTwo, h, hb]

end Answers

/-! ### Invalidation (07 R151, 24 R473) -/

theorem State.lockedWorld_fixTables (s : State) (w : Nat) : (s.fixTables w).lockedWorld w = s.lockedWorld w := by
  unfold State.lockedWorld State.fixTables
  split
  · rfl
  · rw [State.world_onWorld_self]

theorem exec_s2Invalidate_of_asked {s : State} {w : Nat} (h : (s.world w).trust.s2inv = true) : exec (.s2Invalidate w) s =
    .next ((if (s.world w).trust.s2tab.isSome then (s.dropTlb w (fun _ => true)).fixTables w else s.dropTlb w (fun _ => true)).onWorld w
      (fun W => { W with trust := { W.trust with
        s2inv := false, s2gen := if s.lockedWorld w then satN 32 (W.trust.s2gen + 1) else W.trust.s2gen } })) := by
  have locked : ∀ t : State, t = (if (s.world w).trust.s2tab.isSome then (s.dropTlb w (fun _ => true)).fixTables w else
      s.dropTlb w (fun _ => true)) → t.lockedWorld w = s.lockedWorld w := by
    rintro t rfl
    split
    · exact State.lockedWorld_fixTables _ w
    · rfl
  have tab : ((s.dropTlb w (fun _ => true)).world w).trust.s2tab = (s.world w).trust.s2tab := rfl
  change execS2Invalidate w s = _
  simp only [execS2Invalidate, h, tab, locked _ rfl]
  rfl

/-! ### Releases (07 R156) -/

section Release

variable {s : State} {w i : Nat} {l : Lease} (hl : (s.world w).leases.getD i Lease0 = l)
include hl

theorem exec_leaseRelease : exec (.leaseRelease w i) s =
    .next (if l.rel = true ∧ l.state = 2 ∧ l.users = 0 then s.freeLease w i else s) := by
  change execLeaseRelease w i s = _
  simp only [execLeaseRelease, hl, Bool.and_eq_true, decide_eq_true_eq, and_assoc, apply_ite Host.Outcome.next]

theorem exec_leaseReclaim : exec (.leaseReclaim w i) s =
    .next (if l.drv = false ∧ l.state = 2 ∧ l.users = 0 ∧ 10 ^ 8 ≤ s.now - l.last then s.freeLease w i else s) := by
  change execLeaseReclaim w i s = _
  simp only [execLeaseReclaim, hl, Bool.and_eq_true, Bool.not_eq_true', decide_eq_true_eq, and_assoc, apply_ite Host.Outcome.next]

end Release

/-- Settles O45: the clauses of a grant by the ends of its advance, those of an answer by who waits for it. -/
theorem leasesGrantAndRelease : Obligations.LeasesGrantAndRelease := by
  unfold Obligations.LeasesGrantAndRelease
  intro s s' w i l l'
  refine ⟨fun hl => ?entry, exec_driverLeaseRequest_of_idle, exec_driverLeaseRequest_of_granting, fun hb hn => ?request, ?idle, ?retry,
    ?refused, State.nextOne_of_none, fun f fs => State.nextOne_of_some, ?abort, fun hp ht => ?two, State.nextTwo_of_none,
    fun f fs => State.nextTwo_of_some, exec_s2Fault_of_not_answered, exec_s2Invalidate_of_asked⟩
  case entry =>
    have hl := hl.symm
    refine ⟨fun h => congrArg _ (State.grantMore_of_not_granting hl h), fun h1 =>
      ⟨fun hf => congrArg _ (State.grantMore_of_fault_stands hl hf), fun hf =>
        ⟨fun hw => congrArg _ (State.grantMore_of_walked hl h1 hf hw), fun va e hw => ⟨?_, State.reportFault_eq ..⟩⟩⟩,
      fun hr hs hu => ?_, fun h => ?_, fun hd hs hu ha => ?_, fun h => ?_⟩
    · exact congrArg _ (State.grantMore_of_page_faults hl h1 hf hw)
    · rw [exec_leaseRelease hl, if_pos ⟨hr, hs, hu⟩]
    · rw [exec_leaseRelease hl, if_neg]
      rintro ⟨hr, -, hu⟩
      rcases h with h | h
      · exact absurd (hr.symm.trans h) (by decide)
      · exact h hu
    · rw [exec_leaseReclaim hl, if_pos ⟨hd, hs, hu, ha⟩]
    · rw [exec_leaseReclaim hl, if_neg]
      rintro ⟨hd, -, hu, ha⟩
      rcases h with h | h | h
      · exact absurd (hd.symm.trans h) (by decide)
      · exact h hu
      · omega
  case request =>
    have fresh : ¬ (((s.world w).leases.getD (s.world w).lreq.index Lease0).state = 1 ∧
        ((s.world w).leases.getD (s.world w).lreq.index Lease0).drv = true) := by
      rwa [not_and_or, Bool.not_eq_true]
    exact ⟨exec_driverLeaseRequest_of_bad_length hb fresh, fun h0 h36 =>
      ⟨exec_driverLeaseRequest_of_no_entry hb fresh h0 h36, exec_driverLeaseRequest_of_entry hb fresh h0 h36⟩⟩
  case idle =>
    intro h
    rw [exec_faultRetry, if_neg (by simp [h])]
  case retry =>
    intro hp ht
    rw [exec_faultRetry, if_pos ⟨hp, ht⟩]
  case refused =>
    intro h
    exact ⟨by rw [exec_faultRetry, if_neg (by simp [h])], exec_faultAbort_of_not_answered (.inr h)⟩
  case abort =>
    refine ⟨fun h => exec_faultAbort_of_not_answered (.inl h), fun n ht hp hwait hn => ?_, fun ht hp hwait hn => ?_,
      fun ht hp hwait => ?_, fun ht hp hwait => ?_, fun ht hp hwait => ?_, fun ht hp hwait => ?_⟩ <;>
      rw [exec_faultAbort_of_answered hp ht, hwait]
    · simp [State.denied, State.leases_nextOne, hn]
    · simp [State.denied, State.leases_nextOne, hn]
    · rfl
    · rfl
    · rfl
    · rfl
  case two =>
    refine ⟨exec_s2FaultRetry_of_answered hp ht, fun hwait => ?_, fun hwait => ?_, fun hwait => ?_⟩ <;>
      rw [exec_s2FaultDeny_of_answered hp ht, hwait] <;> rfl

end Sys2Proof.Machine
end

section
/-! O51, first part: packing (20 R409-R411). Which core a troupe goes to, which slice a company goes to, and what every plan of a
world keeps: its slices are those that are open for placement. -/

namespace Sys2Proof

/-! ### The keys of a table -/

theorem Tab.mem_keys_of_mem {α : Type} {t : Tab α} {k : Nat} {x : α} (h : (k, x) ∈ t) : k ∈ Tab.keys t := List.mem_map_of_mem h

theorem Tab.keys_set_subset {α : Type} (t : Tab α) (n : Nat) (x : α) :
    ∀ k ∈ Tab.keys (Tab.set t n x), k = n ∨ k ∈ Tab.keys t := by
  induction t with
  | nil => simp [Tab.set, Tab.keys]
  | cons e t ih =>
    intro k hk
    unfold Tab.set at hk
    simp only [Tab.keys] at *
    split at hk
    · exact List.mem_cons.mp hk
    · split at hk
      · exact (List.mem_cons.mp hk).imp_right (List.mem_cons_of_mem _)
      · rcases List.mem_cons.mp hk with h | h
        · exact .inr (h ▸ List.mem_cons_self)
        · exact (ih k h).imp_right (List.mem_cons_of_mem _)

theorem Tab.keys_adjust {α : Type} (t : Tab α) (n : Nat) (f : α → α) : Tab.keys (Tab.adjust t n f) = Tab.keys t := by
  simp only [Tab.keys, Tab.adjust, List.map_map]
  refine List.map_congr_left fun e _ => ?_
  simp only [Function.comp_apply]
  split <;> rfl

namespace Machine

/-! ### The core of a troupe (20 R410) -/

/-- Core `i` against the best of those before it. -/
def betterCore (d : Desc) (loads : List Load) (best : Option Nat) (i : Nat) : Option Nat :=
  if !((loads.getD i Load0).of d).ok then best
  else match best with
    | none => some i
    | some j => if (loads.getD i Load0).sets < (loads.getD j Load0).sets then some i else some j

theorem bestCore_eq (d : Desc) (loads : List Load) : bestCore d loads = (List.range 16).foldl (betterCore d loads) none := rfl

/-- Among the first `n` cores, the one that holds the fewest sets of those that can take a troupe, the lower first. -/
def FirstOfBest (d : Desc) (loads : List Load) (n : Nat) : Option Nat → Prop
  | none => ∀ m < n, ((loads.getD m Load0).of d).ok = false
  | some j => j < n ∧ ((loads.getD j Load0).of d).ok = true ∧ ∀ m < n, ((loads.getD m Load0).of d).ok = true →
      (loads.getD j Load0).sets ≤ (loads.getD m Load0).sets ∧ ((loads.getD m Load0).sets = (loads.getD j Load0).sets → j ≤ m)

theorem FirstOfBest.betterCore {d : Desc} {loads : List Load} {n : Nat} {best : Option Nat} (h : FirstOfBest d loads n best) :
    FirstOfBest d loads (n + 1) (betterCore d loads best n) := by
  unfold Machine.betterCore
  cases hok : ((loads.getD n Load0).of d).ok with
  | false =>
    cases best with
    | none => exact fun m hm => (Nat.lt_succ_iff_lt_or_eq.mp hm).elim (h m) (fun he => he ▸ hok)
    | some j =>
      obtain ⟨hj, hjok, hmin⟩ := h
      refine ⟨by omega, hjok, fun m hm hmok => ?_⟩
      rcases Nat.lt_succ_iff_lt_or_eq.mp hm with hm | rfl
      · exact hmin m hm hmok
      · exact absurd (hmok.symm.trans hok) (by decide)
  | true =>
    cases best with
    | none =>
      refine ⟨by omega, hok, fun m hm hmok => ?_⟩
      rcases Nat.lt_succ_iff_lt_or_eq.mp hm with hm | rfl
      · exact absurd (hmok.symm.trans (h m hm)) (by decide)
      · exact ⟨le_rfl, fun _ => le_rfl⟩
    | some j =>
      obtain ⟨hj, hjok, hmin⟩ := h
      by_cases hlt : (loads.getD n Load0).sets < (loads.getD j Load0).sets
      · simp only [hlt, Bool.not_true, Bool.false_eq_true, if_true, if_false]
        refine ⟨by omega, hok, fun m hm hmok => ?_⟩
        rcases Nat.lt_succ_iff_lt_or_eq.mp hm with hm | rfl
        · have := (hmin m hm hmok).1
          omega
        · exact ⟨le_rfl, fun _ => le_rfl⟩
      · simp only [hlt, Bool.not_true, Bool.false_eq_true, if_false]
        refine ⟨by omega, hjok, fun m hm hmok => ?_⟩
        rcases Nat.lt_succ_iff_lt_or_eq.mp hm with hm | rfl
        · exact hmin m hm hmok
        · exact ⟨by omega, fun _ => by omega⟩

theorem firstOfBest_bestCore (d : Desc) (loads : List Load) : FirstOfBest d loads 16 (bestCore d loads) := by
  have upTo (n : Nat) : FirstOfBest d loads n ((List.range n).foldl (betterCore d loads) none) := by
    induction n with
    | zero => exact fun m hm => absurd hm (Nat.not_lt_zero m)
    | succ n ih =>
      rw [List.range_succ, List.foldl_append]
      exact ih.betterCore
  exact upTo 16

theorem bestCore_lt {d : Desc} {loads : List Load} {j : Nat} (h : bestCore d loads = some j) : j < 16 := by
  have best := firstOfBest_bestCore d loads
  rw [h] at best
  exact best.1

/-- A company has one core of the slice for each of its troupes. -/
theorem packTroupes_spec {d : Desc} {n : Nat} {loads l : List Load} {is : List Nat} (h : packTroupes d n loads = some (is, l)) :
    is.length = n ∧ ∀ i ∈ is, i < 16 := by
  induction n generalizing loads l is with
  | zero =>
    cases h
    exact ⟨rfl, fun i hi => absurd hi List.not_mem_nil⟩
  | succ n ih =>
    unfold packTroupes at h
    split at h
    · cases h
    · rename_i i hi
      split at h
      · rename_i js l' hrest
        cases h
        obtain ⟨hlen, hlt⟩ := ih hrest
        exact ⟨congrArg (· + 1) hlen, List.forall_mem_cons.mpr ⟨bestCore_lt hi, hlt⟩⟩
      · cases h

/-! ### The slice of a company (20 R411) -/

/-- A slice against the best of those before it: its free set slots, its number, and the company packed onto it. -/
def betterSlice (d : Desc) (best : Option (Nat × Nat × List Nat × List Load)) (e : Nat × List Load) :
    Option (Nat × Nat × List Nat × List Load) :=
  match packTroupes d d.troupes e.2 with
  | none => best
  | some (is, l) =>
    match best with
    | none => some (freeSets e.2, e.1, is, l)
    | some b => if b.1 < freeSets e.2 then some (freeSets e.2, e.1, is, l) else some b

theorem Plan.core_eq (P : Plan) (d : Desc) : P.core d =
    (P.cores.foldl (betterSlice d) none).map (fun b =>
      (b.2.2.1.map (fun i => Place.core (16 * b.2.1 + i)), { P with cores := P.cores.set b.2.1 b.2.2.2 })) := rfl

/-- Among slices, one with the most free set slots of those that can take a company. -/
def FreestOf (d : Desc) (es : List (Nat × List Load)) : Option (Nat × Nat × List Nat × List Load) → Prop
  | none => ∀ e ∈ es, packTroupes d d.troupes e.2 = none
  | some (free, k, is, l) => ∃ loads, (k, loads) ∈ es ∧ packTroupes d d.troupes loads = some (is, l) ∧ free = freeSets loads ∧
      ∀ e ∈ es, (packTroupes d d.troupes e.2).isSome = true → freeSets e.2 ≤ free

theorem FreestOf.betterSlice {d : Desc} {es : List (Nat × List Load)} {best : Option (Nat × Nat × List Nat × List Load)}
    (h : FreestOf d es best) (e : Nat × List Load) : FreestOf d (es ++ [e]) (betterSlice d best e) := by
  unfold Machine.betterSlice
  cases hp : packTroupes d d.troupes e.2 with
  | none =>
    have unfit : ¬ (packTroupes d d.troupes e.2).isSome = true := by simp [hp]
    cases best with
    | none => exact List.forall_mem_append.mpr ⟨h, List.forall_mem_singleton.mpr hp⟩
    | some b =>
      obtain ⟨loads, hmem, hpack, hfree, hmax⟩ := h
      exact ⟨loads, List.mem_append_left _ hmem, hpack, hfree,
        List.forall_mem_append.mpr ⟨hmax, List.forall_mem_singleton.mpr fun hfit => absurd hfit unfit⟩⟩
  | some p =>
    have hmem : (e.1, e.2) ∈ es ++ [e] := by simp
    cases best with
    | none =>
      refine ⟨e.2, hmem, hp, rfl, List.forall_mem_append.mpr ⟨fun x hx hfit => ?_, List.forall_mem_singleton.mpr fun _ => le_rfl⟩⟩
      rw [h x hx] at hfit
      cases hfit
    | some b =>
      obtain ⟨loads, hin, hpack, hfree, hmax⟩ := h
      by_cases hlt : b.1 < freeSets e.2
      · simp only [hlt, if_true]
        exact ⟨e.2, hmem, hp, rfl, List.forall_mem_append.mpr
          ⟨fun x hx hfit => (hmax x hx hfit).trans hlt.le, List.forall_mem_singleton.mpr fun _ => le_rfl⟩⟩
      · simp only [hlt, if_false]
        exact ⟨loads, List.mem_append_left _ hin, hpack, hfree,
          List.forall_mem_append.mpr ⟨hmax, List.forall_mem_singleton.mpr fun _ => Nat.le_of_not_lt hlt⟩⟩

theorem freestOf_foldl (d : Desc) (es : List (Nat × List Load)) : FreestOf d es (es.foldl (betterSlice d) none) := by
  induction es using List.reverseRecOn with
  | nil => exact fun e he => absurd he List.not_mem_nil
  | append_singleton es e ih =>
    rw [List.foldl_append]
    exact ih.betterSlice e

/-- A core company stands on the cores of one slice, which of the slices that can take it has the most free set slots. -/
theorem Plan.core_spec {P P' : Plan} {d : Desc} {ps : List Place} (h : P.core d = some (ps, P')) :
    ∃ k loads is l', (k, loads) ∈ P.cores ∧ packTroupes d d.troupes loads = some (is, l') ∧
      ps = is.map (fun j => Place.core (16 * k + j)) ∧ P' = { P with cores := P.cores.set k l' } ∧
      ∀ e ∈ P.cores, (packTroupes d d.troupes e.2).isSome = true → freeSets e.2 ≤ freeSets loads := by
  rw [Plan.core_eq] at h
  obtain ⟨⟨free, k, is, l'⟩, hbest, hps⟩ := Option.map_eq_some_iff.mp h
  have freest := freestOf_foldl d P.cores
  rw [hbest] at freest
  obtain ⟨loads, hin, hpack, rfl, hmax⟩ := freest
  cases hps
  exact ⟨k, loads, is, l', hin, hpack, rfl, rfl, hmax⟩

/-! ### Companies one after another -/

theorem Plan.company_of_core {P : Plan} {L : Launch} (h : L.isMicro = false) (c : Nat) : P.company L c = P.core L.desc := by
  simp [Plan.company, h]

theorem Plan.companies_cons {P : Plan} {L : Launch} {c : Nat} {cs : List Nat} {ps : List (Nat × List Place)}
    (h : P.companies L (c :: cs) = some ps) :
    ∃ qs P' rest, P.company L c = some (qs, P') ∧ P'.companies L cs = some rest ∧ ps = (c, qs) :: rest := by
  unfold Plan.companies at h
  split at h
  · cases h
  · rename_i qs P' hq
    obtain ⟨rest, hrest, rfl⟩ := Option.map_eq_some_iff.mp h
    exact ⟨qs, P', rest, hq, hrest, rfl⟩

theorem Plan.companies_numbers {P : Plan} {L : Launch} {cs : List Nat} {ps : List (Nat × List Place)} (h : P.companies L cs = some ps) :
    ps.map (·.1) = cs := by
  induction cs generalizing P ps with
  | nil =>
    cases h
    rfl
  | cons c cs ih =>
    obtain ⟨qs, P', rest, -, hrest, rfl⟩ := Plan.companies_cons h
    exact congrArg (c :: ·) (ih hrest)

/-- Each company of a core kernel has a core of one slice of the plan for each of its troupes. -/
theorem Plan.companies_places {P : Plan} {L : Launch} {cs ks : List Nat} {ps : List (Nat × List Place)} (hL : L.isMicro = false)
    (hks : Tab.keys P.cores ⊆ ks) (h : P.companies L cs = some ps) :
    ∀ p ∈ ps, p.2.length = L.desc.troupes ∧ ∃ k ∈ ks, ∀ x ∈ p.2, ∃ j, j < 16 ∧ x = .core (16 * k + j) := by
  induction cs generalizing P ps with
  | nil =>
    cases h
    exact fun p hp => absurd hp List.not_mem_nil
  | cons c cs ih =>
    obtain ⟨qs, P', rest, hq, hrest, rfl⟩ := Plan.companies_cons h
    rw [Plan.company_of_core hL] at hq
    obtain ⟨k, loads, is, l', hin, hpack, rfl, rfl, -⟩ := Plan.core_spec hq
    obtain ⟨hlen, hlt⟩ := packTroupes_spec hpack
    have hk : k ∈ ks := hks (Tab.mem_keys_of_mem hin)
    refine List.forall_mem_cons.mpr ⟨⟨by simp [hlen], k, hk, fun x hx => ?_⟩, ih (fun n hn => ?_) hrest⟩
    · obtain ⟨j, hj, rfl⟩ := List.mem_map.mp hx
      exact ⟨j, hlt j hj, rfl⟩
    · rcases Tab.keys_set_subset _ _ _ n hn with rfl | hn
      · exact hk
      · exact hks hn

/-! ### The plan of a world -/

theorem Plan.keys_take (P : Plan) (p : Place) (ended : Bool) (d : Desc) : Tab.keys (P.take p ended d).cores = Tab.keys P.cores := by
  cases p with
  | core n => simp only [Plan.take, Tab.keys_adjust]
  | unit k u => rfl

theorem Plan.keys_foldl {α : Type} {f : Plan → α → Plan} (h : ∀ P x, Tab.keys (f P x).cores = Tab.keys P.cores) (xs : List α)
    (P : Plan) : Tab.keys (xs.foldl f P).cores = Tab.keys P.cores :=
  List.foldlRecOn (motive := fun Q : Plan => Tab.keys Q.cores = Tab.keys P.cores) xs f rfl fun Q hQ x _ => (h Q x).trans hQ

theorem State.keys_planOf (s : State) (w : Nat) : Tab.keys (s.planOf w).cores = s.openSlices w := by
  have empty : Tab.keys (emptyPlan (s.openSlices w)).cores = s.openSlices w := by simp [Tab.keys, emptyPlan, Function.comp_def]
  unfold State.planOf
  rw [Plan.keys_foldl fun P c => Plan.keys_foldl (fun P p => Plan.keys_take ..) _ _, Plan.keys_foldl fun P e => Plan.keys_take ..,
    Plan.keys_foldl fun P e => Plan.keys_take .., empty]

end Machine
end Sys2Proof
end

section
/-! O51, second part: the events of a launch (07 R159; 09 R211; 20 R408-R413, R419-R422; 21 R433, R437, R496; 05 R97), each by one equation
for each way in which it ends. -/

namespace Sys2Proof

theorem Tab.set_set {α : Type} (t : Tab α) (n : Nat) (x y : α) : Tab.set (Tab.set t n x) n y = Tab.set t n y := by
  induction t with
  | nil => simp [Tab.set]
  | cons e t ih =>
    simp only [Tab.set]
    split
    · simp [Tab.set]
    · split
      · simp [Tab.set]
      · simp [Tab.set, *]

namespace Machine

theorem State.onWorld_onWorld (s : State) (w : Nat) (f g : World → World) :
    (s.onWorld w f).onWorld w g = s.onWorld w (fun W => g (f W)) := by
  simp only [State.onWorld, State.world, Tab.getD_set_self, Tab.set_set]

/-! ### Admission (21 R433) -/

section Admission

variable {s : State} {l : Nat} {L : Launch}

theorem State.checkLaunch_of_bad_record (h : recordBad L.words = true) : s.checkLaunch l L = s.refuse l 1 0 := by
  simp [State.checkLaunch, h]

section Good

/-! A launch that passes the checks of its own objects is refused for its size, or goes on to its leases. -/

variable (hr : recordBad L.words = false) (hd : L.desc.bad = none)
  (hl : ∀ h ∈ L.desc.layouts, ((s.world L.world).layouts.get? h).isSome = true) (hg : s.rangeBad l L = none)
  (hb : L.leaseBad = none) (hs : L.stageBad = none) (ho : L.owned = true) (hw : s.owned L.world ≠ [])
include hl

theorem State.firstBad_layouts_of_known : firstBad (fun h => ((s.world L.world).layouts.get? h).isNone) L.desc.layouts = none :=
  List.findIdx?_eq_none_iff.mpr fun h hh => by simpa using hl h hh

include hr hd hg hb hs ho hw

theorem State.checkLaunch_of_unfit {d : Nat} (hf : s.neverFits L = some d) : s.checkLaunch l L = s.refuse l 8 d := by
  simp [State.checkLaunch, hr, hd, State.firstBad_layouts_of_known hl, hg, hb, hs, ho, hw, hf]

theorem State.checkLaunch_of_fit (hf : s.neverFits L = none) : s.checkLaunch l L =
    s.onLaunch l (fun L => { L with stage := .granting 0, uses := [], wins := [], rngs := [] }) := by
  simp [State.checkLaunch, hr, hd, State.firstBad_layouts_of_known hl, hg, hb, hs, ho, hw, hf]

end Good

variable (hL : s.launches.get? l = some L) (he : L.ending = false)
include hL he

theorem exec_launchAdmission_of_checks (hs : L.stage = .admission) : exec (.launchAdmission l) s = .next (s.checkLaunch l L) := by
  change execLaunchAdmission l s = _
  simp only [execLaunchAdmission, hL, he, hs]
  rfl

theorem exec_launchAdmission_of_lease {n : Nat} {e : Nat × Nat × Nat × Nat} (hs : L.stage = .granting n)
    (hn : L.desc.leases[n]? = some e) : exec (.launchAdmission l) s = .next (s.bindLease l L n e) := by
  change execLaunchAdmission l s = _
  simp [execLaunchAdmission, hL, he, hs, hn]

theorem exec_launchAdmission_of_granted {n : Nat} (hs : L.stage = .granting n) (hn : L.desc.leases[n]? = none) :
    exec (.launchAdmission l) s = .next (s.admitted l L) := by
  change execLaunchAdmission l s = _
  simp [execLaunchAdmission, hL, he, hs, hn]

end Admission

/-! ### The decision (20 R408, R418) -/

/-- The companies that have ended leave before a decision is taken. -/
def State.endOf (s : State) (w : Nat) : State :=
  (Tab.keys (s.launches.filter (fun e => e.2.world == w && !e.2.ending))).foldl (fun s l => s.endCompanies l) s

theorem State.endOf_of_no_launch {s : State} {w : Nat} (h : ∀ e ∈ s.launches, e.2.world ≠ w) : s.endOf w = s := by
  have none : s.launches.filter (fun e => e.2.world == w && !e.2.ending) = [] := by
    rw [List.filter_eq_nil_iff]
    intro e he
    simp [h e he]
  simp [State.endOf, none, Tab.keys]

theorem exec_placementDecision_of_closed {s : State} {w : Nat} (h : (s.endOf w).quiescing w = true ∨ (s.endOf w).accepts w = false) :
    exec (.placementDecision w) s = .next (s.endOf w) := by
  unfold State.endOf at h ⊢
  change execPlacementDecision w s = _
  rcases h with h | h <;> simp [execPlacementDecision, h]

theorem exec_placementDecision_of_open {s : State} {w : Nat} (hq : (s.endOf w).quiescing w = false) (ha : (s.endOf w).accepts w = true) :
    exec (.placementDecision w) s = .next ((State.rounds w [0, 1, 2, 3]
      ((if (s.endOf w).worldQuiet w then (s.endOf w).performMoves w else s.endOf w).takeBudgets w)).noteWaits w) := by
  unfold State.endOf at hq ha ⊢
  change execPlacementDecision w s = _
  simp [execPlacementDecision, hq, ha]

/-! ### The visit of a queue (20 R423) -/

/-- The set slots that a head takes. -/
def Head.cost (h : Head) (L : Launch) : Nat := h.companies.length * L.desc.sets * L.desc.troupes

section Spend

variable {s : State} {w l : Nat} {h : Head} {L : Launch} (hh : s.headOf w l = some h) (hL : s.launches.get? h.launch = some L)
include hh hL

theorem State.spend_of_closed_gate (fuel : Nat) {g : Nat} (hg : s.gate w L h = .error g) : State.spend w l (fuel + 1) s = s := by
  simp [State.spend, hh, hL, hg]

variable {ps : List (Nat × List Place)} {n : Nat} (hg : s.gate w L h = .ok ps) (hn : s.slotOf L = some n)
include hg hn

theorem State.spend_of_small_deficit (fuel : Nat) (hd : (s.slot n).deficit < h.cost L) : State.spend w l (fuel + 1) s = s := by
  unfold Head.cost at hd
  simp [State.spend, hh, hL, hg, hn, hd]

theorem State.spend_of_deficit (fuel : Nat) (hd : h.cost L ≤ (s.slot n).deficit) : State.spend w l (fuel + 1) s =
    State.spend w l fuel (((s.placeHead h.launch L h ps).onSlot n (fun q =>
      { q with deficit := q.deficit - h.cost L, eprio := q.prio, waited := 0, reserved := false })).onWorld w (fun W =>
        { W with budget := { W.budget with last := L.slot + 1 } })) := by
  unfold Head.cost at hd ⊢
  simp [State.spend, hh, hL, hg, hn, Nat.not_lt.mpr hd]

end Spend

/-- The places that the gate gives are those of the plan of the world. -/
theorem State.companies_of_gate {s : State} {w : Nat} {L : Launch} {h : Head} {ps : List (Nat × List Place)}
    (hg : s.gate w L h = .ok ps) : (s.planOf w).companies L h.companies = some ps := by
  unfold State.gate at hg
  generalize (if s.worldIdle w then h.companies.drop 1 else h.companies) = paying at hg
  dsimp only at hg
  split_ifs at hg
  split at hg
  · rename_i qs hq
    cases hg
    exact hq
  · cases hg

/-! ### The troupes of a new company (20 R412) -/

/-- A troupe is placed under the next number. -/
def State.addTroupe (s : State) (T : Troupe) : State :=
  { s with troupes := s.troupes.set s.nextId T, nextId := s.nextId + 1 }

theorem State.createCompany_eq (s : State) (l : Nat) (L : Launch) (c : Nat) (ps : List Place) :
    s.createCompany l L c ps = (ps.mapIdx (fun j x => L.troupe l c j x)).foldl State.addTroupe s := by
  have numbered : ps.mapIdx (fun j x => L.troupe l c j x) = ((List.range ps.length).zip ps).map (fun e => L.troupe l c e.1 e.2) :=
    List.ext_getElem (by simp) (by simp)
  rw [numbered, List.foldl_map]
  rfl

theorem State.troupes_addTroupes (Ts : List Troupe) (s : State) : (Ts.foldl State.addTroupe s).troupes =
    (Ts.mapIdx (fun j T => (s.nextId + j, T))).foldl (fun (m : Tab Troupe) e => Tab.set m e.1 e.2) s.troupes := by
  induction Ts generalizing s with
  | nil => rfl
  | cons T Ts ih =>
    rw [List.foldl_cons, ih, List.mapIdx_cons, List.foldl_cons]
    simp [State.addTroupe, Nat.add_assoc, Nat.add_comm 1]

/-- Translations enter the TLBs of clusters and touch nothing else of a placement. -/
theorem State.warm_keeps (s : State) (L : Launch) (ps : List Place) :
    (s.warm L ps).troupes = s.troupes ∧ (s.warm L ps).nextId = s.nextId := by
  have one (t : State) (c va : Nat) :
      (t.toTlb c L.world L.tcid va).troupes = t.troupes ∧ (t.toTlb c L.world L.tcid va).nextId = t.nextId := by
    unfold State.toTlb
    split
    · exact ⟨rfl, rfl⟩
    · exact ⟨rfl, rfl⟩
  refine List.foldlRecOn (motive := fun t : State => t.troupes = s.troupes ∧ t.nextId = s.nextId) _ _ ⟨rfl, rfl⟩ fun t ht c _ => ?_
  exact List.foldlRecOn (motive := fun u : State => u.troupes = s.troupes ∧ u.nextId = s.nextId) _ _ ht fun u hu va _ =>
    ⟨(one u c va).1.trans hu.1, (one u c va).2.trans hu.2⟩

theorem State.troupes_placeHead {s : State} {l : Nat} {L : Launch} {h : Head} (ps : List (Nat × List Place)) (hs : h.saved = false) :
    (s.placeHead l L h ps).troupes =
      ((ps.flatMap (fun p => p.2.mapIdx (fun j x => L.troupe l p.1 j x))).mapIdx (fun j T => (s.nextId + j, T))).foldl
        (fun (m : Tab Troupe) e => Tab.set m e.1 e.2) s.troupes := by
  have companies (u : State) : ps.foldl (fun (s : State) p => s.createCompany l L p.1 p.2) u =
      (ps.flatMap (fun p => p.2.mapIdx (fun j x => L.troupe l p.1 j x))).foldl State.addTroupe u := by
    simp only [State.createCompany_eq, List.foldl_flatMap]
  unfold State.placeHead
  simp only [hs, Bool.false_eq_true, if_false, State.onLaunch_troupes, companies, State.troupes_addTroupes]
  rw [(State.warm_keeps _ L _).1, (State.warm_keeps _ L _).2]
  rfl

/-! ### Staging and the start (07 R159, 09 R211) -/

section Staging

variable {s : State} {t : Nat} {T : Troupe} (hT : s.troupes.get? t = some T)
include hT

theorem exec_stagingCopy_of_staged (h : T.staged = true) : exec (.stagingCopy t) s = .next s := by
  change execStagingCopy t s = _
  simp [execStagingCopy, hT, h]

section Unstaged

variable (he : (s.launchOf T).ending = false) (hs : T.staged = false)
include he hs

theorem exec_stagingCopy_of_unit (hu : T.place.isUnit = true) :
    exec (.stagingCopy t) s = .next (s.onTroupe t (fun T => { T with staged := true })) := by
  change execStagingCopy t s = _
  simp [execStagingCopy, hT, he, hs, hu]

variable {s1 : State} {T' : Troupe} (hu : T.place.isUnit = false)
include hu

theorem exec_stagingCopy_of_copied
    (hc : State.stageAll (s.launchOf T) ((s.launchOf T).stagePieces.drop T.stagedTo) s T = (s1, T', none)) : exec (.stagingCopy t) s =
      .next (s1.onTroupe t (fun T => { T with spad := T'.spad, staged := true, stagedTo := T'.stagedTo })) := by
  change execStagingCopy t s = _
  simp [execStagingCopy, hT, he, hs, hu, hc]

/-- A translation fault keeps what has been copied, and is reported unless it waits for its answer already. -/
theorem exec_stagingCopy_of_fault {n va : Nat} {e : WalkErr}
    (hc : State.stageAll (s.launchOf T) ((s.launchOf T).stagePieces.drop T.stagedTo) s T = (s1, T', some (n, .translate va e))) :
    let s2 := s1.onTroupe t (fun T => { T with spad := T'.spad, stagedTo := T'.stagedTo })
    exec (.stagingCopy t) s = .next (if s2.faultStands (s.launchOf T).world 4 T.launch n then s2
      else s2.reportFault (s.launchOf T).world 31 31 (s.launchOf T).tcid va e 4 T.launch n) := by
  change execStagingCopy t s = _
  simp [execStagingCopy, hT, he, hs, hu, hc, apply_ite Host.Outcome.next]

end Unstaged

theorem exec_troupeStart_of_unstaged (h : ∃ e ∈ s.troupes, e.2.launch = T.launch ∧ e.2.staged = false) :
    exec (.troupeStart t) s = .next s := by
  obtain ⟨e, hin, hl, hs⟩ := h
  have waits : (s.troupesOf T.launch).all (fun e => e.2.staged) = false :=
    List.all_eq_false.mpr ⟨e, List.mem_filter.mpr ⟨hin, by simp [hl]⟩, by simp [hs]⟩
  change execTroupeStart t s = _
  simp [execTroupeStart, hT, waits]

theorem exec_troupeStart_of_staged (hn : T.started = false) (he : (s.launchOf T).ending = false)
    (h : ∀ e ∈ s.troupes, e.2.launch = T.launch → e.2.staged = true) : exec (.troupeStart t) s =
      .next (s.onTroupe t (fun T => { T with
        started := true
        setTab := T.setTab.map (fun (e : Nat × SetState) =>
          (e.1, { e.2 with threads := e.2.threads.map (fun th => { th with since := s.cycle.toNat }) })) })) := by
  have ready : (s.troupesOf T.launch).all (fun e => e.2.staged) = true := by
    refine List.all_eq_true.mpr fun e he => ?_
    obtain ⟨hin, hl⟩ := List.mem_filter.mp he
    exact h e hin (by simpa using hl)
  change execTroupeStart t s = _
  simp [execTroupeStart, hT, hn, he, ready]

end Staging

/-! ### The end of a run (20 R413, 21 R496) -/

theorem State.launches_unseal (s : State) (w : Nat) (is : List Nat) : (s.unseal w is).launches = s.launches :=
  List.foldlRecOn (motive := fun u : State => u.launches = s.launches) is _ rfl fun _ hu _ _ => hu

theorem State.launches_dropHeld (s : State) (t : Nat) (T : Troupe) : (s.dropHeld t T).launches = s.launches := by
  unfold State.dropHeld
  dsimp only
  split
  · rfl
  · exact List.foldlRecOn (motive := fun u : State => u.launches = s.launches) _ _ rfl
      fun u hu e _ => (u.launches_unseal _ _).trans hu

/-- A launch that ends drops the held copies of its troupes first (08 R196, 09 R211). -/
def State.dropHelds (s : State) (l : Nat) : State := (s.troupesOf l).foldl (fun s e => s.dropHeld e.1 e.2) s

theorem State.launches_dropHelds (s : State) (l : Nat) : (s.dropHelds l).launches = s.launches :=
  List.foldlRecOn (motive := fun u : State => u.launches = s.launches) _ _ rfl fun u hu e _ => (u.launches_dropHeld e.1 e.2).trans hu

section RunEnd

variable {s : State} {l : Nat} {L : Launch} (hL : s.launches.get? l = some L)
include hL

theorem exec_gridRunEnd_of_done (hs : L.stage = .done) : exec (.gridRunEnd l) s = .next (s.complete l) := by
  change execGridRunEnd l s = _
  simp [execGridRunEnd, hL, hs]

section Ending

variable (he : L.ending = true) (hs : L.stage ≠ .done)
include he hs

theorem exec_gridRunEnd_of_busy (h : (s.dropHelds l).runQuiet l = false ∨ (s.dropHelds l).enginesDone l = false) :
    exec (.gridRunEnd l) s = .next (s.dropHelds l) := by
  have hL' : (s.dropHelds l).launches.get? l = some L := (congrArg (Tab.get? · l) (s.launches_dropHelds l)).trans hL
  unfold State.dropHelds at h hL' ⊢
  change execGridRunEnd l s = _
  rcases h with h | h <;> simp [execGridRunEnd, hL, hL', he, hs, h]

theorem exec_gridRunEnd_of_quiet (hq : (s.dropHelds l).runQuiet l = true) (hd : (s.dropHelds l).enginesDone l = true) :
    let s1 := s.dropHelds l
    let s2 := (s1.troupesOf l).foldl (fun s e => s.dropTroupe e.1) (s1.uncharge l (s1.companiesOf l))
    exec (.gridRunEnd l) s = .next (((s2.releaseRun l).freeContexts l).complete l) := by
  have hL' : (s.dropHelds l).launches.get? l = some L := (congrArg (Tab.get? · l) (s.launches_dropHelds l)).trans hL
  unfold State.dropHelds at hq hd hL' ⊢
  change execGridRunEnd l s = _
  simp [execGridRunEnd, hL, hL', he, hs, hq, hd, Tab.keys, List.foldl_map]

end Ending

variable (he : L.ending = false) (ht : s.troupesOf l = []) (hs : L.stage = .running) (hn : L.next = L.companies)
  (hd : L.ended = L.companies) (hc : L.saved = []) (hq : s.runQuiet l = true)
include he ht hs hn hd hc hq

/-- A run whose companies have all ended gives back what it took, and its launch completes or starts its prologue again. -/
theorem exec_gridRunEnd_of_ended :
    let s1 := (s.releaseRun l).onLaunch l (fun L => { L with runs := (L.runs + 1) % 2 ^ 32 })
    exec (.gridRunEnd l) s = .next (if L.again then s1.onLaunch l (fun L => Launch.prologueRun { L with next := 0, ended := 0 })
      else (s1.onLaunch l (fun L => { L with ending := true })).complete l) := by
  have stays : s.endCompanies l = s := by simp [State.endCompanies, ht, addAll]
  change execGridRunEnd l s = _
  simp [execGridRunEnd, hL, he, hs, stays, hn, hd, hc, hq, apply_ite Host.Outcome.next]

end RunEnd

/-! ### Promotion (20 R422) -/

theorem exec_priorityPromotion_of_early {s : State} {i : Nat}
    (h : (s.slot i).waited = 0 ∨ s.now < (s.slot i).waited - 1 + s.ctl.promo * 1000000) : exec (.priorityPromotion i) s = .next s := by
  change execPriorityPromotion i s = _
  rcases h with h | h <;> simp [execPriorityPromotion, h]

theorem exec_priorityPromotion_of_due {s : State} {i : Nat} (h0 : (s.slot i).waited ≠ 0)
    (h : (s.slot i).waited - 1 + s.ctl.promo * 1000000 ≤ s.now) : exec (.priorityPromotion i) s =
      .next (s.onSlot i (fun q => { q with eprio := q.eprio - 1, reserved := true, waited := 1 + s.now })) := by
  change execPriorityPromotion i s = _
  simp [execPriorityPromotion, h0, Nat.not_lt.mpr h]

/-! ### Pacing (20 R419, R421) -/

/-- A core of a world that is over its budgets is paced, and one of a world within them is not. -/
def paceCore (beyond : Bool) (m : Tab Core) (c : Nat) : Tab Core :=
  if beyond || (Tab.getD m c Core0).paced then Tab.set m c { Tab.getD m c Core0 with paced := beyond } else m

theorem paced_paceCore_self (beyond : Bool) (m : Tab Core) (c : Nat) : (Tab.getD (paceCore beyond m c) c Core0).paced = beyond := by
  unfold paceCore
  split
  · rw [Tab.getD_set_self]
  · rename_i h
    simp only [Bool.not_eq_true, Bool.or_eq_false_iff] at h
    exact h.2.trans h.1.symm

theorem paced_paceCore_of_paced {beyond : Bool} {m : Tab Core} {n : Nat} (c : Nat) (h : (Tab.getD m n Core0).paced = beyond) :
    (Tab.getD (paceCore beyond m c) n Core0).paced = beyond := by
  by_cases hn : n = c
  · subst hn
    exact paced_paceCore_self beyond m n
  · unfold paceCore
    split
    · rwa [Tab.getD_set_ne _ _ _ hn]
    · exact h

theorem paced_paceCores {beyond : Bool} {cs : List Nat} {c : Nat} (h : c ∈ cs) (m : Tab Core) :
    (Tab.getD (cs.foldl (paceCore beyond) m) c Core0).paced = beyond := by
  induction cs generalizing m with
  | nil => cases h
  | cons d cs ih =>
    rcases List.mem_cons.mp h with rfl | h
    · exact List.foldlRecOn (motive := fun u => (Tab.getD u c Core0).paced = beyond) cs _ (paced_paceCore_self beyond m c)
        fun u hu d _ => paced_paceCore_of_paced d hu
    · exact ih h _

theorem exec_pacingWindow_of_short {s : State} {w : Nat} (power scratch : Nat) (h : s.now < (s.world w).budget.meter.since + 10000) :
    exec (.pacingWindow w power scratch) s = .next s := by
  change execPacingWindow w power scratch s = _
  simp [execPacingWindow, h]

/-- The cores of a world, slice by slice. -/
def State.coresOf (s : State) (w : Nat) : List Nat := (s.owned w).flatMap (fun k => (List.range 16).map (fun i => 16 * k + i))

theorem State.mem_coresOf {s : State} {w k c : Nat} (hk : k ∈ s.owned w) (hc : c < 16) : 16 * k + c ∈ s.coresOf w :=
  List.mem_flatMap.mpr ⟨k, hk, List.mem_map.mpr ⟨c, List.mem_range.mpr hc, rfl⟩⟩

/-- A world after a measure: its power and bandwidth, and the window that begins. -/
def World.measured (W : World) (watts band now all : Nat) : World :=
  { W with budget := { W.budget with
    pwrUsed := watts, bwUsed := band
    meter := { links := W.budget.meter.links, busy := [], since := now, own := W.budget.meter.links, all := all } } }

/-- Is a world beyond its power or its link budget (20 R421)? -/
def State.beyond (s : State) (w : Nat) : Bool :=
  decide (s.powerBudget w < s.powerCharged w) || decide (s.linkBudget w < (s.world w).budget.bwUsed)

theorem State.beyond_measured (s : State) (w watts band now all : Nat) : (s.onWorld w (·.measured watts band now all)).beyond w =
    (decide (s.powerBudget w < watts + (s.unitsOf w).length * 140800) || decide (s.linkBudget w < band)) := by
  simp only [State.beyond, State.powerBudget, State.linkBudget, State.powerCharged, State.world_onWorld_self]
  rfl

/-- A world whose cores are paced, or are not (20 R421). -/
def World.withPace (W : World) (beyond : Bool) : World := { W with budget := { W.budget with paced := beyond } }

/-- The end of a window: the measure of a world, and whether it and its cores are paced. -/
def State.paceWorld (s : State) (w watts band : Nat) (beyond : Bool) : State :=
  { s.onWorld w (fun W => (W.measured watts band s.now s.allLinks).withPace beyond) with
    cores := (s.coresOf w).foldl (paceCore beyond) s.cores }

theorem State.world_paceWorld (s : State) (w watts band : Nat) (beyond : Bool) :
    (s.paceWorld w watts band beyond).world w = ((s.world w).measured watts band s.now s.allLinks).withPace beyond :=
  s.world_onWorld_self w (fun W => (W.measured watts band s.now s.allLinks).withPace beyond)

theorem State.paced_paceWorld {s : State} {w k c : Nat} (watts band : Nat) (beyond : Bool) (hk : k ∈ s.owned w) (hc : c < 16) :
    ((s.paceWorld w watts band beyond).coreAt (16 * k + c)).paced = beyond :=
  paced_paceCores (State.mem_coresOf hk hc) s.cores

theorem exec_pacingWindow_of_due {s : State} {w : Nat} (power scratch : Nat) (h : (s.world w).budget.meter.since + 10000 ≤ s.now) :
    let m := (s.world w).budget.meter
    let own := m.links - m.own
    let watts := (power + scratch) * 65536 + s.leakage w + s.slicePower w + s.linkPower w own (s.allLinks - m.all)
    let band := bandOf (own * 10000 / (s.now - m.since))
    exec (.pacingWindow w power scratch) s = .next (s.paceWorld w watts band
      (decide (s.powerBudget w < watts + (s.unitsOf w).length * 140800) || decide (s.linkBudget w < band))) := by
  intro m own watts band
  let u := s.onWorld w (·.measured watts band s.now s.allLinks)
  have hbeyond : u.beyond w = _ := State.beyond_measured ..
  change execPacingWindow w power scratch s = _
  rw [execPacingWindow, if_neg (Nat.not_lt.mpr h)]
  change Host.Outcome.next { u.onWorld w (·.withPace (u.beyond w)) with
    cores := (s.coresOf w).foldl (paceCore (u.beyond w)) s.cores } = _
  rw [hbeyond, State.onWorld_onWorld]
  rfl

/-- Settles O51: each event by its equations, and the places of a head by the packing of its companies. -/
theorem launchesRun : Obligations.LaunchesRun := by
  unfold Obligations.LaunchesRun
  intro s w i l t power scratch L T
  refine ⟨fun hL he => ⟨fun hs => ?checks, fun n hs => ?grants⟩, fun hw => ?noLaunch, exec_placementDecision_of_open,
    fun h fuel hh hL => ?head, fun P P' d ps hp => ?company, fun d loads j hj => ?core, fun hT he => ?troupe, fun hL he hs => ?ends,
    exec_gridRunEnd_of_done, fun hL he ht hs hn hd hc hq => ?ended, exec_priorityPromotion_of_early, exec_priorityPromotion_of_due,
    exec_pacingWindow_of_short power scratch, fun hm => ?pace⟩
  case checks =>
    have checked := exec_launchAdmission_of_checks hL he hs
    refine ⟨checked, fun hr => checked.trans (congrArg _ (State.checkLaunch_of_bad_record hr)), fun hr hd hl hg hb hst ho hw =>
      ⟨fun d hf => checked.trans (congrArg _ (State.checkLaunch_of_unfit hr hd hl hg hb hst ho hw hf)),
        fun hf => checked.trans (congrArg _ (State.checkLaunch_of_fit hr hd hl hg hb hst ho hw hf))⟩⟩
  case grants => exact ⟨fun e => exec_launchAdmission_of_lease hL he hs, exec_launchAdmission_of_granted hL he hs⟩
  case noLaunch =>
    have same := State.endOf_of_no_launch hw
    refine ⟨fun hq => ?_, fun ha => ?_⟩
    · exact (exec_placementDecision_of_closed (.inl (same.symm ▸ hq))).trans (congrArg _ same)
    · exact (exec_placementDecision_of_closed (.inr (same.symm ▸ ha))).trans (congrArg _ same)
  case head =>
    refine ⟨fun g => State.spend_of_closed_gate hh hL fuel, fun ps n hg hn =>
      ⟨State.spend_of_small_deficit hh hL hg hn fuel, State.spend_of_deficit hh hL hg hn fuel⟩, fun ps hg => ?_⟩
    have hps := State.companies_of_gate hg
    exact ⟨hps, Plan.companies_numbers hps, fun hm => Plan.companies_places hm (State.keys_planOf s w ▸ List.Subset.refl _) hps,
      State.troupes_placeHead ps⟩
  case company =>
    obtain ⟨k, loads, is, l', hin, hpack, hps, rfl, hmax⟩ := Plan.core_spec hp
    exact ⟨k, loads, is, l', hin, hpack, hps, rfl, hmax⟩
  case core =>
    have best := firstOfBest_bestCore d loads
    rwa [hj] at best
  case troupe =>
    refine ⟨exec_stagingCopy_of_staged hT, fun hs => ⟨fun hu => ⟨fun s1 T' => exec_stagingCopy_of_copied hT he hs hu,
      fun s1 T' n va e hc => ?_⟩, fun hn hu => ?_, exec_stagingCopy_of_unit hT he hs⟩,
      fun hn => ⟨exec_troupeStart_of_unstaged hT, exec_troupeStart_of_staged hT hn he⟩⟩
    · have fault := exec_stagingCopy_of_fault hT he hs hu hc
      exact ⟨fun hf => by rw [fault, if_pos hf], fun hf => by rw [fault, if_neg (by simp [hf])]⟩
    · have noPieces : (s.launchOf T).stagePieces = [] := by simp [Launch.stagePieces, hn]
      exact exec_stagingCopy_of_copied hT he hs hu (by rw [noPieces, List.drop_nil]; rfl)
  case ends => exact ⟨exec_gridRunEnd_of_quiet hL he hs, exec_gridRunEnd_of_busy hL he hs⟩
  case ended =>
    have ended := exec_gridRunEnd_of_ended hL he ht hs hn hd hc hq
    exact ⟨fun ha => by rw [ended, if_neg (by simp [ha])], fun ha => by rw [ended, if_pos ha]⟩
  case pace =>
    exact ⟨_, exec_pacingWindow_of_due power scratch hm, State.world_paceWorld .., fun k c => State.paced_paceWorld _ _ _, rfl⟩

end Machine
end Sys2Proof
end

section
/-! O25: lane copies and line bits (08 R172, R175-R179, R191-R193). First predicates, lanes that wait each in its own way, and what the
change of a set's chunk leaves of its threads; then a copy whose lanes pass their checks, and each instruction on line bits. -/

namespace Sys2Proof.Machine

/-! ### Predicates (02 R29, R31) -/

/-- One bit of a word takes a value, and the others stay. -/
theorem getLsbD_putBit (p : Word) (k : Nat) (b : Bool) {n : Nat} (hn : n < 32) :
    (if b then p ||| maskBit k else p &&& ~~~ maskBit k).getLsbD n = if n = k then b else p.getLsbD n := by
  have bit : (maskBit k).getLsbD n = decide (n = k) := by
    simp only [maskBit, BitVec.getLsbD_ofNat, Nat.testBit_two_pow, hn, decide_true, Bool.true_and, eq_comm]
  cases b
  case false =>
    rw [if_neg Bool.false_ne_true, BitVec.getLsbD_and, BitVec.getLsbD_not, bit, decide_eq_true hn]
    split <;> simp [*]
  case true =>
    rw [if_pos rfl, BitVec.getLsbD_or, bit]
    split <;> simp [*]

theorem Thread.setPred_eq (th : Thread) (k : Nat) (b : Bool) :
    th.setPred k b = { th with p := maskOf (fun n => if n = k ∧ n ≠ 0 then b else th.p.getLsbD n) } := by
  have same : ∀ p : Word, (∀ n < 32, p.getLsbD n = if n = k ∧ n ≠ 0 then b else th.p.getLsbD n) →
      maskOf (fun n => if n = k ∧ n ≠ 0 then b else th.p.getLsbD n) = p := fun p h => by
    refine BitVec.eq_of_getLsbD_eq fun n hn => ?_
    change inMask _ n = _
    rw [inMask_maskOf, h n hn, decide_eq_true hn, Bool.true_and]
  unfold Thread.setPred
  split
  next h0 => rw [same th.p fun n _ => (if_neg fun h => h.2 (h.1.trans h0)).symm]
  next h0 =>
    have kept : ∀ n, n = k ∧ n ≠ 0 ↔ n = k := fun n => ⟨And.left, fun h => ⟨h, h ▸ h0⟩⟩
    rw [same _ fun n hn => (getLsbD_putBit th.p k b hn).trans (by simp only [kept])]

/-- A computed bit enters a predicate under its combine (02 R31). -/
theorem Thread.combine_eq (th : Thread) (p : BitVec 5) (k : BitVec 2) (b : Bool) :
    th.combine p.toNat k.toNat b = { th with p := th.predsAfter p k b } := by
  rw [Thread.combine, Thread.setPred_eq]
  congr 2
  funext n
  split
  next h =>
    obtain ⟨rfl, h0⟩ := h
    have pred : th.pred p.toNat = th.p.getLsbD p.toNat := by simp [Thread.pred, h0]
    rw [pred]
    match k with
    | 0 | 1 | 2 | 3 => rfl
  next => rfl

/-! ### Sets whose threads stay -/

@[simp] theorem SetState.threads_endStall (S : SetState) (key : Nat) (m : Word) : (S.endStall key m).threads = S.threads := by
  unfold SetState.endStall
  split <;> rfl

@[simp] theorem SetState.threads_onChunk (S : SetState) (f : Chunk → Chunk) : (S.onChunk f).threads = S.threads := rfl

theorem SetState.isSome_chunk_onChunk (S : SetState) (f : Chunk → Chunk) : (S.onChunk f).chunk.isSome = S.chunk.isSome :=
  Option.isSome_map

section Step
variable {s : State} {i : Instr} {c : Ctx}

/-- Of the set in which an instruction has issued, its end asks only whether a chunk is open. -/
theorem State.done_withSet (s : State) (c : Ctx) {S : SetState} (h : S.chunk.isSome = c.S.chunk.isSome) (S' : SetState) :
    s.done { c with S := S } S' = s.done c S' := by
  simp only [State.done, State.nameChunk, h]
  rfl

/-- An instruction that gives no register completes on top of a set that it has changed, but for its threads. -/
theorem completesFrom_of_retire_withSet (h : Issues s i c) {s1 : State} (hs : s1.troupes = s.troupes) {S : SetState}
    (hS : S.threads = c.S.threads) (he : exec i s = s1.retire { c with S := S } i (fun _ => [])) :
    CompletesFrom s s1 i { c with S := S } (fun _ => []) c.old :=
  completesFrom_of_issue h hs hS _ (fun _ th => th) c.old (fun _ => List.nodup_nil)
    (fun j _ => by simp only [SetState.lane, Ctx.old, hS]) he

/-! ### Lane copies (08 R172, R175-R179) -/

section LaneCopy
variable (s c) (kind : OpKind) (d a : BitVec 7) (m : BitVec 4)

/-- The scratchpad ranges of a lane copy's lanes (08 R172). -/
def Ctx.copyRanges : List (Nat × Nat) :=
  mergeRanges ((s.doers c).map (fun j => ((c.rd j d).toNat, (c.rd j d).toNat + 4 * 2 ^ m.toNat)))

/-- Is the completion word of a lane copy rejected (08 R189)? -/
def Ctx.copyWordBad : Bool :=
  match cwordOf c.issue.hints with
  | some (_, x) => cwordBad c.T.spadSize (if kind == .cpyIn then c.copyRanges s d m else []) x
  | none => false

/-- The operation that a lane copy enters on the scoreboard. -/
def Ctx.copyOp : Op :=
  { Op0 with
    kind := kind, pc := c.issue.group, troupe := c.t, set := c.k, width := 4 * 2 ^ m.toNat
    lanes := (s.doers c).map (fun j => (j, (c.rd j d).toNat, c.va j a))
    ivals := (c.copyRanges s d m).map (fun r => { lo := r.1, hi := r.2, write := kind == .cpyIn })
    cword := (cwordOf c.issue.hints).map (fun x => (x.2, c.S.read ((s.doers c).headD 0) x.1)), args := [(cacheOf c.issue.hints).2] }

/-- The lanes of a lane copy pass the checks of R179, and none writes a sealed buffer. -/
def Ctx.CopyFits : Prop :=
  ∀ j ∈ s.doers c,
    s.laneCopyBad (s.launchOf c.T) c.T kind.access j (c.rd j d).toNat (c.va j a) (4 * 2 ^ m.toNat) (c.copyWordBad s kind d m) = none ∧
      (kind = .cpyOut → s.sealState (s.launchOf c.T).world (s.launchOf c.T).tcid (c.va j a) ≠ 1)

end LaneCopy

section Copies
variable {kind : OpKind} {d a : BitVec 7} {m : BitVec 4}

theorem sealBad_of_not_sealed {L : Launch} (j : Nat) {va : Nat} (h : s.sealState L.world L.tcid va ≠ 1) : s.sealBad L j va = none :=
  if_neg h

theorem laneCopy_of_fits (h : Issues s i c) (hf : c.CopyFits s kind d a m) :
    laneCopy kind i d a m s =
      if (s.doers c).isEmpty then s.retire c i (fun _ => [])
      else match (s.coreAt c.T.place.coreNo).freeOp with
        | none => .next (s.stallOnce c i 96 Core.fullIssue [.board])
        | some e => (s.onCore c.T.place.coreNo (fun C => { C with ops := C.ops.set e (c.copyOp s kind d a m) })).retire
            { c with S := (c.S.onChunk (fun k => { k with copies := k.copies ++ [e] })).endStall 96 c.mask } i (fun _ => []) := by
  refine (stepOp_of_issues h _).trans ((orRaise_badLanes_of_none s c (fun j hj => ?_) _).trans rfl)
  obtain ⟨pass, writes⟩ := hf j hj
  refine (congrArg (Option.orElse · _) pass).trans ?_
  by_cases hk : kind = .cpyOut
  · exact (if_pos (by simp [hk])).trans (sealBad_of_not_sealed j (writes hk))
  · exact if_neg (by simpa using hk)

/-- A lane copy by what it finds: no lane, a full scoreboard, or a free entry. -/
theorem laneCopy_issues (he : exec i s = laneCopy kind i d a m s) (h : Issues s i c) (hf : c.CopyFits s kind d a m) :
    (s.doers c = [] → Gives s i c (fun _ => [])) ∧
    (s.doers c ≠ [] → (s.coreAt c.T.place.coreNo).freeOp = none → exec i s = .next (s.stallOnce c i 96 Core.fullIssue [.board])) ∧
    (s.doers c ≠ [] → c.claims s i (c.copyOp s kind d a m)) := by
  rw [laneCopy_of_fits h hf] at he
  simp only [List.isEmpty_iff] at he
  refine ⟨fun hd => gives_nothing_of_retire h (fun _ _ => rfl) (he.trans (if_pos hd)), fun hd hfree => ?full, fun hd e hfree => ?free⟩
  case full => simpa only [if_neg hd, hfree] using he
  case free =>
    simp only [if_neg hd, hfree] at he
    refine completesFrom_of_retire_withSet h ?_ (SetState.threads_endStall _ _ _) he
    rfl

end Copies
end Step

/-! ### Line bits (08 R191-R193) -/

section LineBits
variable {s : State} {i : Instr} {c : Ctx} {p : BitVec 5} {a : BitVec 7} {g : BitVec 3} {n cond : BitVec 4} {k : BitVec 2}

/-- A scratchpad range that its check passes gives no reason for a trap. -/
theorem spadCheck_of_ok {x n : Nat} (h : ∃ y, s.spadAt c.t c.T x n = .ok y) (f : Nat → LaneBad) :
    (match s.spadAt c.t c.T x n with
      | .error r => some (f r)
      | .ok _ => none) = none := by
  obtain ⟨y, hy⟩ := h
  rw [hy]

section Marks
variable (s c) (a : BitVec 7) (n : BitVec 4)

/-- Where the lines lie that a lane changes the full bits of: the allotment's troupe and the offset. -/
def Ctx.fullAt (j : Nat) : Nat × Nat := s.spadOf c (c.sp j a - c.sp j a % 128) ((n.toNat + 1) * 128)

/-- The lines that a change of full bits marks. -/
def Ctx.fullMarks : List (Nat × Nat) :=
  addAll [] ((s.doers c).flatMap (fun j => (List.range (n.toNat + 1)).map (fun x => ((c.fullAt s a n j).1, (c.fullAt s a n j).2 / 128 + x))))

/-- A chunk that changes full bits as it commits. -/
def Chunk.fullMarked (full : Bool) (q : Chunk) : Chunk :=
  ({ q with
      fe := q.fe ++ (c.fullMarks s a n).map (fun (x : Nat × Nat) => ({ troupe := x.1, line := x.2, full := full } : FeOp))
      spWrites := addAll q.spWrites (c.fullMarks s a n) }).touch
    ((s.doers c).flatMap (fun j => (List.range (n.toNat + 1)).map (fun x =>
      (j, padKey (c.fullAt s a n j).1 ((c.fullAt s a n j).2 / 128 + x), true))))

/-- Each lane's lines lie in an allotment. -/
def Ctx.FullFits : Prop := ∀ j ∈ s.doers c, ∃ x, s.spadAt c.t c.T (c.sp j a - c.sp j a % 128) ((n.toNat + 1) * 128) = .ok x

end Marks

theorem fullBits_of_fits (h : Issues s i c) (full : Bool) (hf : c.FullFits s a n)
    (hp : s.pending c (meetsAny ((c.fullMarks s a n).map (fun (x : Nat × Nat) => (x.1, x.2 * 128, x.2 * 128 + 128, false)))) = false) :
    fullBits full i a n s = s.retire { c with S := c.S.onChunk (Chunk.fullMarked s c a n full) } i (fun _ => []) :=
  (stepOp_of_issues h _).trans ((orRaise_badLanes_of_none s c (fun j hj => spadCheck_of_ok (hf j hj) _) _).trans
    (if_neg (Bool.eq_false_iff.mp hp)))

theorem fullBits_marks (he : exec i s = fullBits full i a n s) (h : Issues s i c) (hf : c.FullFits s a n)
    (hp : s.pending c (meetsAny ((c.fullMarks s a n).map (fun (x : Nat × Nat) => (x.1, x.2 * 128, x.2 * 128 + 128, false)))) = false) :
    CompletesFrom s s i { c with S := c.S.onChunk (Chunk.fullMarked s c a n full) } (fun _ => []) c.old :=
  completesFrom_of_retire_withSet h rfl rfl (he.trans (fullBits_of_fits h full hf hp))

/-- Where the byte lies whose line a lane tests. -/
def Ctx.testAt (s : State) (c : Ctx) (a : BitVec 7) (j : Nat) : Nat × Nat := s.spadOf c (c.rd j a).toNat 1

/-- The bit that a lane finds: full, empty, skip, or not skip (08 R192). -/
def Ctx.testBit (s : State) (c : Ctx) (a : BitVec 7) (cond : BitVec 4) (j : Nat) : Bool :=
  match cond.toNat with
  | 0 => (s.lineSeen c.S (c.testAt s a j).1 ((c.testAt s a j).2 / 128)).1
  | 1 => !(s.lineSeen c.S (c.testAt s a j).1 ((c.testAt s a j).2 / 128)).1
  | 2 => (s.lineSeen c.S (c.testAt s a j).1 ((c.testAt s a j).2 / 128)).2
  | _ => !(s.lineSeen c.S (c.testAt s a j).1 ((c.testAt s a j).2 / 128)).2

/-- A chunk that has read lines. -/
def Chunk.tested (s : State) (c : Ctx) (a : BitVec 7) (q : Chunk) : Chunk :=
  ({ q with spReads := addAll q.spReads (c.lanes.map (fun j => ((c.testAt s a j).1, (c.testAt s a j).2 / 128))) }).touch
    (c.lanes.map (fun j => (j, padKey (c.testAt s a j).1 ((c.testAt s a j).2 / 128), false)))

theorem exec_feTest_of_fits (h : Issues s (.feTest p a cond k) c)
    (hf : ∀ j, inMask c.act j = true → ∃ x, s.spadAt c.t c.T (c.rd j a).toNat 1 = .ok x) :
    exec (.feTest p a cond k) s = .next (s.done c (SetState.retire { c with S := c.S.onChunk (Chunk.tested s c a) } (.feTest p a cond k)
      (fun _ => []) (fun j th => th.combine p.toNat k.toNat (c.testBit s a cond j)) (fun _ => c.next))) := by
  refine (stepOp_of_issues h _).trans
    ((orRaise_badLanes_of_none s c (fun j hj => spadCheck_of_ok (hf j (mem_lanesOf.mp hj)) _) _).trans ?_)
  rfl

theorem feTest_decides (h : Issues s (.feTest p a cond k) c)
    (hf : ∀ j, inMask c.act j = true → ∃ x, s.spadAt c.t c.T (c.rd j a).toNat 1 = .ok x) :
    CompletesFrom s s (.feTest p a cond k) { c with S := c.S.onChunk (Chunk.tested s c a) } (fun _ => [])
      (fun j => ((c.S.lane j).predsAfter p k (c.testBit s a cond j), (c.S.lane j).gen, (c.S.lane j).clk)) := by
  refine completesFrom_of_issue h rfl (SetState.threads_onChunk c.S _) _
    (fun j th => th.combine p.toNat k.toNat (c.testBit s a cond j)) _ (fun _ => List.nodup_nil) (fun j _ => Thread.combine_eq _ p k _) ?_
  rw [State.done_withSet s c (c.S.isSome_chunk_onChunk _)]
  exact exec_feTest_of_fits h hf

/-! ### rsb.drain (08 R193) -/

theorem Ctx.old_without (c : Ctx) (lanes : List Nat) (w : Nat → Hold) (j : Nat) : (c.without lanes w).old j = c.old j := by
  have lane := c.S.lane_onLanes (maskOf (fun j => lanes.contains j)) (fun j th => { th with hold := w j }) j
  simp only [Ctx.old, Ctx.without, lane]
  split <;> rfl

/-- Some lanes of an instruction wait, each in its own way, and it completes for the others. -/
theorem completesFrom_of_without (h : Issues s i c) {S : SetState} (hS : S.threads = c.S.threads) (lanes : List Nat) (w : Nat → Hold)
    (he : exec i s = s.retire (({ c with S := S } : Ctx).without lanes w) i (fun _ => [])) :
    CompletesFrom s s i (({ c with S := S } : Ctx).without lanes w) (fun _ => []) c.old := by
  refine completesFrom_nothing_of_retire h rfl rfl ?_ (fun j hj => ?_) (fun j hj => ?_) (fun j => ?_) he
  · exact List.length_mapIdx.trans (congrArg List.length hS)
  · simp only [Ctx.without, inMask_and_not, Bool.and_eq_true] at hj
    exact hj.1
  · simp only [Ctx.without, inMask_and_not, Bool.and_eq_true] at hj ⊢
    exact ⟨inMask_act_of_issues h hj.1, hj.2⟩
  · rw [Ctx.old_without]
    simp only [Ctx.old, SetState.lane, hS]

section Drain
variable (s c)

/-- The position up to which a lane of rsb.drain waits: that of its first issue. -/
def Ctx.drainPos (j : Nat) : Nat := (c.S.answers.get? (64 + j)).getD (s.coreAt c.T.place.coreNo).pos

/-- The lanes up to whose position an operation of the troupe stands. -/
def Ctx.drainOwed : List Nat :=
  c.lanes.filter (fun j => (s.coreAt c.T.place.coreNo).ops.any (fun e =>
    e.2.troupe == c.t && e.2.standing && decide (e.2.pos ≤ c.drainPos s j)))

/-- The set that keeps the positions of the lanes that wait, and of no other. -/
def SetState.drainNoted : SetState :=
  { c.S.forget (c.lanes.map (64 + ·)) with
    answers := (c.drainOwed s).foldl (fun (m : Tab Nat) j => Tab.set m (64 + j) (c.drainPos s j))
      (c.S.forget (c.lanes.map (64 + ·))).answers }

end Drain

theorem exec_rsbDrain_of_some (h : Issues s (.rsbDrain g) c) (hp : c.act ≠ 0 → s.pending c (fun o => o.troupe == c.t) = false)
    (ho : c.drainOwed s = [] ∨ (c.drainOwed s).length < c.lanes.length) :
    exec (.rsbDrain g) s = s.retire (({ c with S := SetState.drainNoted s c } : Ctx).without (c.drainOwed s)
      (fun j => .until [.ops (c.drainPos s j)])) (.rsbDrain g) (fun _ => []) := by
  have free : ¬ (c.act != 0 && s.pending c (fun o => o.troupe == c.t)) = true := by simpa using hp
  have some : ¬ (!(c.drainOwed s).isEmpty && decide ((c.drainOwed s).length = c.lanes.length)) = true := by
    rcases ho with ho | ho
    · simp [ho]
    · simp [Nat.ne_of_lt ho]
  exact (stepOp_of_issues h _).trans ((if_neg free).trans (if_neg some))

end LineBits

theorem laneCopiesIssue : Claims.LaneCopiesIssue := by
  unfold Claims.LaneCopiesIssue
  intro s c d a g m
  exact ⟨fun h hf => laneCopy_issues rfl h fun j hj => ⟨(hf j hj).1, nofun⟩,
    fun h hf => laneCopy_issues rfl h fun j hj => ⟨(hf j hj).1, fun _ => (hf j hj).2 rfl⟩⟩

theorem lineBits : Claims.LineBits := by
  unfold Claims.LineBits
  intro s c p a g n cond k
  exact ⟨fullBits_marks rfl, fullBits_marks rfl, feTest_decides,
    fun h hp ho => completesFrom_of_without h (S := SetState.drainNoted s c) rfl _ _ (exec_rsbDrain_of_some h hp ho)⟩

/-- Settles O25: a lane copy by what it finds on the scoreboard, and each instruction on line bits by its own equation. -/
theorem laneCopiesAndLineBits : Obligations.LaneCopiesAndLineBits := ⟨laneCopiesIssue, lineBits⟩

end Sys2Proof.Machine
end

section
/-! O35: tensor copies, layouts and the cue bsum (05 R120; 08 R171, R181, R182, R184-R186). First what the checks of a tensor copy ask, then
each instruction by what it finds. -/

namespace Sys2Proof.Machine

section Cue
variable {s : State} {t : Nat} {T : Troupe} {u : Issue} {a b : BitVec 8}

/-! ### Tensor copies (08 R171, R184-R186) -/

/-- A completion word is accepted in the allotment, outside what its operation writes (08 R189). -/
theorem cwordBad_eq_false_iff {size n : Nat} {writes : List (Nat × Nat)} :
    cwordBad size writes n = false ↔ 16 * n + 4 ≤ size ∧ ∀ r ∈ writes, 16 * n + 4 ≤ r.1 ∨ r.2 ≤ 16 * n := by
  simp only [cwordBad, overlaps, Bool.or_eq_false_iff, decide_eq_false_iff_not, Nat.not_lt, List.any_eq_false, Bool.and_eq_true,
    decide_eq_true_eq]
  exact and_congr_right fun _ => forall₂_congr fun r _ => by omega

/-- The kind of a tensor copy. -/
def tensorKind (pull : Bool) : OpKind := if pull then .tcpyIn else .tcpyOut

/-- Where a tensor copy's box begins in scratchpad. -/
def Troupe.boxAt (T : Troupe) (u : Issue) (a : BitVec 8) : Nat := wordAddr (BitVec.ofNat 32 (T.gets a.toNat).toNat) (immOff u.hints)

/-- The checks of a tensor copy through a layout (08 R185, R189). -/
structure TensorFits (T : Troupe) (u : Issue) (a : BitVec 8) (lay : Layout) (op : Op) (pull : Bool) : Prop where
  offset : T.boxAt u a < 2 ^ 19
  operand : (T.gets a.toNat).toNat < 2 ^ 44
  aligned : T.boxAt u a % 128 = 0
  inside : T.boxAt u a + lay.boxBytes ≤ T.spadSize
  paired : lay.fmt = 4 → op.coords.getD 0 0 % 2 = 0
  word : ∀ c n, cwordOf u.hints = some (c, n) → 16 * n + 4 ≤ T.spadSize ∧
    (pull = true → 16 * n + 4 ≤ T.boxAt u a ∨ T.boxAt u a + lay.boxBytes ≤ 16 * n)

/-- The layout that a tensor copy names. -/
def State.layoutAt (s : State) (T : Troupe) (a : BitVec 8) : Option Layout :=
  (s.world (s.launchOf T).world).layouts.get? ((T.gets a.toNat).toNat / 2 ^ 32 % 2 ^ 12)

/-- The state behind a stall of the cue stream at a full scoreboard, counted once. -/
def State.boardFull (s : State) (t : Nat) (T : Troupe) : State :=
  if (T.cue.answers.get? 3).isSome then s
  else (s.onCore T.place.coreNo Core.fullIssue).onCue t (fun C => { C with answers := C.answers.set 3 1 })

/-- The sealed buffers that a tensor copy reads. -/
def State.buffersOf (s : State) (L : Launch) (op : Op) : List Nat :=
  addAll [] ((op.memory.filter (fun va => s.sealState L.world L.tcid va == 1)).filterMap
    (fun va => ((s.world L.world).wobAt L.tcid va).map (·.1)))

theorem tensorCopy_of_no_layout (h : CueAt s t T u) (kind : OpKind) (hl : s.layoutAt T a = none) :
    tensorCopy kind a b s = .next (s.raiseCue t u.group 0x42 1 0 0 0) := by
  refine (cueDo_of_cueAt h _).trans ?_
  rw [State.layoutAt] at hl
  simp only [nfld, hl, State.cueTrap]

/-- The entry that a tensor copy takes, with its place in the order, and the stream behind it. -/
def State.tensorPlaced (s : State) (t : Nat) (T : Troupe) (u : Issue) (op : Op) (bufs : List Nat) (e : Nat) : State :=
  let w := (s.launchOf T).world
  let s1 := bufs.foldl (fun (s : State) n => s.onWorld w (fun W =>
    { W with wobs := W.wobs.adjust n (fun b => { b with rc := b.rc + 1 }) })) (s.cueForget t)
  ((s1.onCore T.place.coreNo (fun C => { C with ops := C.ops.set e { op with sealed := bufs } })).placeOp T.place.coreNo e).cueTo
    t (u.word + 4) Troupe.tick

/-- A tensor copy whose checks pass, by the entry that it finds. -/
theorem tensorCopy_of_fits (h : CueAt s t T u) {pull : Bool} {lay : Layout} (hl : s.layoutAt T a = some lay)
    (hf : TensorFits T u a lay (tensorOp T t u a b lay (tensorKind pull)) pull)
    (hs : pull = false → ∀ va ∈ (tensorOp T t u a b lay (tensorKind pull)).memory,
      s.sealState (s.launchOf T).world (s.launchOf T).tcid va ≠ 1) :
    tensorCopy (tensorKind pull) a b s =
      match (s.coreAt T.place.coreNo).freeOp with
      | none => .next ((s.boardFull t T).cueStall t [.board])
      | some e => .next (s.tensorPlaced t T u (tensorOp T t u a b lay (tensorKind pull))
          (if pull then s.buffersOf (s.launchOf T) (tensorOp T t u a b lay (tensorKind pull)) else []) e) := by
  refine (cueDo_of_cueAt h _).trans ?_
  extract_lets L x A handle word coords cw o core src stalled forgot
  rw [show (s.world L.world).layouts.get? handle = some lay from hl]
  have cut : o = A % 2 ^ 19 := congrArg (· % 2 ^ 19) (Nat.div_one A)
  have start : o = A := cut.trans (Nat.mod_eq_of_lt hf.offset)
  refine (if_neg ?offset).trans ((if_neg ?aligned).trans ((if_neg ?inside).trans ((if_neg ?paired).trans ((if_neg ?word).trans ?go))))
  case offset =>
    rw [Nat.div_eq_of_lt (show A < _ from hf.offset), Nat.div_eq_of_lt (show x < _ from hf.operand)]
    exact Bool.false_ne_true
  case aligned =>
    rw [start, show A % 128 = 0 from hf.aligned]
    exact Bool.false_ne_true
  case inside => exact Nat.not_lt.mpr (start ▸ hf.inside)
  case paired =>
    rw [Bool.and_eq_true, decide_eq_true_eq, bne_iff_ne]
    exact fun hx => hx.2 (hf.paired hx.1)
  case word =>
    cases hw : cw with
    | none => exact Bool.false_ne_true
    | some e =>
      obtain ⟨inside, apart⟩ := hf.word e.1 e.2 hw
      refine Bool.eq_false_iff.mp (cwordBad_eq_false_iff.mpr ⟨inside, fun r hr => ?_⟩)
      cases pull
      case true =>
        obtain rfl := List.mem_singleton.mp hr
        exact start ▸ apart rfl
      case false => cases hr
  case go =>
    extract_lets op sealedAt bufs counted
    have hop : op = tensorOp T t u a b lay (tensorKind pull) := by
      simp only [op, tensorOp, cut]
      rfl
    clear_value op
    subst hop
    have pulls : (tensorKind pull == .tcpyIn) = pull := by cases pull <;> rfl
    have hbufs : bufs = if pull then s.buffersOf L (tensorOp T t u a b lay (tensorKind pull)) else [] := by
      simp only [bufs, pulls]
      rfl
    have unsealed : pull = false → sealedAt = [] := fun hp => List.filter_eq_nil_iff.mpr fun va hva => by simpa using hs hp va hva
    clear_value bufs sealedAt
    subst hbufs
    rw [pulls]
    cases pull
    case true => rfl
    case false =>
      rw [unsealed rfl]
      rfl

/-! ### Layouts (08 R181, R182) -/

/-- The address of the record that tlay reads. -/
def Troupe.recordAt (T : Troupe) (u : Issue) (a : BitVec 8) : Nat := wrap 64 ((T.gets a.toNat).toNat + immOff u.hints)

theorem exec_tlay_of_large (h : CueAt s t T u) (hb : 4095 < (T.gets b.toNat).toNat) :
    exec (.tlay a b) s = .next (s.raiseCue t u.group 0x43 7 0 (T.recordAt u a) 0) :=
  (cueDo_of_cueAt h _).trans (if_pos hb)

theorem exec_tlay_of_zero (h : CueAt s t T u) (hb : (T.gets b.toNat).toNat ≤ 4095) (hv : T.recordAt u a = 0) :
    exec (.tlay a b) s = .next ((s.onWorld (s.launchOf T).world (fun W =>
      { W with layouts := W.layouts.del (T.gets b.toNat).toNat })).cueTo t (u.word + 4) Troupe.tick) :=
  (cueDo_of_cueAt h _).trans ((if_neg (Nat.not_lt.mpr hb)).trans (if_pos hv))

/-- The state behind the read of a record: a counted access, but at its target, and its answer is forgotten. -/
def State.recordRead (s s' : State) (t : Nat) (T : Troupe) (va dpa : Nat) : State :=
  (if s'.far (s.launchOf T) false va dpa then s' else s'.cueSample T va 0).cueForget t

theorem exec_tlay_of_value (h : CueAt s t T u) (hb : (T.gets b.toNat).toNat ≤ 4095) (hv : T.recordAt u a ≠ 0)
    (h64 : T.recordAt u a % 64 = 0) {dpa : Nat} (ht : s.translate (s.launchOf T) .load (T.recordAt u a) = .ok dpa) {s' : State} {y : Nat}
    (hr : s.cueRead t T (T.recordAt u a) dpa 64 false 2 0 = .value s' y) :
    exec (.tlay a b) s = match layoutBad y with
      | some r => .next ((s.recordRead s' t T (T.recordAt u a) dpa).raiseCue t u.group 0x43 r 0 (T.recordAt u a) 0)
      | none => .next (((s.recordRead s' t T (T.recordAt u a) dpa).onWorld (s.launchOf T).world (fun W =>
          { W with layouts := W.layouts.set (T.gets b.toNat).toNat (layoutOf y) })).cueTo t (u.word + 4) Troupe.tick) := by
  refine (cueDo_of_cueAt h _).trans ((if_neg (Nat.not_lt.mpr hb)).trans ((if_neg hv).trans ((if_neg ?_).trans ?_)))
  · rw [show wrap 64 _ % 64 = 0 from h64]
    exact Bool.false_ne_true
  · rw [Troupe.recordAt] at ht hr
    simp only [ht, hr]
    rfl

/-! ### The cue bsum (05 R120) -/

/-- The command that a cue bsum describes. -/
def State.cueCommand (s : State) (t : Nat) (T : Troupe) (u : Issue) (a : BitVec 8) : RedCmd :=
  redCmdOf (s.spadBytes t (T.gets a.toNat).toNat 64) T.launch t 0xFF 0 u.group false

theorem exec_cueBsum_of_bad_block (h : CueAt s t T u) (hx : 2 ^ 32 ≤ (T.gets a.toNat).toNat ∨ T.blockBad (T.gets a.toNat).toNat = true) :
    exec (.cueBsum a) s = .next (s.raiseCue t u.group 0x40 0x0A 0 0 18) := by
  refine (cueDo_of_cueAt h _).trans (if_pos ?_)
  rw [Bool.or_eq_true, bne_iff_ne, Ne, Nat.div_eq_zero_iff_lt (by decide), Nat.not_lt]
  exact hx

theorem exec_cueBsum_of_room (h : CueAt s t T u) (hx : (T.gets a.toNat).toNat < 2 ^ 32) (hb : T.blockBad (T.gets a.toNat).toNat = false)
    (hl : s.lineFull t (T.gets a.toNat).toNat = true)
    (hr : s.redBad (s.launchOf T) (s.windows (s.launchOf T) T.place.slice) (s.spadBytes t (T.gets a.toNat).toNat 64)
      (s.cueCommand t T u a) = none) (hroom : (s.slice T.place.slice).nb.queue.length < 64) :
    exec (.cueBsum a) s = .next ((s.onSlice T.place.slice (fun S =>
      { S with nb := { S.nb with queue := S.nb.queue ++ [s.cueCommand t T u a] } })).cueTo t (u.word + 4) Troupe.tick) := by
  refine (cueDo_of_cueAt h _).trans ((if_neg ?_).trans ((if_neg ?_).trans ?_))
  · rw [hb, Nat.div_eq_of_lt hx]
    exact Bool.false_ne_true
  · rw [hl]
    exact Bool.false_ne_true
  · rw [State.cueCommand] at hr
    simp only [hr, offer_of_room (s := s) (cs := [redCmdOf _ _ _ _ _ _ _]) hroom]
    rfl

end Cue

theorem tensorCopiesIssue : Claims.TensorCopiesIssue := by
  unfold Claims.TensorCopiesIssue
  intro s t T u a b pull h
  have issue : exec (if pull then .tcpyIn a b else .tcpyOut a b) s = tensorCopy (tensorKind pull) a b s := by cases pull <;> rfl
  dsimp only
  rw [issue]
  refine ⟨tensorCopy_of_no_layout h _, fun lay hl ho hx ha hi hp hw hs => ?_⟩
  have copy := tensorCopy_of_fits h hl ⟨ho, hx, ha, hi, hp, hw⟩ hs
  exact ⟨fun hf => by rw [copy, hf]; rfl, fun e hf => by rw [copy, hf]; rfl⟩

theorem layoutsAndCommands : Claims.LayoutsAndCommands := by
  unfold Claims.LayoutsAndCommands
  intro s t T u a b h
  refine ⟨exec_tlay_of_large h, exec_tlay_of_zero h, fun hb hv h64 dpa s' y ht hr => ?_, exec_cueBsum_of_bad_block h, exec_cueBsum_of_room h⟩
  have read := exec_tlay_of_value h hb hv h64 ht hr
  exact ⟨fun hy => by rw [read, hy]; rfl, fun r hy => by rw [read, hy]; rfl⟩

/-- Settles O35: a tensor copy by its layout and the entry that it finds, tlay by its operands and its record, and the cue bsum by its block. -/
theorem tensorCopiesAndLayouts : Obligations.TensorCopiesAndLayouts := ⟨tensorCopiesIssue, layoutsAndCommands⟩

end Sys2Proof.Machine
end

section
/-! O40: the engines (05 R105-R109, R117; 08 R173-R175, R178, R185, R188; 15 R349, R354, R358). First the transfer of a piece and the end of a
copy, then the tile operations, a unit's oldest request, the requests of copies at their homes and targets, and the reduction engine. -/

namespace Sys2Proof.Machine

/-! ### Copies (08 R173-R175, R178, R185, R188) -/

section Op
variable {s : State} {core e : Nat} {o : Op} {T : Troupe}

/-- The request of a piece that may move: the pieces that it merges, from their first address on. -/
def State.xferOf (s : State) (core e : Nat) (o : Op) (T : Troupe) (n dpa : Nat) (prot : Bool) : Xfer :=
  let L := s.launchOf T
  { core := core, entry := e, op := o, us := o.merged n, lo := (o.span n).1, dpa := dpa, n := (o.span n).2, world := L.world
    tcid := L.tcid, launch := T.launch
    far := isOutside dpa && !(s.streamed L o.kind.access (o.span n).1 core).live L.world L.tcid (o.span n).1 dpa, prot := prot }

/-- Why a piece may move: its scoreboard admits it, no request of it is out, memory has a part in it, and no row that it merges stops. -/
structure PieceMoves (s : State) (core e : Nat) (o : Op) (T : Troupe) (n dpa : Nat) (prot : Bool) : Prop where
  remaining : n ∈ o.remaining
  admitted : (s.coreAt core).admits o = true
  alone : s.pieceOut core e ((o.merged n).headD n) = false
  memory : (o.pieceBytes n).any (fun b => b.2.1.isSome) = true
  rows : ∀ v ∈ o.merged n, s.rowStop (s.launchOf T) o core e (v / 32) = none
  reached : s.reach (s.launchOf T) o.kind.access (o.span n).1 core e = .dpa dpa prot

/-- A piece that may move is one request of its engine. -/
theorem State.movePiece_of_moves (ho : (s.coreAt core).ops.get? e = some o) (hT : s.troupes.get? o.troupe = some T)
    (hk : o.kind.isCopy = true) {n dpa : Nat} {prot : Bool} (h : PieceMoves s core e o T n dpa prot) :
    s.movePiece core e n =
      let s0 := s.streamed (s.launchOf T) o.kind.access (o.span n).1 core
      if o.kind.access.writes then s0.push (s.xferOf core e o T n dpa prot) else s0.pull (s.xferOf core e o T n dpa prot) := by
  obtain ⟨remaining, admitted, alone, memory, rows, reached⟩ := h
  have stops : (o.merged n).findSome? (fun v => (s.rowStop (s.launchOf T) o core e (v / 32)).map (fun r => (v / 32, r))) = none := by
    simpa [List.findSome?_eq_none_iff] using rows
  have left : o.remaining.contains n = true := List.contains_iff_mem.mpr remaining
  simp only [State.movePiece, ho, hT, hk, left, admitted, alone, memory, stops, reached, Bool.not_true, Bool.or_false, Bool.false_eq_true, if_false]
  rfl

theorem OpKind.isCopy_of_tensor {k : OpKind} (h : k = .tcpyIn ∨ k = .tcpyOut) : k.isCopy = true := by
  rcases h with rfl | rfl <;> rfl

theorem OpKind.isCopy_of_lane {k : OpKind} (h : k = .cpyIn ∨ k = .cpyOut) : k.isCopy = true := by
  rcases h with rfl | rfl <;> rfl

theorem exec_tcpyTransfer (ho : (s.coreAt core).ops.get? e = some o) (hk : o.kind = .tcpyIn ∨ o.kind = .tcpyOut) (row : Nat) :
    exec (.tcpyTransfer core e row) s = .next (s.movePiece core e row) := by
  change execTcpyTransfer core e row s = _
  simp only [execTcpyTransfer, ho, Bool.or_eq_true, beq_iff_eq, if_pos hk]

theorem exec_laneCopyTransfer (ho : (s.coreAt core).ops.get? e = some o) (hk : o.kind = .cpyIn ∨ o.kind = .cpyOut) (lane : Nat) :
    exec (.laneCopyTransfer core e lane) s = .next (s.movePiece core e (lane * 32)) := by
  change execLaneCopyTransfer core e lane s = _
  simp only [execLaneCopyTransfer, ho, Bool.or_eq_true, beq_iff_eq, if_pos hk]

/-- A copy whose bytes have moved, with the lines full that wait for none of its bytes. -/
def State.copyMoved (s : State) (core e : Nat) (o : Op) : State :=
  let s1 := s.onOp core e (fun o => { o with phase := .moved })
  if o.kind.fills then s1.fillLines core o.troupe o.lines else s1

section Done
variable (ho : (s.coreAt core).ops.get? e = some o) (hk : o.kind.isCopy = true) (hp : o.phase = .placed)
  (hd : o.pieces.all (fun n => o.done.contains n) = true) (hv : s.opUnverified o = false)
include ho hk hp hd hv

theorem exec_copyComplete_of_no_word (hc : o.cword = none) :
    exec (.copyComplete core e) s = .next ((s.copyMoved core e o).completeOp core e) := by
  change execCopyComplete core e s = _
  simp only [execCopyComplete, ho, hk, hp, hd, hv, hc, Bool.and_self, Bool.not_true, Bool.or_self, Bool.false_eq_true, if_false]
  rfl

theorem exec_copyComplete_of_word {n : Nat} {v : Word} (hc : o.cword = some (n, v))
    (hf : (s.coreAt core).storeFree o.troupe o.pos (16 * n) (16 * n + 4) = true)
    (hl : o.kind.fills = true → (s.copyMoved core e o).linesOwed core o = false) :
    exec (.copyComplete core e) s =
      .next (((s.copyMoved core e o).onTroupe o.troupe (fun T => T.putBytes (16 * n) (leBytes 4 v.toNat))).completeOp core e) := by
  have full : (o.kind.fills && (s.copyMoved core e o).linesOwed core o) = false := by simpa using hl
  rw [State.copyMoved] at full
  change execCopyComplete core e s = _
  simp only [execCopyComplete, ho, hk, hp, hd, hv, hc, hf, full, Bool.and_self, Bool.not_true, Bool.not_false, Bool.or_self,
    Bool.false_eq_true, if_false, if_true]
  rfl

end Done

/-! ### Tile operations (15 R349, R354, R358) -/

theorem Core.tileReady_iff {C : Core} {o : Op} : C.tileReady o = true ↔ o.phase = .placed ∧ C.admits o = true ∧
    ∀ y ∈ C.ops, y.2.kind.isCopy = false → y.2.standing = true → y.2.pos < o.pos →
      y.2.phase ≠ .placed ∧ (y.2.onTile o.troupe o.tile = true → y.2.retired = true) := by
  simp [Core.tileReady, and_assoc]

section Tile
variable (ho : (s.coreAt core).ops.get? e = some o) (hT : s.troupes.get? o.troupe = some T)
include ho hT

/-- The tile after the blocks of a loop. -/
def Op.looped (o : Op) (s : State) (T : Troupe) : Tile :=
  let x (n : Nat) := o.args.getD n 0
  let start : Tile := if x 4 = 1 then { T.tile o.tile with el := [] } else T.tile o.tile
  let block (base : Nat) (inc : Int) (n : Nat) : MatOperand := s.block o.troupe ((base : Int) + 128 * (n : Int) * inc).toNat
  (List.range (x 3)).foldl (fun t n =>
    matStep o.fmt t (block (x 0) (sextNat 16 (x 2)) n) (block (x 1) (sextNat 16 (x 2 / 2 ^ 16)) n)) start

theorem exec_mloopRun_of_ready (hk : o.kind = .mloop) (hr : (s.coreAt core).tileReady o = true) :
    exec (.mloopRun core e) s = .next (((s.setTile o.troupe o.tile (o.looped s T)).onCore core (fun C =>
      { C with steps := (C.steps + o.args.getD 3 0) % 2 ^ 32 })).onOp core e (fun o => { o with phase := .moved })) := by
  change execMloopRun core e s = _
  simp only [execMloopRun, ho, hT, hk, hr, bne_self_eq_false, Bool.not_true, Bool.or_self, Bool.false_eq_true, if_false]
  rfl

/-- A troupe whose scratchpad has taken the rows of a conversion. -/
def Op.converted (o : Op) (t : Tile) (V : Troupe) : Troupe :=
  let x (n : Nat) := o.args.getD n 0
  (List.range 32).foldl (fun (V : Troupe) r =>
    V.putBytes (o.sp + r * x 1) (mcvtRowBytes o.fmt (x 2) (x 3 == 1) t (BitVec.ofNat 32 (x 0)) r)) V

theorem exec_mcvtRun_of_ready (hk : o.kind = .mcvt) (hr : (s.coreAt core).tileReady o = true) :
    exec (.mcvtRun core e) s = .next (((s.onTroupe o.troupe (o.converted (T.tile o.tile))).onOp core e
      (fun o => { o with phase := .moved })).fillLines core o.troupe o.lines) := by
  change execMcvtRun core e s = _
  simp only [execMcvtRun, ho, hT, hk, hr, bne_self_eq_false, Bool.not_true, Bool.or_self, Bool.false_eq_true, if_false]
  rfl

end Tile

theorem exec_tileOpRetire_of_loop (ho : (s.coreAt core).ops.get? e = some o) (hp : o.phase = .moved) (hk : o.kind = .mloop) :
    exec (.tileOpRetire core e) s = .next (s.completeOp core e) := by
  change execTileOpRetire core e s = _
  simp [execTileOpRetire, ho, hp, hk]

theorem exec_tileOpRetire_of_conversion (ho : (s.coreAt core).ops.get? e = some o) (hp : o.phase = .moved) (hk : o.kind = .mcvt) :
    exec (.tileOpRetire core e) s = .next (s.onOp core e (fun o => { o with retired := true })) := by
  change execTileOpRetire core e s = _
  simp [execTileOpRetire, ho, hp, hk]

end Op

/-! ### A unit's oldest request (05 R105, R107, R109) -/

section Unit
variable {s : State} {k u : Nat} {r : NbReq} {rest : List NbReq}

/-- The world of a request's troupe. -/
def State.nbWorld (s : State) (r : NbReq) : Nat := ((s.troupes.get? r.troupe).map s.worldOf).getD 0

/-- The unit has taken the request off its queue. -/
def State.nbTaken (s : State) (k u : Nat) (rest : List NbReq) : State := s.onUnit k u (fun U => { U with queue := rest })

/-- The bytes that a store request writes. -/
def NbReq.stored (r : NbReq) : Tab Byte :=
  r.lanes.foldl (fun (m : Tab Byte) e => ((r.data.getD e.1 []).mapIdx (fun i x => (e.2 + i, x.setWidth 8))).foldl
    (fun (m : Tab Byte) b => m.set b.1 b.2) m) []

/-- One granule of a store is written at its bank; a failing one is noted. -/
def nbStoreGranule (w : Nat) (bytes : Tab Byte) (p : State × List (Nat × Nat)) (g : Nat) : State × List (Nat × Nat) :=
  let q := p.1.writeGranule w g (bytes.filter (fun e => e.1 / 64 == g))
  (q.1, p.2 ++ (q.2.map (fun c => (g, c))).toList)

/-- The state behind the reads of a request's granules at its banks. -/
def State.nbReads (s : State) (w : Nat) (r : NbReq) : State := (laneGranules r.lanes).foldl (fun s g => s.bankRead w (g * 64) 0) s

/-- A failing granule is noted once, whether its outcome is taken apart or mapped. -/
theorem nbStoreGranule_eq (w : Nat) (bytes : Tab Byte) (p : State × List (Nat × Nat)) (g : Nat) :
    nbStoreGranule w bytes p g = match p.1.writeGranule w g (bytes.filter (fun e => e.1 / 64 == g)) with
      | (s', some c) => (s', p.2 ++ [(g, c)])
      | (s', none) => (s', p.2) := by
  unfold nbStoreGranule
  split <;> simp [*]

theorem exec_nbAccessReturn_of_store (hq : ((s.slice k).unit u).queue = r :: rest) (hk : r.kind = 1) :
    exec (.nbAccessReturn k u) s =
      let p := (granulesOf r.stored).foldl (nbStoreGranule (s.nbWorld r) r.stored) (s.nbTaken k u rest, [])
      .next (p.1.nbTrap r p.2) := by
  change execNbAccessReturn k u s = _
  rw [funext₂ (nbStoreGranule_eq (s.nbWorld r) r.stored)]
  simp only [execNbAccessReturn, hq, hk, if_true]
  rfl

/-- The bytes that a lane of a read gets. -/
def State.nbBytes (s : State) (r : NbReq) (j : Nat) : List Byte :=
  s.mem.readBytes (Tab.getD r.lanes j 0) (if r.kind = 0 then widthOf r.mod else 4)

theorem exec_nbAccessReturn_of_read (hq : ((s.slice k).unit u).queue = r :: rest) (hk : r.kind ≠ 1)
    (hf : (s.nbTaken k u rest).nbFaults (s.nbWorld r) (laneGranules r.lanes) = []) :
    exec (.nbAccessReturn k u) s = .next (((s.nbTaken k u rest).nbReads (s.nbWorld r) r).onSet r.troupe r.set (fun S =>
      S.onLanes (maskOf (fun j => r.lanes.any (fun e => e.1 == j)))
        (fun j th => th.arrive r.id (r.regs j ((s.nbTaken k u rest).nbBytes r j))))) := by
  change execNbAccessReturn k u s = _
  rw [State.nbTaken, State.nbWorld] at hf
  simp only [execNbAccessReturn, hq, hk, hf, if_false]
  rfl

theorem exec_nbAccessReturn_of_fails (hq : ((s.slice k).unit u).queue = r :: rest) (hk : r.kind ≠ 1)
    (hf : (s.nbTaken k u rest).nbFaults (s.nbWorld r) (laneGranules r.lanes) ≠ []) :
    exec (.nbAccessReturn k u) s = .next ((((s.nbTaken k u rest).nbReads (s.nbWorld r) r).onSet r.troupe r.set (fun S =>
      { S with threads := S.threads.map (·.lose r.id) })).nbTrap r ((s.nbTaken k u rest).nbFaults (s.nbWorld r) (laneGranules r.lanes))) := by
  obtain ⟨b, bs, hb⟩ := List.exists_cons_of_ne_nil hf
  change execNbAccessReturn k u s = _
  rw [State.nbTaken, State.nbWorld] at hb
  simp only [execNbAccessReturn, hq, hk, hb, if_false, State.nbTaken, State.nbWorld]
  rfl

theorem nbTrap_of_head {bad : List (Nat × Nat)} {g cause : Nat} (h : bad.head? = some (g, cause)) :
    s.nbTrap r bad =
      let fail := maskOf (fun j => r.lanes.any (fun e => e.1 == j && bad.any (fun b => b.1 == e.2 / 64)))
      s.lateTrap (((s.troupes.get? r.troupe).map (·.launch)).getD 0) r.troupe r.set
        { cause := cause, set := r.set, pc := r.pc, addr := g * 64, fail := fail, low := (lowLane fail).getD 0
          copy := if r.kind = 1 then none else some r.id } := by
  simp only [State.nbTrap, h]

end Unit

/-! ### Requests of copies (06 R124, R141; 08 R178; 10 R226, R230) -/

section Transfer
variable {s : State} {q : Xfer}

/-- Where no address fails, no byte does. -/
theorem Xfer.failing_eq_none {f : Nat → Option Nat} (h : ∀ a, f a = none) : q.failing f = none := by
  simp [Xfer.failing, h, List.findSome?_eq_none_iff]

/-- The state behind the read of a request at its home. -/
def State.pulledAtHome (s : State) (q : Xfer) : State :=
  ((s.countXfer q).onOp q.core q.entry (fun o =>
    { o with unverified := addAll o.unverified ((s.countXfer q).unvOf q.world [q.dpa / 128]) })).homeRead q.world q.dpa q.n q.pol

theorem pull_at_home (hfar : q.far = false) (hf : q.failing (s.readFault q.world) = none) (hk : q.op.kind ≠ .cpyIn) :
    s.pull q = ((s.pulledAtHome q).markProt q.world (q.dpa / 128) q.prot).landPieces q.core q.entry q.us q.lo
      ((s.pulledAtHome q).seenBytes q.world q.dpa q.n) := by
  have lane : (q.op.kind == .cpyIn) = false := beq_eq_false_iff_ne.mpr hk
  simp only [State.pull, hfar, hf, lane, Bool.false_and, Bool.false_eq_true, if_false]
  rfl

theorem pull_fails {row va c : Nat} (hfar : q.far = false) (hf : q.failing (s.readFault q.world) = some (row, va, c)) :
    s.pull q = ((s.countXfer q).serve q.world (q.dpa + (va - q.lo)) 1).holdOp q.core q.entry row c 0 va := by
  simp only [State.pull, hfar, hf, Bool.false_eq_true, if_false]

theorem pull_of_no_read (hfar : q.far = true) (hr : s.mayRead q.world q.dpa = false) : s.pull q = s := by
  simp only [State.pull, hfar, hr, Bool.not_false, Bool.true_or, if_true]

theorem pull_at_target (hfar : q.far = true) (hr : s.mayRead q.world q.dpa = true)
    (hw : 2 ≤ s.portOf q.dpa →
      s.engineReads q.core q.world (s.portOf q.dpa) < (s.world q.world).wins.getD (s.portOf q.dpa - 2) 256) :
    s.pull q = (s.countXfer q).send (.read q.n) (.op q.core q.entry (q.us.headD 0)) q.world q.dpa q.launch := by
  have window : (decide (2 ≤ s.portOf q.dpa) && decide ((s.world q.world).wins.getD (s.portOf q.dpa - 2) 256 ≤
      s.engineReads q.core q.world (s.portOf q.dpa))) = false := by
    simpa using hw
  simp only [State.pull, hfar, hr, window, Bool.not_true, Bool.or_self, Bool.false_eq_true, if_false, if_true]

section Write
variable (hfar : q.far = false) (hc : s.contained q.world q.dpa = false) {s1 : State}
include hfar hc

theorem push_at_home (hw : s.writeLine q.world (s.xferBytes q) q.pol = some (s1, [])) :
    s.push q = ((s1.countXfer q).markProt q.world (q.dpa / 128) q.prot).piecesDone q.core q.entry q.us := by
  have none : q.failing (fun a => (([] : List (Nat × Nat)).find? (fun b => b.1 == a / 64 * 64)).map (·.2)) = none :=
    Xfer.failing_eq_none fun _ => rfl
  simp only [State.push, hfar, hc, hw, none, Bool.false_eq_true, if_false]

theorem push_fails {bad : List (Nat × Nat)} {row va c : Nat} (hw : s.writeLine q.world (s.xferBytes q) q.pol = some (s1, bad))
    (hf : q.failing (fun a => (bad.find? (fun b => b.1 == a / 64 * 64)).map (·.2)) = some (row, va, c)) :
    s.push q = ((s1.countXfer q).markProt q.world (q.dpa / 128) q.prot).holdOp q.core q.entry row c 0 va := by
  simp only [State.push, hfar, hc, hw, hf, Bool.false_eq_true, if_false]

end Write

theorem push_of_contained (hfar : q.far = false) (hc : s.contained q.world q.dpa = true) :
    s.push q = s.holdOp q.core q.entry (q.us.headD 0 / 32) 0x50 0 q.lo := by
  simp only [State.push, hfar, hc, Bool.false_eq_true, if_false, if_true]

theorem push_of_busy (hb : s.lineBusy q.world (q.dpa / 128) = true) (hfar : q.far = true) : s.push q = s := by
  simp only [State.push, hfar, hb, if_true]

theorem push_at_target (hb : s.lineBusy q.world (q.dpa / 128) = false) (hfar : q.far = true) :
    s.push q = (s.countXfer q).send (.flush (maskedLine (s.xferBytes q)).1 (maskedLine (s.xferBytes q)).2)
      (.op q.core q.entry (q.us.headD 0)) q.world (q.dpa / 128 * 128) q.launch := by
  simp only [State.push, hfar, hb, Bool.false_eq_true, if_false, if_true]

end Transfer

/-! ### The reduction engine (05 R112, R117) -/

section Reduction
variable {s : State} {k : Nat} {c : RedCmd} {rest : List RedCmd} {L : Launch}

@[simp] theorem redTrap_nil (s : State) (c : RedCmd) : s.redTrap c [] = s := rfl

theorem redTrap_of_head {bad : List (Nat × Nat × Nat)} {item addr cause : Nat} (h : bad.head? = some (item, addr, cause))
    (hu : c.fromUnit = true) :
    s.redTrap c bad = s.lateTrap c.launch c.troupe c.set
      { cause := 0x41, set := c.set, pc := c.pc, addr := addr, info := item + cause * 256, low := c.lane, fail := maskBit c.lane } := by
  obtain ⟨bs, rfl⟩ := List.head?_eq_some_iff.mp h
  exact if_pos hu

/-- The value that a command's completion store writes: inverted where something failed. -/
def RedCmd.completion (c : RedCmd) (bad : List (Nat × Nat × Nat)) : Word := if bad = [] then c.cval else ~~~ c.cval

/-- What a command's run leaves, and what its completion store then misses. -/
def State.redStored (s : State) (k : Nat) (L : Launch) (c : RedCmd) : State × List (Nat × Nat) :=
  let p := s.redRun k L.world (s.windows L k) c
  p.1.homeWrite L.world (runTab (s.dpaOf L c.caddr) (leBytes 4 (c.completion p.2).toNat))

section Execute
variable (hq : (s.slice k).nb.queue = c :: rest) (hL : s.launches.get? c.launch = some L)
  (hb : s.lineBusy L.world (s.dpaOf L c.caddr / 128) = false)
include hq hL hb

/-- A command by what failed of it: its granules and its completion store. -/
theorem exec_redCmdExecute_eq :
    exec (.redCmdExecute k) s =
      let bad := (s.redRun k L.world (s.windows L k) c).2
      let z := s.redStored k L c
      .next (((((z.1.expose L.world [s.dpaOf L c.caddr / 128]).onSlice k (fun S => { S with nb := { S.nb with
        queue := rest, err := if bad.isEmpty && z.2.isEmpty then S.nb.err else min (S.nb.err + 1) (2 ^ 16 - 1)
        done := if z.2.isEmpty then (S.nb.done + 1) % 2 ^ 32 else S.nb.done } })).redTrap c bad).redTrap c
          (z.2.map (fun b => (17, b.1, b.2))))) := by
  change execRedCmdExecute k s = _
  simp only [execRedCmdExecute, hq, hL, hb, Bool.false_eq_true, if_false, State.redStored, RedCmd.completion, ← List.isEmpty_iff]
  rfl

/-- A command of which nothing fails. -/
theorem exec_redCmdExecute_of_done (hp : (s.redRun k L.world (s.windows L k) c).2 = []) (hz : (s.redStored k L c).2 = []) :
    exec (.redCmdExecute k) s =
      .next (((s.redStored k L c).1.expose L.world [s.dpaOf L c.caddr / 128]).onSlice k (fun S => { S with nb := { S.nb with
        queue := rest, done := (S.nb.done + 1) % 2 ^ 32 } })) := by
  rw [exec_redCmdExecute_eq hq hL hb]
  simp only [hp, hz, List.isEmpty_nil, Bool.and_self, if_true, List.map_nil, redTrap_nil]

/-- A command of which a granule or the completion store fails is counted once, and each failure has its trap. -/
theorem exec_redCmdExecute_of_fails (hf : (s.redRun k L.world (s.windows L k) c).2 ≠ [] ∨ (s.redStored k L c).2 ≠ []) :
    exec (.redCmdExecute k) s =
      .next (((((s.redStored k L c).1.expose L.world [s.dpaOf L c.caddr / 128]).onSlice k (fun S => { S with nb := { S.nb with
        queue := rest, err := min (S.nb.err + 1) (2 ^ 16 - 1)
        done := if (s.redStored k L c).2 = [] then (S.nb.done + 1) % 2 ^ 32 else S.nb.done } })).redTrap c
          (s.redRun k L.world (s.windows L k) c).2).redTrap c ((s.redStored k L c).2.map (fun b => (17, b.1, b.2)))) := by
  have counted : ¬ ((s.redRun k L.world (s.windows L k) c).2 = [] ∧ (s.redStored k L c).2 = []) := by tauto
  rw [exec_redCmdExecute_eq hq hL hb]
  simp only [Bool.and_eq_true, List.isEmpty_iff, if_neg counted]

end Execute
end Reduction

/-- Settles O40: each event of an engine by its equation. -/
theorem enginesRun : Obligations.EnginesRun := by
  unfold Obligations.EnginesRun
  intro s core e row k u o T
  refine ⟨fun ho hT => ⟨fun hk dpa prot hn ha hout hm hr hd => ?tensor, fun hk dpa prot hn ha hout hm hr hd => ?lane,
      fun hk hp hd hv => ⟨exec_copyComplete_of_no_word ho hk hp hd hv, fun n v => exec_copyComplete_of_word ho hk hp hd hv⟩,
      fun hk hr => exec_mloopRun_of_ready ho hT hk (Core.tileReady_iff.mpr hr),
      fun hk hr => exec_mcvtRun_of_ready ho hT hk (Core.tileReady_iff.mpr hr),
      fun hp => ⟨exec_tileOpRetire_of_loop ho hp, exec_tileOpRetire_of_conversion ho hp⟩⟩,
    fun r rest => exec_nbAccessReturn_of_store, fun r rest hq hk => ⟨exec_nbAccessReturn_of_read hq hk, exec_nbAccessReturn_of_fails hq hk⟩,
    fun r bad g cause => nbTrap_of_head,
    fun q => ⟨pull_at_home, fun row va c => pull_fails, pull_of_no_read, pull_at_target, fun s1 hf hc => push_at_home hf hc,
      fun s1 bad row va c hf hc => push_fails hf hc, push_of_contained, push_of_busy, push_at_target⟩,
    fun c rest L hq hL => ?command, fun c bad item addr cause => redTrap_of_head⟩
  case tensor =>
    rw [exec_tcpyTransfer ho hk, State.movePiece_of_moves ho hT (OpKind.isCopy_of_tensor hk) ⟨hn, ha, hout, hm, hr, hd⟩]
    rfl
  case lane =>
    rw [exec_laneCopyTransfer ho hk, State.movePiece_of_moves ho hT (OpKind.isCopy_of_lane hk) ⟨hn, ha, hout, hm, hr, hd⟩]
    rfl
  case command =>
    intro ca hb p q
    refine ⟨fun hp hz => ?_, exec_redCmdExecute_of_fails hq hL hb⟩
    have value : c.completion p.2 = c.cval := if_pos hp
    have stored : s.redStored k L c = q := by simp only [State.redStored, value, q, p, ca]
    rw [exec_redCmdExecute_of_done hq hL hb hp (stored ▸ hz), stored]

end Sys2Proof.Machine
end

section
/-! O34: the queue instructions of the cue stream (09 R205, R208-R210). First the check that qfill and qdrain share, then each instruction
by the set that it names, the state of its port and its mode. -/

namespace Sys2Proof.Machine

/-! ### What the instructions check and count -/

section Check
variable {s : State} {t : Nat} {T : Troupe} {set x : Nat} {spad : Bool}

theorem queueBad_of_large (h : T.sets ≤ set) : s.queueBad t T set x spad = some (0x0E, 1) := if_pos h

/-- A set of the troupe, and in scratchpad mode a line of an allotment, pass the check. -/
theorem queueBad_eq_none (h : set < T.sets) (hx : spad = true → x % 128 = 0 ∧ ∃ q, s.spadAt t T x 128 = .ok q) :
    s.queueBad t T set x spad = none := by
  rw [State.queueBad, if_neg (Nat.not_le.mpr h)]
  cases spad with
  | false => rfl
  | true =>
    obtain ⟨aligned, q, inside⟩ := hx rfl
    simp [aligned, inside]

end Check

/-- The sum that qstat reads of a set: the committed entries of each port, and whether the set lives (09 Table 9-3). -/
theorem SetState.status_eq (S : SetState) :
    (List.range 8).foldl (fun n j => n + ((S.port j).filter (fun e => e.pushed == 0)).length * 2 ^ (4 * j)) 0 + b2n S.alive * 2 ^ 32 + 2 ^ 33 =
      ((List.range 8).map (fun j => ((S.port j).filter (fun e => e.pushed == 0)).length * 2 ^ (4 * j))).sum +
        (if S.alive then 2 ^ 32 else 0) + 2 ^ 33 := by
  rw [List.sum_eq_foldl, List.foldl_map, b2n, ite_mul, one_mul, zero_mul]

/-- The scratchpad address of a queue instruction. -/
def Troupe.queueAddr (T : Troupe) (a : BitVec 8) : Nat := (T.gets a.toNat).toNat % 2 ^ 32

/-- The allotment and offset of the line at a queue instruction's address. -/
def State.queueLine (s : State) (t : Nat) (T : Troupe) (a : BitVec 8) : Nat × Nat :=
  match s.spadAt t T (T.queueAddr a) 128 with
  | .ok q => q
  | .error _ => (t, 0)

/-- The words that qfill appends in its mode. -/
def State.fillWords (s : State) (t : Nat) (T : Troupe) (m : BitVec 1) (a : BitVec 8) : List Word :=
  (List.range 32).map (fun i =>
    if m == 1 then BitVec.ofNat 32 (leNat (s.spadBytes (s.queueLine t T a).1 ((s.queueLine t T a).2 + 4 * i) 4))
    else BitVec.ofNat 32 (T.gets a.toNat).toNat)

section Line
variable {s : State} {t : Nat} {T : Troupe} {a : BitVec 8}

theorem State.queueLine_of_ok {q : Nat × Nat} (hq : s.spadAt t T (T.queueAddr a) 128 = .ok q) : s.queueLine t T a = q := by
  simp only [State.queueLine, hq]

theorem State.fillWords_register : s.fillWords t T 0 a = List.replicate 32 (BitVec.ofNat 32 (T.gets a.toNat).toNat) := by
  have broadcast : ((0 : BitVec 1) == 1) = false := rfl
  simp only [State.fillWords, broadcast, Bool.false_eq_true, if_false, List.map_const', List.length_range]

theorem State.fillWords_line {q : Nat × Nat} (hq : s.spadAt t T (T.queueAddr a) 128 = .ok q) :
    s.fillWords t T 1 a = (List.range 32).map (fun i => BitVec.ofNat 32 (leNat (s.spadBytes q.1 (q.2 + 4 * i) 4))) := by
  simp only [State.fillWords, State.queueLine_of_ok hq, beq_self_eq_true, if_true]

end Line

section Cue
variable {s : State} {t : Nat} {T : Troupe} {u : Issue} {m : BitVec 1} {p : BitVec 3} {a b : BitVec 8}

/-! ### A set number out of range -/

theorem queue_traps_of_large (h : CueAt s t T u) (hh : T.cue.handler = none) (hb : T.sets ≤ (T.gets b.toNat).toNat) :
    exec (.qfill m p a b) s = .next (s.raiseCue t u.group 0x0E 1 0 0 0) ∧
      exec (.qdrain m p a b) s = .next (s.raiseCue t u.group 0x0E 1 0 0 0) := by
  constructor
  all_goals
    refine (cueDo_of_cueAt h _).trans ?_
    simp only [hh, queueBad_of_large hb]
    rfl

/-! ### A set that the check lets through -/

section Accepted
variable {S : SetState} (h : CueAt s t T u) (hh : T.cue.handler = none)
  (hb : s.queueBad t T (T.gets b.toNat).toNat (T.queueAddr a) (m == 1) = none) (hS : T.setTab.get? (T.gets b.toNat).toNat = some S)
include h hh hb hS

/-! ### qfill (09 R208) -/

/-- qfill on a set that lives, or that it has stalled for, by the room in its port and by its line. -/
theorem exec_qfill_of_live (live : S.alive = true ∨ (T.cue.answers.get? 2).isSome = true) :
    exec (.qfill m p a b) s =
      let stall w := .next ((s.onCue t (fun C => { C with answers := C.answers.set 2 1 })).cueStall t [w])
      if S.room p.toNat = false then stall (.port (T.gets b.toNat).toNat p.toNat true)
      else if m == 1 && !s.lineFull (s.queueLine t T a).1 (s.queueLine t T a).2 then
        stall (.line (s.queueLine t T a).1 ((s.queueLine t T a).2 / 128))
      else .next (((s.cueForget t).onSet t (T.gets b.toNat).toNat
        (fun S => S.push p.toNat { words := s.fillWords t T m a, taken := 0, pushed := 0 })).cueTo t (u.word + 4) Troupe.tick) := by
  have stays : (!S.alive && (T.cue.answers.get? 2).isNone) = false := by
    rw [Bool.and_eq_false_iff, Bool.not_eq_false', Option.isNone_eq_false_iff]
    exact live
  refine (cueDo_of_cueAt h _).trans ?_
  rw [Troupe.queueAddr] at hb
  simp only [hh, hb, hS, stays, Bool.not_eq_true']
  rfl

theorem exec_qfill_of_room (live : S.alive = true ∨ (T.cue.answers.get? 2).isSome = true) (room : (S.port p.toNat).length < 2)
    (line : m = 1 → s.lineFull (s.queueLine t T a).1 (s.queueLine t T a).2 = true) :
    exec (.qfill m p a b) s = .next (((s.cueForget t).onSet t (T.gets b.toNat).toNat
      (fun S => S.push p.toNat { words := s.fillWords t T m a, taken := 0, pushed := 0 })).cueTo t (u.word + 4) Troupe.tick) := by
  refine (exec_qfill_of_live h hh hb hS live).trans ((if_neg ?_).trans (if_neg ?_))
  · simpa [SetState.room] using room
  · simpa using line

theorem exec_qfill_of_full (live : S.alive = true ∨ (T.cue.answers.get? 2).isSome = true) (full : 2 ≤ (S.port p.toNat).length) :
    exec (.qfill m p a b) s = .next ((s.onCue t (fun C => { C with answers := C.answers.set 2 1 })).cueStall t
      [.port (T.gets b.toNat).toNat p.toNat true]) :=
  (exec_qfill_of_live h hh hb hS live).trans (if_pos (decide_eq_false (Nat.not_lt.mpr full)))

/-! ### qdrain (09 R209) -/

theorem exec_qdrain_of_empty (empty : S.drainable p.toNat = none) :
    exec (.qdrain m p a b) s = .next (if S.alive then s.cueStall t [.port (T.gets b.toNat).toNat p.toNat false]
      else s.raiseCue t u.group 0x0E 3 0 0 0) := by
  refine (cueDo_of_cueAt h _).trans ?_
  rw [Troupe.queueAddr] at hb
  simp only [hh, hb, hS, empty]
  cases S.alive <;> rfl

/-- qdrain of an entry, by its mode and by the copies that still read its line. -/
theorem exec_qdrain_of_entry {e : Entry} (he : S.drainable p.toNat = some e) :
    exec (.qdrain m p a b) s =
      let popped := s.onSet t (T.gets b.toNat).toNat (fun S => { S with ports := modAt S.ports p.toNat (·.drop 1) })
      let q := s.queueLine t T a
      if m = 0 then .next (popped.cueTo t (u.word + 4) (fun T => T.write 0 a.toNat (BitVec.ofNat 64 (e.words.headD 0).toNat)))
      else if s.spadFree q.1 q.2 (q.2 + 128) = false then .next (s.cueStall t [.unread q.1 q.2 (q.2 + 128)])
      else .next (((popped.onTroupe q.1 (fun V => V.putBytes q.2 (e.words.flatMap (fun w => leBytes 4 w.toNat)))).spadSquash t 0xFF
        [(q.1, q.2 / 128)]).cueTo t (u.word + 4) Troupe.tick) := by
  refine (cueDo_of_cueAt h _).trans ?_
  rw [Troupe.queueAddr] at hb
  simp only [hh, hb, hS, he, Bool.not_eq_true']
  rfl

end Accepted

/-! ### qstat (09 R210) -/

theorem exec_qstat_of_set (h : CueAt s t T u) (d : BitVec 9) {S : SetState} (hS : T.setTab.get? (T.gets b.toNat).toNat = some S)
    (hb : (T.gets b.toNat).toNat < T.sets) :
    exec (.qstat d b) s = .next (s.cueTo t (u.word + 4) (fun T => T.write 0 d.toNat (BitVec.ofNat 64
      (((List.range 8).map (fun j => ((S.port j).filter (fun e => e.pushed == 0)).length * 2 ^ (4 * j))).sum +
        (if S.alive then 2 ^ 32 else 0) + 2 ^ 33)))) := by
  refine (cueDo_of_cueAt h _).trans ?_
  simp only [if_pos hb, hS, S.status_eq, State.cueWrite]

theorem exec_qstat_of_large (h : CueAt s t T u) (d : BitVec 9) (hb : T.sets ≤ (T.gets b.toNat).toNat) :
    exec (.qstat d b) s = .next (s.cueTo t (u.word + 4) (fun T => T.write 0 d.toNat 0)) := by
  refine (cueDo_of_cueAt h _).trans ?_
  simp only [if_neg (Nat.not_lt.mpr hb)]
  rfl

end Cue

/-- Settles O34: a set number out of range by the check, qfill by the room in its port and its mode, qdrain by the head of its port and its
mode, and qstat by the set that it names. -/
theorem cueQueues : Obligations.CueQueues := by
  unfold Obligations.CueQueues
  intro s t T u d m p a b h set v x goOn pop
  have accepted (hs : set < T.sets) (hx : m = 1 → x % 128 = 0 ∧ ∃ q, s.spadAt t T x 128 = .ok q) :
      s.queueBad t T set (T.queueAddr a) (m == 1) = none := queueBad_eq_none hs fun hm => hx (beq_iff_eq.mp hm)
  have register (hs : set < T.sets) (hm : m = 0) := accepted hs fun h1 => absurd (hm.symm.trans h1) (by decide)
  have line (hs : set < T.sets) (ha : x % 128 = 0) {q : Nat × Nat} (hq : s.spadAt t T x 128 = .ok q) := accepted hs fun _ => ⟨ha, q, hq⟩
  refine ⟨fun hh hb => queue_traps_of_large h hh hb, fun hh hs S hS live => ⟨fun room => ⟨?fillRegister, ?fillLine⟩, fun full hx => ?fillFull⟩,
    fun hh hs hm S hS empty => ?drainEmpty, fun hh hs S e hS he => ⟨?drainRegister, ?drainBusy, ?drainLine⟩,
    fun S hS hs => exec_qstat_of_set h d hS hs, exec_qstat_of_large h d⟩
  case fillRegister =>
    intro hm
    rw [exec_qfill_of_room h hh (register hs hm) hS live room fun h1 => absurd (hm.symm.trans h1) (by decide), hm, State.fillWords_register]
  case fillLine =>
    intro hm ha q hq full
    rw [exec_qfill_of_room h hh (line hs ha hq) hS live room fun _ => (State.queueLine_of_ok hq).symm ▸ full, hm, State.fillWords_line hq]
  case fillFull => exact exec_qfill_of_full h hh (accepted hs hx) hS live full
  case drainEmpty => exact exec_qdrain_of_empty h hh (register hs hm) hS empty
  case drainRegister =>
    intro hm
    exact (exec_qdrain_of_entry h hh (register hs hm) hS he).trans (if_pos hm)
  all_goals
    intro hm ha q hq free
    have drain := exec_qdrain_of_entry h hh (line hs ha hq) hS he
    rw [State.queueLine_of_ok hq] at drain
    refine drain.trans ((if_neg (hm ▸ by decide)).trans ?_)
  case drainBusy => exact if_pos free
  case drainLine => exact if_neg (ne_false_of_eq_true free)

end Sys2Proof.Machine
end

section
/-! O38: how a closed chunk commits (10 R215-R221, R229, Table 10-3; 06 R129, R137). The events in the order of the table: the request that
takes the ticket and the grants, the signature at a core, the squash that a core may answer with, the commit point, and the drain. -/

namespace Sys2Proof.Machine

/-! ### The ticket, the grants and the cores to name (Table 10-3 steps 1 and 2) -/

section Request
variable {s : State} {t k : Nat} {T : Troupe} {S : SetState} {c : Chunk}

/-- A request that nothing forestalls takes one step of the chunk's grants. -/
theorem exec_chunkGrantRequest_of_closing (hT : s.troupes.get? t = some T) (hS : s.setAt? t k = some S) (hc : S.closing = some c)
    (shifted : s.onSet t k SetState.shift = s) (writes : c.writes ≠ []) (up : ∀ h ∈ s.homesOf (s.worldOf T) c.writes, (s.slice h).state ≠ 3)
    (unsealed : s.sealedStores (s.launchOf T) c 1 = false) (undraining : s.sealedStores (s.launchOf T) c 2 = false) :
    exec (.chunkGrantRequest t k) s = .next (s.grantStep t k T S c) := by
  have writes' : c.writes.isEmpty = false := List.isEmpty_eq_false_iff.mpr writes
  have up' : (s.homesOf (s.worldOf T) c.writes).any (fun h => (s.slice h).state == 3) = false := by simpa using up
  change execChunkGrantRequest t k s = _
  simp only [execChunkGrantRequest, shifted, hT, hS, hc, writes', up', unsealed, undraining, Bool.false_eq_true, if_false]

theorem State.grantStep_of_no_room (hp : c.phase = .closed) (full : s.redRoom (s.worldOf T) c.reds = false) : s.grantStep t k T S c = s := by
  simp [State.grantStep, hp, full]

theorem State.grantStep_of_room (hp : c.phase = .closed) (room : s.redRoom (s.worldOf T) c.reds = true) :
    s.grantStep t k T S c =
      s.onClosing t k (fun c => { c with phase := .granting [], ticket := (s.cycle.toNat, T.place.coreNo, k) }) := by
  simp [State.grantStep, hp, room]

variable {got : List Nat} (hp : c.phase = .granting got)
include hp

theorem State.grantStep_of_granted (all : ∀ h ∈ s.homesOf (s.worldOf T) c.writes, got.contains h = true) :
    s.grantStep t k T S c =
      s.onClosing t k (fun c => { c with phase := .acking (s.namedCores (s.worldOf T) t k c.writes) false }) := by
  have noneLeft : (s.homesOf (s.worldOf T) c.writes).find? (fun h => !got.contains h) = none := by simpa using all
  simp only [State.grantStep, hp, noneLeft]

variable {h : Nat} (next : (s.homesOf (s.worldOf T) c.writes).find? (fun h => !got.contains h) = some h)
include next

theorem State.grantStep_of_conflict
    (conflict : ∃ g ∈ s.grants, g.home = h ∧ ¬ (g.troupe = t ∧ g.set = k) ∧ writeSig g.lines c.writes = true) :
    s.grantStep t k T S c = s := by
  have held : s.grants.any (fun g => g.home == h && !(g.troupe == t && g.set == k) && writeSig g.lines c.writes) = true := by
    simpa [and_assoc, not_and_or, -not_and] using conflict
  simp only [State.grantStep, hp, next, held, Bool.true_or, if_true]

theorem State.grantStep_of_free
    (grants : ∀ g ∈ s.grants, g.home = h → ¬ (g.troupe = t ∧ g.set = k) → writeSig g.lines c.writes = false)
    (drains : ∀ d ∈ s.drains, d.world = s.worldOf T → d.homes.contains h = true → writeSig d.lines c.writes = false)
    (holders : s.holders (s.worldOf T) t k c.writes = []) :
    s.grantStep t k T S c =
      ({ s with grants := s.grants ++ [{ home := h, troupe := t, set := k, lines := c.writes }] } : State).onClosing t k
        (fun c => { c with phase := .granting (got ++ [h]) }) := by
  have noGrant : s.grants.any (fun g => g.home == h && !(g.troupe == t && g.set == k) && writeSig g.lines c.writes) = false := by
    simpa [imp_iff_not_or, or_assoc] using grants
  have noDrain : s.drains.any (fun d => d.world == s.worldOf T && d.homes.contains h && writeSig d.lines c.writes) = false := by
    simpa using drains
  simp only [State.grantStep, hp, next, noGrant, noDrain, holders, Bool.or_self, Bool.false_eq_true, if_false]

end Request

/-! ### A signature at a core (Table 10-3 steps 2 and 3) -/

/-- Does a chunk's read signature meet one of the lines? -/
def Chunk.meets (d : Chunk) (lines : List Nat) : Bool := lines.any (fun l => readSig d.reads l)

/-- Is a phase one of steps 1 to 3, in which a chunk holds its ticket? -/
def Phase.ticketed : Phase → Bool
  | .granting _ | .acking .. => true
  | _ => false

/-- Does a chunk go before one with this ticket? -/
def Chunk.before (d : Chunk) (ticket : Nat × Nat × Nat) : Bool := ticketLt d.ticket ticket && d.phase.ticketed

/-- Must a set's committing chunk be undone for a chunk that writes the lines? -/
def SetState.undone (S : SetState) (lines : List Nat) (ticket : Nat × Nat × Nat) : Bool :=
  S.closing.any (fun d => d.meets lines && !d.before ticket)

/-- Does a set's committing chunk refuse the lines? -/
def SetState.refuses (S : SetState) (lines : List Nat) (ticket : Nat × Nat × Nat) : Bool :=
  S.closing.any (fun d => d.meets lines && d.before ticket)

/-- A set's reply by what becomes of its two chunks. -/
theorem SetState.reply_eq (S : SetState) (lines : List Nat) (ticket : Nat × Nat × Nat) :
    S.reply lines ticket = if S.undone lines ticket then .all
      else if S.chunk.any (·.meets lines) then .open' (S.refuses lines ticket) else .keep (S.refuses lines ticket) := by
  cases hc : S.closing with
  | none =>
    simp only [SetState.reply, SetState.undone, SetState.refuses, hc]
    rfl
  | some d =>
    simp only [SetState.undone, SetState.refuses, hc, Option.any_some]
    cases hm : d.meets lines with
    | false =>
      rw [Chunk.meets] at hm
      simp only [SetState.reply, hc, hm]
      rfl
    | true =>
      rw [Chunk.meets] at hm
      -- The ticket decides in the phases of steps 1 to 3; in any other the chunk is undone.
      cases hp : d.phase <;> cases hl : ticketLt d.ticket ticket <;>
        simp only [SetState.reply, Chunk.before, hc, hm, hp, hl] <;> rfl

theorem SetState.reply_refuses (S : SetState) (lines : List Nat) (ticket : Nat × Nat × Nat) :
    (S.reply lines ticket).refuses = S.refuses lines ticket := by
  have one : S.undone lines ticket = true → S.refuses lines ticket = false := by
    cases hc : S.closing with
    | none => simp [SetState.undone, hc]
    | some d => simp +contextual [SetState.undone, SetState.refuses, hc]
  rw [SetState.reply_eq]
  split
  case isTrue h => exact (one h).symm
  case isFalse => split <;> rfl

/-- The sets of a core's troupes in a world, but for one set. -/
def State.others (s : State) (core w t k : Nat) : List (Nat × Nat × SetState) :=
  s.troupes.flatMap (fun e => if e.2.place == .core core && s.worldOf e.2 == w then
    (e.2.setTab.filter (fun f => !(e.1 == t && f.1 == k))).map (fun f => (e.1, f.1, f.2)) else [])

/-- The replies of a core's sets are those of the other sets. -/
theorem State.replies_eq (s : State) (core w t k : Nat) (lines : List Nat) (ticket : Nat × Nat × Nat) :
    (s.troupes.flatMap (fun (e : Nat × Troupe) => if e.2.place == .core core && s.worldOf e.2 == w then
      e.2.setTab.filterMap (fun (f : Nat × SetState) => if e.1 == t && f.1 == k then none else some (e.1, f.1, f.2.reply lines ticket))
      else [])) =
      (s.others core w t k).map (fun x => (x.1, x.2.1, x.2.2.reply lines ticket)) := by
  rw [State.others, List.map_flatMap]
  congr 1
  funext e
  split
  case isFalse => rfl
  case isTrue =>
    rw [List.map_map, ← List.filterMap_eq_map, List.filterMap_filter]
    congr 1
    funext f
    cases e.1 == t && f.1 == k <;> rfl

/-- What a set undergoes for its reply. -/
def State.afterReply (s : State) (lines : List Nat) (ticket : Nat × Nat × Nat) (x : Nat × Nat × SetState) : State :=
  if x.2.2.undone lines ticket then s.squashAll x.1 x.2.1 else if x.2.2.chunk.any (·.meets lines) then s.squash x.1 x.2.1 false else s

theorem exec_signatureReceived {s : State} {t k core : Nat} {T : Troupe} {S : SetState} {c : Chunk} {cores : List Nat} {refused : Bool}
    (hT : s.troupes.get? t = some T) (hS : s.setAt? t k = some S) (hc : S.closing = some c) (hp : c.phase = .acking cores refused)
    (named : cores.contains core = true) :
    let sets := s.others core (s.worldOf T) t k
    exec (.signatureReceived core t k) s =
      .next ((sets.foldl (fun s x => s.afterReply c.writes c.ticket x)
          (s.dropL1 (fun n l => n == core && l.world == s.worldOf T && c.writes.contains l.dpa))).onClosing t k
        (fun d => { d with phase := .acking (cores.filter (· != core)) (refused || sets.any (·.2.2.refuses c.writes c.ticket)) })) := by
  intro sets
  change execSignatureReceived core t k s = _
  simp only [execSignatureReceived, hS, hT, hc, hp, named, State.replies_eq, Option.bind_some, Option.map_some, Option.getD_some,
    Bool.not_true, Bool.false_eq_true, if_false, List.foldl_map, List.any_map, Function.comp_def, SetState.reply_refuses]
  refine congrArg (fun u : State => Host.Outcome.next (u.onClosing t k _)) (List.foldl_ext _ _ _ fun u x _ => ?_)
  rw [SetState.reply_eq, State.afterReply]
  cases x.2.2.undone c.writes c.ticket <;> cases x.2.2.chunk.any (·.meets c.writes) <;> rfl

/-! ### The squash of an open chunk (R218, R219) -/

section Squash
variable {s : State} {t k : Nat} {T : Troupe} {S : SetState} {d : Chunk}

/-- A squash of the open chunk restores its checkpoint and keeps the committing chunk. -/
theorem SetState.undo_open (hd : S.chunk = some d) :
    (S.undo false).threads = d.start ∧ (S.undo false).chunk = none ∧ (S.undo false).closing = S.closing ∧
      (S.undo false).names = d.names ∧ (S.undo false).handler = d.held := by
  have first : S.first? false = some d := hd
  simp only [SetState.undo, first]
  trivial

/-- A squash of an open chunk that is no transaction counts against its set. -/
theorem State.squash_open (hT : s.troupes.get? t = some T) (hS : s.setAt? t k = some S) (hd : S.chunk = some d) (plain : d.tx = none) :
    s.squash t k false =
      (((s.dropReads t k).tally (s.worldOf T) 4 1).freeOps T.place.coreNo d.copies).onSet t k
        (fun S => { (S.undo false).ageFrom s.cycle.toNat with
          squashes := S.squashes + 1, starving := S.starving || decide (15 ≤ S.squashes) }) := by
  have noTx : (S.first? false).any (fun c => c.tx.isSome) = false := by simp [SetState.first?, hd, plain]
  have ops : S.pendingOps false = d.copies := by simp [SetState.pendingOps, hd]
  simp only [State.squash, hT, hS, noTx, ops, Bool.false_eq_true, if_false, State.tally_cycle]
  rfl

end Squash

/-! ### The commit point (Table 10-3 step 4) -/

/-- The drain that a chunk leaves. -/
def Chunk.drain (d : Chunk) (t k launch w : Nat) (homes : List Nat) : Drain :=
  { troupe := t, set := k, launch := launch, world := w, pc := d.pc, stores := d.stores, outs := d.outs, homes := homes, lines := d.writes
    seals := d.seals }

/-- A set whose closing chunk has taken effect. -/
def SetState.committed (S : SetState) (d : Chunk) : SetState :=
  ({ S.portsCommit with
    closing := none, squashes := if d.tx.isSome then S.squashes else 0, txSquashes := if d.tx.isSome then 0 else S.txSquashes
    starving := false, retry := 0, trapReady := d.trap.orElse (fun _ => S.trapReady) }).shift

/-- A chunk of stores alone takes effect and stands in the drain. -/
theorem State.commit_of_stores {d : Chunk} (s : State) (t k : Nat) (T : Troupe) (hcopies : d.copies = []) (hamask : d.amask = none)
    (hreds : d.reds = []) (hspad : d.spWrites = []) (hstores : d.stores ≠ []) :
    let w := s.worldOf T
    let s1 := ((s.spadEffects d).dropGrants t k).onSet t k (fun S => S.committed d)
    let s2 := s1.exposeCommit w T.place.coreNo d (t, k)
    s.commit t k T d = ({ s2 with drains := s2.drains ++ [d.drain t k T.launch w (s1.homesOf w d.writes)] } : State).tally w 3 1 := by
  have nonempty : d.stores.isEmpty = false := List.isEmpty_eq_false_iff.mpr hstores
  cases ht : d.trap <;>
    simp only [State.commit, hcopies, hamask, hreds, hspad, ht, nonempty, List.foldl_nil, List.filter_nil, List.take_nil, State.sendReds,
      State.spadSquash, List.isEmpty_nil, Bool.false_and, Bool.false_eq_true, if_false, if_true, List.map_nil, List.nil_append,
      SetState.committed, Chunk.drain, Option.orElse_none, Option.orElse_some]

section Point
variable {s : State} {t k : Nat} {T : Troupe} {S : SetState} {c : Chunk} (shifted : s.onSet t k SetState.shift = s)
  (hT : s.troupes.get? t = some T) (hS : s.setAt? t k = some S) (hc : S.closing = some c) (ready : s.commitReady (s.worldOf T) c = true)
  (unsealed : s.sealedStores (s.launchOf T) c 1 = false) (undraining : s.sealedStores (s.launchOf T) c 2 = false)
include shifted hT hS hc ready unsealed undraining

/-- A chunk that may commit does so if its seals stand behind those that drain, and is squashed if one must fail. -/
theorem exec_commitPoint_of_ready :
    exec (.commitPoint t k) s = .next (if (s.withSeals.sealAll (s.launchOf T) T.launch c.seals).isSome then s.commit t k T c
      else (s.squashAll t k).onSet t k (fun S => { S with retry := 1 })) := by
  have accepted : (c.phase == .acking [] true) = false := by
    rw [beq_eq_false_iff_ne]
    intro hp
    simp [State.commitReady, hp] at ready
  change execCommitPoint t k s = _
  simp only [execCommitPoint, shifted, hT, hS, hc, accepted, ready, unsealed, undraining, Bool.not_true, Bool.false_eq_true, if_false]
  cases s.withSeals.sealAll (s.launchOf T) T.launch c.seals <;> rfl

end Point

/-! ### The drain (Table 10-3 step 5; R229, R495) -/

section Drain
variable {s s1 : State} {t k i : Nat} {d : Drain} {before : List Drain}

/-- What a drain's stores leave of the state. -/
def State.stored (s : State) (d : Drain) : State := if d.stores.isEmpty then s else s.drainStores d

/-- A drain whose stores and other effects have all left is finished, once its seals may be registered. -/
theorem State.drained_of_finished (sent : (s.stored d).sendOuts before d d.outs = (s1, []))
    (seals : d.seals = [] ∨ s1.unacked d.troupe d.set = false) : s.drained before d = (s1.sealDrain d, none) := by
  have registered : (d.seals.isEmpty || !s1.unacked d.troupe d.set) = true := by simpa using seals
  rw [State.stored] at sent
  simp only [State.drained, sent, registered, List.isEmpty_nil, Bool.and_self, if_true]

/-- A drain of effects that cannot leave, or of seals that wait for acknowledgements, stays, and holds the lines of those effects. -/
theorem State.drained_of_stays (stores : d.stores = []) (stays : s.sendOuts before d d.outs = (s, d.outs))
    (left : d.outs ≠ [] ∨ d.seals ≠ [] ∧ s.unacked d.troupe d.set = true) :
    s.drained before d = (s, some { d with lines := addAll [] (d.outs.filterMap Eff.line?) }) := by
  have waits : (d.outs.isEmpty && (d.seals.isEmpty || !s.unacked d.troupe d.set)) = false := by
    simpa [imp_iff_not_or] using left
  have noStores : d.stores.isEmpty = true := List.isEmpty_iff.mpr stores
  simp only [State.drained, noStores, if_true, stays, waits, Bool.false_eq_true, if_false, ← stores]

/-- The first drain of a set is one of that set. -/
theorem drain_of_findIdx? (hi : s.drains.findIdx? (fun d => d.troupe == t && d.set == k) = some i) (hd : s.drains[i]? = some d) :
    d.troupe = t ∧ d.set = k := by
  obtain ⟨hlt, found, -⟩ := List.findIdx?_eq_some_iff_getElem.mp hi
  rw [List.getElem?_eq_getElem hlt, Option.some.injEq] at hd
  simpa [hd] using found

variable (hi : s.drains.findIdx? (fun d => d.troupe == t && d.set == k) = some i) (hd : s.drains[i]? = some d)
include hi hd

theorem exec_storeDrain_of_finished (sent : (s.stored d).sendOuts (s.drains.take i) d d.outs = (s1, []))
    (seals : d.seals = [] ∨ s1.unacked d.troupe d.set = false) :
    exec (.storeDrain t k) s = .next { s1.sealDrain d with drains := (s1.sealDrain d).drains.eraseIdx i } := by
  change execStoreDrain t k s = _
  simp only [execStoreDrain, hi, hd, State.drained_of_finished sent seals]

theorem exec_storeDrain_of_stays (stores : d.stores = []) (stays : s.sendOuts (s.drains.take i) d d.outs = (s, d.outs))
    (left : d.outs ≠ [] ∨ d.seals ≠ [] ∧ s.unacked d.troupe d.set = true) :
    exec (.storeDrain t k) s =
      .next { s with drains := setAt s.drains i { d with lines := addAll [] (d.outs.filterMap Eff.line?) } } := by
  change execStoreDrain t k s = _
  simp only [execStoreDrain, hi, hd, State.drained_of_stays stores stays left]

end Drain

/-! ### What leaves of a drain -/

section Send
variable {s : State} {d : Drain} {before : List Drain}

theorem State.stored_of_nil (h : d.stores = []) : s.stored d = s := if_pos (List.isEmpty_iff.mpr h)

/-- The stores reach their homes, and each that fails there raises its late trap. -/
theorem State.stored_of_stores {s1 : State} {bad : List (Nat × Nat)} (stores : d.stores ≠ [])
    (h : (s.dropPassed d.world d.troupe d.stores).homeStore d.world (storeTab (d.stores.filter (fun x => !x.sys || s.ctl.poolc)))
      (storePol (d.stores.filter (fun x => !x.sys || s.ctl.poolc))) = (s1, bad)) :
    s.stored d =
      bad.foldl (fun s b => s.lateTrap d.launch d.troupe d.set { cause := b.2, set := d.set, pc := d.pc, addr := b.1 }) s1 := by
  refine (if_neg (mt List.isEmpty_iff.mp stores)).trans ?_
  simp only [State.drainStores, h]

@[simp] theorem State.sendOuts_nil : s.sendOuts before d [] = (s, []) := rfl

theorem State.sendOuts_store_of_sent {x : Store} (free : x.rel = false ∨ s.unacked d.troupe d.set = false) :
    s.sendOuts before d [.store x] = (s.send (.write x.bytes) (.set d.troupe d.set 32 d.pc) d.world x.dpa d.launch, []) := by
  have goes : (x.rel && s.unacked d.troupe d.set) = false := Bool.and_eq_false_iff.mpr free
  simp only [State.sendOuts, goes, Bool.false_eq_true, if_false]

theorem State.sendOuts_store_of_waits {x : Store} (hr : x.rel = true) (hu : s.unacked d.troupe d.set = true) :
    s.sendOuts before d [.store x] = (s, [.store x]) := by
  simp only [State.sendOuts, hr, hu, Bool.and_self, if_true]

theorem State.sendOuts_red_of_sent {r : Red} (far : r.sys = true) (free : r.rel = false ∨ s.unacked d.troupe d.set = false) :
    s.sendOuts before d [.red r] =
      (s.send (.atomic r.op r.width 0 r.val) (.set d.troupe d.set 32 d.pc) d.world r.dpa d.launch, []) := by
  have goes : (r.rel && s.unacked d.troupe d.set) = false := Bool.and_eq_false_iff.mpr free
  simp only [State.sendOuts, goes, far, Bool.false_eq_true, if_false, if_true]

end Send

/-- Settles O38: each event by its equation, in the order of Table 10-3. -/
theorem chunksCommit : Obligations.ChunksCommit := by
  unfold Obligations.ChunksCommit
  intro s t k core T S c
  refine ⟨?request, fun cores refused hT hS hc hp named => exec_signatureReceived hT hS hc hp named,
    fun hT hS d hd plain => ⟨State.squash_open hT hS hd plain, SetState.undo_open hd⟩, fun d => s.commit_of_stores t k T, ?point, ?drain⟩
  case request =>
    intro hT hS hc _ shifted writes up unsealed undraining
    rw [exec_chunkGrantRequest_of_closing hT hS hc shifted writes up unsealed undraining]
    refine ⟨fun hp full => by rw [State.grantStep_of_no_room hp full], fun hp room => by rw [State.grantStep_of_room hp room],
      fun got hp => ⟨fun h next => ⟨fun conflict => by rw [State.grantStep_of_conflict hp next conflict],
        fun grants drains holders => by rw [State.grantStep_of_free hp next grants drains holders]⟩,
        fun all => by rw [State.grantStep_of_granted hp all]⟩⟩
  case point =>
    intro shifted hT hS hc ready unsealed undraining
    rw [exec_commitPoint_of_ready shifted hT hS hc ready unsealed undraining]
    exact ⟨fun fine => by rw [if_pos fine], fun fails => by rw [fails]; rfl⟩
  case drain =>
    intro i d s1 hi hd
    obtain ⟨rfl, rfl⟩ := drain_of_findIdx? hi hd
    refine ⟨fun bad stores outs home => ?stores, fun x stores outs => ⟨?sent, ?waits⟩, fun r stores outs far free seals => ?red,
      fun stores outs seals unacked => ?seals⟩
    case stores =>
      exact exec_storeDrain_of_finished hi hd (by rw [State.stored_of_stores stores home, outs, State.sendOuts_nil])
    case sent =>
      exact fun free seals => exec_storeDrain_of_finished hi hd
        (by rw [State.stored_of_nil stores, outs, State.sendOuts_store_of_sent free]) (.inl seals)
    case waits =>
      intro hr hu
      rw [exec_storeDrain_of_stays hi hd stores (by rw [outs, State.sendOuts_store_of_waits hr hu]) (.inl (outs ▸ List.cons_ne_nil _ _)), outs]
      rfl
    case red =>
      exact exec_storeDrain_of_finished hi hd
        (by rw [State.stored_of_nil stores, outs, State.sendOuts_red_of_sent far free]) (.inl seals)
    case seals =>
      rw [exec_storeDrain_of_stays hi hd stores (by rw [outs, State.sendOuts_nil]) (.inr ⟨seals, unacked⟩), outs]
      rfl

end Sys2Proof.Machine
end

section
/-! O17: the checks of a memory access (07 R157, R158; 11 R240, R243, R251). First what a report holds of the lanes that fail, then an
instruction whose lanes fail, and the order of one lane's checks. -/

namespace Sys2Proof

theorem minNat_eq_some {l : List Nat} {n : Nat} (h : minNat l = some n) : n ∈ l ∧ ∀ x ∈ l, n ≤ x := by
  induction l generalizing n with
  | nil => cases h
  | cons x l ih =>
    unfold minNat at h
    cases hl : minNat l with
    | none =>
      rw [hl] at h
      obtain rfl := Option.some.inj h
      simp [minNat_eq_none_iff.mp hl]
    | some y =>
      rw [hl] at h
      obtain rfl := Option.some.inj h
      obtain ⟨hy, least⟩ := ih hl
      refine ⟨?_, fun z hz => ?_⟩
      · rcases Nat.le_total x y with hxy | hxy
        · rw [Nat.min_eq_left hxy]
          exact List.mem_cons_self
        · rw [Nat.min_eq_right hxy]
          exact List.mem_cons_of_mem x hy
      · rcases List.mem_cons.mp hz with rfl | hz
        · exact Nat.min_le_left _ _
        · exact (Nat.min_le_right _ _).trans (least z hz)

namespace Machine

/-! ### Reports of failing lanes (07 R158) -/

/-- The failures that a report speaks of: those of a lease check, where there are any, else all of them. -/
def reported (fs : List LaneBad) : List LaneBad :=
  if (fs.filter (fun f => f.cause == 0x20)).isEmpty then fs else fs.filter (fun f => f.cause == 0x20)

theorem mem_reported {fs : List LaneBad} {x : LaneBad} :
    x ∈ reported fs ↔ x ∈ fs ∧ (x.cause = 0x20 ∨ ∀ y ∈ fs, y.cause ≠ 0x20) := by
  unfold reported
  split
  next none =>
    have none : ∀ y ∈ fs, y.cause ≠ 0x20 := by simpa [List.filter_eq_nil_iff] using none
    exact ⟨fun h => ⟨h, .inr none⟩, And.left⟩
  next some =>
    have some : ∃ y ∈ fs, y.cause = 0x20 := by simpa [List.filter_eq_nil_iff] using some
    obtain ⟨y, hy, h20⟩ := some
    rw [List.mem_filter, beq_iff_eq]
    exact and_congr_right fun _ => ⟨.inl, fun h => h.resolve_right fun none => none y hy h20⟩

/-- A report names the first failure of the lowest lane that it speaks of, and all of its lanes. -/
theorem report_eq_some {fs : List LaneBad} {k : Word} {f : LaneBad} (h : report fs = some (k, f)) :
    f ∈ reported fs ∧ (∀ x ∈ reported fs, f.lane ≤ x.lane) ∧ k = maskOf (fun j => (reported fs).any (fun x => x.lane == j)) := by
  change ((minNat ((reported fs).map (·.lane))).bind fun low => ((reported fs).find? (fun f => f.lane == low)).map
    fun f => (maskOf (fun j => (reported fs).any (fun x => x.lane == j)), f)) = some (k, f) at h
  obtain ⟨low, hlow, h⟩ := Option.bind_eq_some_iff.mp h
  obtain ⟨g, hg, heq⟩ := Option.map_eq_some_iff.mp h
  obtain ⟨rfl, rfl⟩ := Prod.mk.inj heq
  have lane : g.lane = low := by simpa using List.find?_some hg
  obtain ⟨-, least⟩ := minNat_eq_some hlow
  exact ⟨List.mem_of_find?_eq_some hg, fun x hx => lane ▸ least x.lane (List.mem_map_of_mem hx), rfl⟩

/-- A lease check that fails goes before every other failure, in the cause, the lane and the mask. -/
theorem report_names_lease_checks {fs : List LaneBad} {k : Word} {f : LaneBad} (h : report fs = some (k, f)) :
    f ∈ fs ∧ ((∃ x ∈ fs, x.cause = 0x20) → f.cause = 0x20) ∧ (∀ x ∈ fs, (x.cause = 0x20 ∨ f.cause ≠ 0x20) → f.lane ≤ x.lane) ∧
      ∀ i, i < 32 → (inMask k i = true ↔ ∃ x ∈ fs, x.lane = i ∧ (x.cause = 0x20 ∨ f.cause ≠ 0x20)) := by
  obtain ⟨hf, least, rfl⟩ := report_eq_some h
  obtain ⟨hfs, hcause⟩ := mem_reported.mp hf
  have spoken : ∀ x, x ∈ reported fs ↔ x ∈ fs ∧ (x.cause = 0x20 ∨ f.cause ≠ 0x20) := fun x => by
    rw [mem_reported]
    exact and_congr_right fun _ => or_congr_right ⟨fun none => none f hfs, fun hne => hcause.resolve_left hne⟩
  refine ⟨hfs, fun ⟨x, hx, h20⟩ => hcause.resolve_right fun none => none x hx h20, fun x hx hc => least x ((spoken x).mpr ⟨hx, hc⟩),
    fun i hi => ?_⟩
  simp [hi, spoken, and_comm, and_left_comm]

/-! ### An access whose lanes fail -/

theorem orRaise_of_report {s : State} {c : Ctx} {fs : List LaneBad} {k : Word} {f : LaneBad} (h : report fs = some (k, f)) (go : Unit → Out) :
    s.orRaise c fs go = .next (s.raise c k f.cause f.reason f.addr f.info) := by
  simp only [State.orRaise, h]

/-- An instruction that begins with a check of its lanes stops where a lane fails. -/
theorem stepOp_raises {s : State} {i : Instr} {c : Ctx} {fs : List LaneBad} {go : Unit → Out} {f : Ctx → Out} {k : Word} {b : LaneBad}
    (h : Issues s i c) (hf : f c = s.orRaise c fs go) (hr : report fs = some (k, b)) :
    stepOp s i f = .next (s.raise c k b.cause b.reason b.addr b.info) :=
  (stepOp_of_issues h f).trans (hf.trans (orRaise_of_report hr go))

/-- The failure of one lane of a `red` (11 R251): under a live range, an operation or an address that the range does not take; under none, as
an atomic's, where `far` says which lanes go to their targets. -/
def Ctx.redBad (s : State) (c : Ctx) (a : BitVec 7) (m : BitVec 4) (far : Nat → Bool) (j : Nat) : Option LaneBad :=
  let L := s.launchOf c.T
  match (s.world L.world).rangeAt L.tcid (c.va j a) with
  | some r =>
    let R := (s.world L.world).rngs.getD r Rng0
    (s.laneBad L .store j (c.va j a) (redCode m.toNat).2).orElse (fun _ =>
      if rangeTakes R.fmt m.toNat = true ∧ c.va j a % R.width = 0 then none
      else some { lane := j, cause := 0x2C, reason := 0, addr := c.va j a, info := 0 })
  | none => s.atomicBad L (far j) (redCode m.toNat).1 j (c.va j a) (redCode m.toNat).2

/-- Does a `red` stop as its failing lanes ask, those that a read would take to their targets being the far ones? -/
def RedRaises (s : State) (c : Ctx) (d a : BitVec 7) (g : BitVec 3) (m : BitVec 4) (k : Word) (f : LaneBad) : Prop :=
  Issues s (.red d a g m) c → report ((s.doers c).filterMap (c.redBad s a m (fun j => Ctx.farLane s c j a))) = some (k, f) →
    exec (.red d a g m) s = .next (s.raise c k f.cause f.reason f.addr f.info)

theorem accessesAreChecked_iff :
    Claims.AccessesAreChecked ↔ ∀ s c d a g m k f, RedRaises s c d a g m k f := by
  unfold Claims.AccessesAreChecked
  refine ⟨fun h s c d a g m k f => ?_, fun h s c d a l g m k f => ?_⟩
  · obtain ⟨-, -, -, red, -⟩ := h s c d a 0 g m k f
    exact red
  · exact ⟨fun hi => stepOp_raises hi rfl, fun hi => stepOp_raises hi rfl, fun hi => stepOp_raises hi rfl, h s c d a g m k f,
      fun hi => stepOp_raises hi rfl, fun hi => stepOp_raises hi rfl, fun _ => report_names_lease_checks⟩

/-! ### The checks of one lane (07 Table 7-6) -/

section Checks
variable {s : State} {L : Launch} {k : Kind} {va w : Nat}

theorem laneBad_of_no_lease {e : Nat × Nat} (j : Nat) (h : s.leaseOf L k va = .error e) :
    s.laneBad L k j va w = some { lane := j, cause := e.1, reason := e.2, addr := va, info := 0 } := by
  simp only [State.laneBad, State.laneAddr, h]

/-- Under a lease, alignment goes before the checks of the page. -/
theorem laneBad_of_lease {l : Lease} (j : Nat) (h : s.leaseOf L k va = .ok l) :
    s.laneBad L k j va w =
      if va % w ≠ 0 then some { lane := j, cause := 0x29, reason := 0, addr := va, info := 0 }
      else (s.pageBad k va (l.page va)).map (fun e => { lane := j, cause := e.1, reason := e.2, addr := va, info := 0 }) := by
  simp only [State.laneBad, State.laneAddr, h, bne_iff_ne]
  by_cases hw : va % w ≠ 0
  · rw [if_pos hw, if_pos hw]
  · rw [if_neg hw, if_neg hw]
    cases s.pageBad k va (l.page va) <;> rfl

theorem pageBad_of_access (hk : k = .load ∨ k = .store) (p : Page) :
    s.pageBad k va p =
      if k = .store ∧ p.w = false then some (0x22, 0)
      else if k = .store ∧ p.cow = true then some (0x23, 0)
      else if p.p = true then some (0x21, 0)
      else if s.computeCapable (p.dpa + va % 4096) = true then some (0x39, 0)
      else if s.beyondCarve (p.dpa + va % 4096) = true then some (0x3A, 0)
      else none := by
  rcases hk with rfl | rfl <;> simp [State.pageBad, Kind.writes, Kind.tensor]

theorem writeBad_eq (s : State) (L : Launch) (j va w : Nat) :
    s.writeBad L j va w = match s.laneBad L .store j va w with
      | some b => some b
      | none => s.sealBad L j va := by
  unfold State.writeBad
  cases s.laneBad L .store j va w <;> rfl

theorem atomicBad_eq (s : State) (L : Launch) (far : Bool) (op j va w : Nat) :
    s.atomicBad L far op j va w = match s.writeBad L j va w with
      | some b => some b
      | none => if far = true then (farAtomicBad op (s.dpaOf L va)).map (fun r =>
          { lane := j, cause := 0x2A, reason := r, addr := va, info := 0 }) else none := by
  unfold State.atomicBad
  cases s.writeBad L j va w <;> rfl

end Checks

theorem checkOrder : Claims.CheckOrder := by
  unfold Claims.CheckOrder
  intro s L k j va w hk
  refine ⟨fun e he => laneBad_of_no_lease j he, fun l hl => ?lease, writeBad_eq s L j va w, fun far op => atomicBad_eq s L far op j va w⟩
  case lease =>
    dsimp only
    rw [laneBad_of_lease j hl, pageBad_of_access hk]
    simp only [apply_ite (Option.map _), Option.map_some, Option.map_none]

/-! ### A line that is live through another address (06 R135) -/

/-- All of O17 but one clause holds of every state: a `red` takes its lanes to their targets by another rule than a read. -/
theorem memoryChecks_iff_redRaises : Obligations.MemoryChecks ↔ ∀ s c d a g m k f, RedRaises s c d a g m k f :=
  (and_iff_left checkOrder).trans accessesAreChecked_iff

/-- The context of an instruction that goes on. -/
def Go.ctx? : Go → Option Ctx
  | .go c => some c
  | .stop _ => none

/-- The context in which an instruction issues. -/
def ctxAt (s : State) (i : Instr) : Ctx := ((stepGo s i).bind Go.ctx?).getD default

theorem issues_ctxAt {s : State} {i : Instr} (h : ((stepGo s i).bind Go.ctx?).isSome = true) : Issues s i (ctxAt s i) := by
  obtain ⟨c, hc⟩ := Option.isSome_iff_exists.mp h
  obtain ⟨go, hgo, hctx⟩ := Option.bind_eq_some_iff.mp hc
  cases go with
  | stop t => cases hctx
  | go c' => rw [Issues, ctxAt, hgo]; rfl

/-- A lease of the host's first page, at virtual address 0 of a context. -/
def hostLease (tcid : Nat) : Lease :=
  { Lease0 with
    state := 2, rw := true, len := 1, tcid := tcid
    snap := [(0, { dpa := 0xC000000000000, w := true, cow := false, p := false, size := 12 })] }

/-- A figure of 32 threads at system scope whose addresses lie in a page of the host, that of lane 0 misaligned. The page's first line is in a
live range of another context. -/
def liveElsewhere : State :=
  let s := State.reset.withFetchWord 32 0xEE000000
  let lane (j : Nat) (th : Thread) : Thread := { th with v := [(12, if j = 0 then 1 else 0)] }
  { ((s.onWorld 1 (fun W => { W with
        leases := [(0, hostLease 0), (1, hostLease 1)], rngs := [(0, { Rng0 with valid := true, len := 1, tcid := 1 })] })).onLaunch 1
      (fun L => { L with uses := [{ entry := 0, rw := true }] })).onSet 1 0 (fun S => S.onLanes (BitVec.allOnes 32) lane) with
    cur := s.cur.map (fun u => { u with hints := [(3, 4)] }) }

/-- The lanes that fail, in the trap of a chunk that has closed with one. -/
def trapLanes (o : Out) : Option Word :=
  match o with
  | .next t => (t.setAt? 1 0).bind (fun S => S.closing.bind (fun q => q.trap.map (·.fail)))
  | _ => none

/-- Refutes O17: in `liveElsewhere` a `red` with the operation max goes to the host, which takes no such operation, and so all its lanes
fail; the clause counts no lane as far, since a read of the live line would stay at its home, and has lane 0 alone trap. -/
theorem not_memoryChecks : ¬ Obligations.MemoryChecks := by
  intro h
  have raise := memoryChecks_iff_redRaises.mp h liveElsewhere (ctxAt liveElsewhere (.red 8 12 0 4)) 8 12 0 4 1
    { lane := 0, cause := 0x29, reason := 0, addr := 1, info := 0 } (issues_ctxAt (by decide +kernel)) (by decide +kernel)
  exact absurd (congrArg trapLanes raise) (by decide +kernel)

end Machine
end Sys2Proof
end

section
/-! What the homes do to the sets (06 R122-R134; 10 R218): a line that a home gives up discards the chunks that have read it, and no set comes
or goes. One lemma for each operation that an instruction of the step stream has its homes perform. -/

namespace Sys2Proof.Machine

/-- Between two states no set comes or goes. -/
def KeepsSets (s t : State) : Prop := ∀ u k, (t.setAt? u k).isSome = (s.setAt? u k).isSome

namespace KeepsSets

theorem refl (s : State) : KeepsSets s s := fun _ _ => rfl

theorem trans {s t u : State} (h : KeepsSets s t) (h' : KeepsSets t u) : KeepsSets s u := fun n k => (h' n k).trans (h n k)

theorem ite {s t u : State} {p : Prop} [Decidable p] (ht : KeepsSets s t) (hu : KeepsSets s u) : KeepsSets s (if p then t else u) := by
  split
  · exact ht
  · exact hu

/-- A run over a list, of states or of states with what else it gathers. -/
theorem foldl {α β : Type} {f : β → α → β} (state : β → State) (h : ∀ b x, KeepsSets (state b) (state (f b x))) (l : List α) (b : β) :
    KeepsSets (state b) (state (l.foldl f b)) := by
  induction l generalizing b with
  | nil => exact refl _
  | cons x l ih => exact (h b x).trans (ih (f b x))

theorem of_troupes {s t : State} (h : t.troupes = s.troupes) : KeepsSets s t := fun u k => by simp only [State.setAt?, h]

theorem onSet (s : State) (t k : Nat) (f : SetState → SetState) : KeepsSets s (s.onSet t k f) := fun u n => by
  rw [State.setAt?_onSet]
  split
  · exact Option.isSome_map
  · rfl

/-! ### Squashed chunks (10 R218, R235) -/

theorem freeOps (s : State) (c : Nat) (es : List Nat) : KeepsSets s (s.freeOps c es) := ite (refl s) (of_troupes rfl)

theorem dropReads (s : State) (t k : Nat) : KeepsSets s (s.dropReads t k) := of_troupes rfl

theorem fallback (s : State) (t k kind code : Nat) (all : Bool) : KeepsSets s (s.fallback t k kind code all) := by
  unfold State.fallback
  split
  · exact ((dropReads s t k).trans (freeOps _ _ _)).trans (onSet _ _ _ _)
  · exact refl s

theorem squash (s : State) (t k : Nat) (all : Bool) : KeepsSets s (s.squash t k all) := by
  unfold State.squash
  split
  next T S _ _ =>
    extract_lets s1 s2
    have counted : KeepsSets s s1 := (dropReads s t k).trans (of_troupes (State.tally_troupes _ _ _ _))
    have free : KeepsSets s s2 := counted.trans (ite (of_troupes rfl) (refl s1))
    exact free.trans (ite (ite (fallback _ _ _ _ _ _) ((freeOps _ _ _).trans (onSet _ _ _ _))) ((freeOps _ _ _).trans (onSet _ _ _ _)))
  next => exact refl s

theorem squashReaders (s : State) (w : Nat) (lines : List Nat) (own : Option (Nat × Nat)) : KeepsSets s (s.squashReaders w lines own) := by
  refine foldl id (fun s e => foldl id (fun s f => ite (refl s) ?_) _ s) _ s
  dsimp only [id]
  split
  · exact ite (squash _ _ _ _) (ite (squash _ _ _ _) (refl _))
  · exact ite (squash _ _ _ _) (refl _)
  · exact refl _

/-! ### Lines of the L1s -/

theorem lessSealed (s : State) (l : L1Line) : KeepsSets s (s.lessSealed l) := by
  unfold State.lessSealed
  split
  · exact of_troupes rfl
  · exact refl s

theorem dropL1 (s : State) (p : Nat → L1Line → Bool) : KeepsSets s (s.dropL1 p) :=
  (of_troupes rfl : KeepsSets s { s with cores := s.cores.map (fun (e : Nat × Core) =>
    (e.1, { e.2 with l1 := e.2.l1.filter (fun l => !p e.1 l) })) }).trans (foldl id lessSealed _ _)

theorem expose (s : State) (w : Nat) (lines : List Nat) (keep : Option Nat) : KeepsSets s (s.expose w lines keep) :=
  (dropL1 s _).trans (squashReaders _ _ _ _)

/-! ### Bytes at their homes -/

theorem bankRead (s : State) (w a source : Nat) : KeepsSets s (s.bankRead w a source) := of_troupes (KeepsNearBank.bankRead s w a source).troupes

theorem bankWrite (s : State) (a source : Nat) : KeepsSets s (s.bankWrite a source) :=
  of_troupes ((KeepsNearBank.activate s _ _ false source).trans (KeepsNearBank.freshen _ a)).troupes

theorem freshen (s : State) (a : Nat) : KeepsSets s (s.freshen a) := of_troupes (KeepsNearBank.freshen s a).troupes

theorem dirtyLine (s : State) (w line : Nat) : KeepsSets s (s.dirtyLine w line) := of_troupes rfl

theorem mem (s : State) (m : Memory) : KeepsSets s { s with mem := m } := of_troupes rfl

theorem writeGranule (s : State) (w g : Nat) (t : Tab Byte) : KeepsSets s (s.writeGranule w g t).1 := by
  unfold State.writeGranule
  extract_lets a fault held barred s1 s2
  split
  · exact mem s _
  split
  · exact bankRead s w a 0
  split
  · exact (mem s _).trans (dirtyLine _ w _)
  · have read : KeepsSets s s1 := ite (refl s) (bankRead s w a 0)
    exact (read.trans (mem s1 _)).trans (ite ((freshen s2 a).trans (dirtyLine _ w _)) (bankWrite s2 a 0))

theorem mergeCopy (s : State) (w line : Nat) (t : Tab Byte) (dirty : Bool) : KeepsSets s (s.mergeCopy w line t dirty) := of_troupes rfl

theorem homePut (s : State) (w a : Nat) (bs : List Byte) : KeepsSets s (s.homePut w a bs) :=
  ite (ite (mergeCopy s w _ _ true) (ite (refl s) (mem s _))) (writeGranule s w _ _)

theorem addPartial (s : State) (p : Partial) : KeepsSets s (s.addPartial p) := foldl id (fun s _ => homePut s _ _ _) _ s

theorem combine (s : State) (line : Nat) : KeepsSets s (s.combine line) := by
  refine foldl id (fun s c => ?_) _ s
  dsimp only [id]
  split
  · exact (addPartial s _).trans (of_troupes rfl)
  · exact refl s

/-! ### Lines at their homes -/

theorem invalidate (s : State) (w line : Nat) : KeepsSets s (s.invalidate w line) := by
  unfold State.invalidate
  extract_lets a s1
  have written : KeepsSets s s1 := by
    unfold s1
    split
    · exact ite (refl s) (mem s _)
    · exact ite ((bankWrite s _ 0).trans (bankWrite _ _ 0)) (refl s)
  exact (written.trans (of_troupes rfl)).trans (dropL1 _ _)

theorem evictLine (s : State) (w line : Nat) : KeepsSets s (s.evictLine w line) :=
  ((combine s line).trans (invalidate _ w line)).trans (expose _ w _ none)

theorem makeRoom (s : State) (w line : Nat) : KeepsSets s (s.makeRoom w line) := by
  refine ite (refl s) ?_
  split
  · exact evictLine s _ _
  · exact refl s

theorem takeLine (s : State) (w line pol : Nat) (prot : Bool) : KeepsSets s (s.takeLine w line pol prot) := by
  unfold State.takeLine
  extract_lets now s1
  split
  · exact of_troupes rfl
  refine ite (refl s) ?_
  have room : KeepsSets s s1 := ite (refl s) (makeRoom s w line)
  split
  · exact room
  · exact room.trans (of_troupes rfl)

theorem movesThrough (s : State) (w k : Nat) : KeepsSets s (s.movesThrough w k) := ite (refl s) (of_troupes rfl)

theorem gathered (s : State) (w line : Nat) : KeepsSets s (((s.takeBack line).combine line).movesThrough w (s.home w line)) :=
  ((of_troupes rfl : KeepsSets s (s.takeBack line)).trans (combine _ line)).trans (movesThrough _ w _)

theorem serve (s : State) (w a n : Nat) : KeepsSets s (s.serve w a n) :=
  (gathered s w (a / 128)).trans (ite (takeLine _ w _ 0 _) (foldl id (fun s _ => bankRead s w _ 0) _ _))

theorem homeRead (s : State) (w a n pol : Nat) : KeepsSets s (s.homeRead w a n pol) :=
  ((of_troupes rfl : KeepsSets s (s.takeBack (a / 128))).trans (combine _ (a / 128))).trans
    (ite (takeLine _ w _ pol _) (ite (ite ((of_troupes rfl).trans (takeLine _ w _ pol false)) (refl _))
      (ite ((serve _ w _ 128).trans (takeLine _ w _ pol false)) (serve _ w a n))))

theorem homeReads (s : State) (w : Nat) (as : List (Nat × Nat)) (pol : Nat) : KeepsSets s (s.homeReads w as pol) :=
  foldl id (fun s _ => homeRead s w _ _ pol) _ s

theorem homeWrite (s : State) (w : Nat) (t : Tab Byte) (pol : Nat → Nat) : KeepsSets s (s.homeWrite w t pol).1 := by
  unfold State.homeWrite
  refine (foldl id (fun s l => gathered s w l) (linesOf t) s).trans (foldl Prod.fst (fun p g => ?_) _ (_, _))
  extract_lets part s1
  split
  · exact refl _
  split
  · split
    · exact mem _ _
    · exact ((mergeCopy _ w _ part true).trans (takeLine _ w _ _ _)).trans (ite (of_troupes rfl) (refl _))
  · have granule := writeGranule p.1 w g part
    split
    next heq => rwa [heq] at granule
    next heq => rwa [heq] at granule

/-! ### The sync store (06 R128) -/

theorem fromSync (s : State) (w line : Nat) : KeepsSets s (s.fromSync w line) := by
  unfold State.fromSync
  refine (makeRoom s w line).trans ?_
  dsimp only
  split
  · exact of_troupes rfl
  · exact evictLine _ w line

theorem toSync (s : State) (w line : Nat) : KeepsSets s (s.toSync w line) := by
  unfold State.toSync
  extract_lets h s1
  refine (of_troupes rfl : KeepsSets s s1).trans (ite (refl s1) ?_)
  split
  · exact fromSync s1 _ _
  · exact refl s1

end KeepsSets

/-- An instruction completes on top of what it did to its set, but for the threads, and to the machine, where no set came or went. -/
theorem completesFrom_of_retire_from {s s1 : State} {i : Instr} {c : Ctx} (h : Issues s i c) (hs : KeepsSets s s1) {S : SetState}
    (hS : S.threads = c.S.threads) {regs : Nat → List (Nat × Word)} (hn : ∀ j, ((regs j).map (·.1)).Nodup)
    (he : exec i s = s1.retire { c with S := S } i regs) : CompletesFrom s s1 i { c with S := S } regs c.old :=
  completesFrom_of_retire (c := { c with S := S }) ((hs c.t c.k).trans (setAt?_of_issues h))
    (fun _ hj => (lt_of_issues h hj).trans_eq (congrArg List.length hS).symm)
    (fun _ => inMask_act_of_issues h) regs (fun _ th => th) c.old hn (fun _ _ => by simp only [SetState.lane, Ctx.old, hS]) he

/-- No writer waits where no buffer drains (06 Table 6-6). -/
theorem State.draining_eq_nil {s : State} {L : Launch} {lanes : List Nat} {va : Nat → Nat}
    (h : ∀ j ∈ lanes, s.sealState L.world L.tcid (va j) ≠ 2) : s.draining L lanes va = [] :=
  List.map_eq_nil_iff.mpr (List.filter_eq_nil_iff.mpr fun j hj => by simpa using h j hj)

end Sys2Proof.Machine
end

section
/-! O21: waits and fences (05 R110; 09 R202, R203; 11 R253, R254, R256). First which lanes of a wait stay and how, and what an instruction does
of which only some lanes go on; then each kind of wait, and the fence. -/

namespace Sys2Proof.Machine

/-! ### The lanes that stay -/

section NotYet
variable {i : Instr} {lanes : List Nat} {yes : Nat → Bool}

/-- A wait that some lane passes, or all, names no port or has no lane that stays (09 R202, R203). -/
theorem notYet_of_some (h : (notYet i lanes yes).length < lanes.length ∨ notYet i lanes yes = []) :
    notYet i lanes yes = [] ∨ i.namesPort = false ∧ notYet i lanes yes = lanes.filter (fun j => !yes j) := by
  unfold notYet at h ⊢
  by_cases hall : lanes.all yes = true
  · left
    rw [hall, Bool.not_true, Bool.and_false, if_neg Bool.false_ne_true]
    simpa [List.filter_eq_nil_iff] using hall
  · rw [Bool.not_eq_true] at hall
    cases hp : i.namesPort with
    | false => exact .inr ⟨rfl, if_neg (by simp)⟩
    | true =>
      simp only [hp, hall, Bool.not_false, Bool.and_self, if_true] at h ⊢
      exact .inl (h.resolve_left (Nat.lt_irrefl _))

/-- No lane stays that meets its condition. -/
theorem yes_of_mem_notYet (h : (notYet i lanes yes).length < lanes.length ∨ notYet i lanes yes = []) {j : Nat} (hj : j ∈ notYet i lanes yes) :
    i.namesPort = false ∧ j ∈ lanes ∧ yes j = false := by
  rcases notYet_of_some h with hn | ⟨hp, hf⟩
  · rw [hn] at hj
    cases hj
  · rw [hf, List.mem_filter, Bool.not_eq_true'] at hj
    exact ⟨hp, hj⟩

end NotYet

/-- How a lane waits matters for the lanes that do. -/
theorem Ctx.without_congr (c : Ctx) {lanes : List Nat} {v w : Nat → Hold} (h : ∀ j ∈ lanes, v j = w j) : c.without lanes v = c.without lanes w := by
  have same : c.S.onLanes (maskOf (fun j => lanes.contains j)) (fun j th => { th with hold := v j }) =
      c.S.onLanes (maskOf (fun j => lanes.contains j)) (fun j th => { th with hold := w j }) := by
    simp only [SetState.onLanes]
    congr 1
    refine List.mapIdx_eq_mapIdx_iff.mpr fun j _ => ?_
    split
    next hj =>
      rw [inMask_maskOf, Bool.and_eq_true, List.contains_iff_mem] at hj
      rw [h j hj.2]
    next => rfl
  simp only [Ctx.without, same]

/-- Some lanes of an instruction wait, and it completes for the others, on top of what it did to the machine. -/
theorem completesFrom_of_without_from {s s1 : State} {i : Instr} {c : Ctx} (h : Issues s i c) (hs : KeepsSets s s1) {S : SetState}
    (hS : S.threads = c.S.threads) (lanes : List Nat) (w : Nat → Hold)
    (he : exec i s = s1.retire (({ c with S := S } : Ctx).without lanes w) i (fun _ => [])) :
    CompletesFrom s s1 i (({ c with S := S } : Ctx).without lanes w) (fun _ => []) c.old := by
  have old : ∀ j, (({ c with S := S } : Ctx).without lanes w).old j = c.old j := fun j => by
    rw [Ctx.old_without]
    simp only [Ctx.old, SetState.lane, hS]
  refine completesFrom_of_retire (c := ({ c with S := S } : Ctx).without lanes w) ?_ (fun j hj => ?_) (fun j hj => ?_) (fun _ => [])
    (fun _ th => th) c.old (fun _ => List.nodup_nil) (fun j _ => by rw [← old j]; rfl) he
  · exact (hs c.t c.k).trans (setAt?_of_issues h)
  · simp only [Ctx.without, inMask_and_not, Bool.and_eq_true] at hj
    refine (lt_of_issues h hj.1).trans_le (le_of_eq ?_)
    exact (congrArg List.length hS).symm.trans List.length_mapIdx.symm
  · simp only [Ctx.without, inMask_and_not, Bool.and_eq_true] at hj ⊢
    exact ⟨inMask_act_of_issues h hj.1, hj.2⟩

/-- The end of a wait of which some lane goes on, or none has to stay. -/
theorem State.waitOut_of_some (s : State) (c : Ctx) (i : Instr) {no : List Nat} {v w : Nat → Hold} (h : no.length < c.lanes.length ∨ no = [])
    (hw : ∀ j ∈ no, v j = w j) : s.waitOut c i no v = s.retire (c.without no w) i (fun _ => []) := by
  have some : ¬ (decide (c.lanes.length = no.length) && !no.isEmpty) = true := by
    rcases h with h | h
    · simp [Nat.ne_of_gt h]
    · simp [h]
  rw [State.waitOut, if_neg some, c.without_congr hw]

/-! ### Reads that fail nowhere (04 R78; 07 R145) -/

theorem answersBad_eq_nil {c : Ctx} {lanes : List Nat} (va : Nat → Nat)
    (h : ∀ j ∈ lanes, ∃ x, c.S.answers.get? j = some x ∧ answerBad x = none) : answersBad c lanes va = [] := by
  refine List.filterMap_eq_nil_iff.mpr fun j hj => ?_
  obtain ⟨x, hx, fine⟩ := h j hj
  rw [hx, Option.bind_some, fine, Option.map_none]

theorem granBad_eq_nil {s : State} {w : Nat} {xs : List (Nat × Nat × Nat)} (h : ∀ x ∈ xs, s.readFault w x.2.2 = none) : s.granBad w xs = [] :=
  List.filterMap_eq_nil_iff.mpr fun x hx => by rw [h x hx, Option.map_none]

/-! ### Waits (11 R253, R254) -/

section Wait
variable {s : State} {c : Ctx} {d a : BitVec 7} {g m : BitVec 3}

/-- Does a word meet the condition of a lane of a wait? -/
def Ctx.meets (c : Ctx) (d : BitVec 7) (m : BitVec 3) (j x : Nat) : Bool := waitCond m.toNat (BitVec.ofNat 32 x) (c.rd j d)

/-- Does the word of scratchpad that a lane names lie in a full line and meet its condition? -/
def Ctx.padMeets (s : State) (c : Ctx) (d a : BitVec 7) (m : BitVec 3) (j : Nat) : Bool :=
  let p := Ctx.padAt s c j a 4
  s.lineFull p.1 p.2 && c.meets d m j (leNat ((List.range 4).map (fun b => s.loadSpad c.S j p.1 (p.2 + b))))

theorem exec_wait_scratchpad (h : Issues s (.wait d a g 1 m) c) (hb : ∀ j, inMask c.act j = true → s.spadBad c j (c.sp j a) 4 = none)
    (hn : (notYet (.wait d a g 1 m) c.lanes (c.padMeets s d a m)).length < c.lanes.length ∨
      notYet (.wait d a g 1 m) c.lanes (c.padMeets s d a m) = []) :
    exec (.wait d a g 1 m) s = s.retire (c.without (notYet (.wait d a g 1 m) c.lanes (c.padMeets s d a m))
      (fun j => .until [.pad (Ctx.padAt s c j a 4).1 (Ctx.padAt s c j a 4).2 m.toNat (c.rd j d)])) (.wait d a g 1 m) (fun _ => []) := by
  refine (stepOp_of_issues h _).trans ((if_pos rfl).trans
    ((orRaise_badLanes_of_none s c (fun j hj => hb j (mem_lanesOf.mp hj)) _).trans ?_))
  refine State.waitOut_of_some s c _ hn fun j hj => ?_
  rw [(yes_of_mem_notYet hn hj).1]
  rfl

/-- The lanes of a wait can read their words: at their targets once their answers have come, at their homes where no granule fails. -/
def Ctx.WordsThere (s : State) (c : Ctx) (a : BitVec 7) : Prop :=
  ∀ j, inMask c.act j = true → s.laneBad (s.launchOf c.T) .load j (c.va j a) 4 = none ∧
    (if Ctx.farLane s c j a then ∃ x, c.S.answers.get? j = some x ∧ answerBad x = none
     else s.readFault (s.launchOf c.T).world (s.dpaOf (s.launchOf c.T) (c.va j a)) = none)

/-- Does the word of memory that a lane names meet its condition? -/
def Ctx.wordMeets (s : State) (c : Ctx) (d a : BitVec 7) (m : BitVec 3) (j : Nat) : Bool := (Ctx.waitWord s c a j).any (c.meets d m j)

theorem wordMeets_eq (s : State) (c : Ctx) (d a : BitVec 7) (m : BitVec 3) (j : Nat) : c.wordMeets s d a m j =
    if Ctx.farLane s c j a then
      !s.anyUnverified (s.launchOf c.T).world [s.dpaOf (s.launchOf c.T) (c.va j a) / 128] && ((c.S.answers.get? j).map (c.meets d m j)).getD false
    else !s.anyUnverified (s.launchOf c.T).world [s.dpaOf (s.launchOf c.T) (c.va j a) / 128] &&
      c.meets d m j ((Ctx.wordsRead s c a).seenNat (s.launchOf c.T).world (s.dpaOf (s.launchOf c.T) (c.va j a)) 4) := by
  unfold Ctx.wordMeets Ctx.waitWord
  dsimp only
  cases s.anyUnverified (s.launchOf c.T).world [s.dpaOf (s.launchOf c.T) (c.va j a) / 128] with
  | true => simp
  | false =>
    cases Ctx.farLane s c j a with
    | true => cases c.S.answers.get? j <;> rfl
    | false => rfl

theorem exec_wait_memory (h : Issues s (.wait d a g 0 m) c) (hw : c.WordsThere s a)
    (hn : (notYet (.wait d a g 0 m) c.lanes (c.wordMeets s d a m)).length < c.lanes.length ∨
      notYet (.wait d a g 0 m) c.lanes (c.wordMeets s d a m) = []) :
    exec (.wait d a g 0 m) s = (Ctx.wordsRead s c a).retire
      (({ c with S := c.S.forget (c.lanes.filter (fun j => Ctx.farLane s c j a)) } : Ctx).without
        (notYet (.wait d a g 0 m) c.lanes (c.wordMeets s d a m))
        (fun j => if Ctx.farLane s c j a then .poll
          else .until [.word (s.dpaOf (s.launchOf c.T) (c.va j a)) m.toNat (c.rd j d)])) (.wait d a g 0 m) (fun _ => []) := by
  have there := fun j hj => hw j (mem_lanesOf.mp hj)
  refine (stepOp_of_issues h _).trans ((if_neg (by decide)).trans ((orRaise_badLanes_of_none s c (fun j hj => (there j hj).1) _).trans ?_))
  have answered : ∀ j ∈ c.lanes, Ctx.farLane s c j a = true → ∃ x, c.S.answers.get? j = some x ∧ answerBad x = none :=
    fun j hj hfar => by simpa only [hfar, if_true] using (there j hj).2
  have reads : ∀ j ∈ c.lanes, Ctx.farLane s c j a = false → s.readFault (s.launchOf c.T).world (s.dpaOf (s.launchOf c.T) (c.va j a)) = none :=
    fun j hj hfar => by simpa only [hfar, Bool.false_eq_true, if_false] using (there j hj).2
  extract_lets nears bad s1 asks s2 yes no wakes how hold c1
  have fine : bad = [] := by
    refine List.append_eq_nil_iff.mpr ⟨answersBad_eq_nil _ fun j hj => ?_, granBad_eq_nil fun x hx => ?_⟩
    · obtain ⟨hj, hfar⟩ := List.mem_filter.mp hj
      exact answered j hj hfar
    · obtain ⟨j, hj, rfl⟩ := List.mem_map.mp hx
      obtain ⟨hj, hnear⟩ := List.mem_filter.mp hj
      exact reads j hj (Bool.not_eq_true' _ ▸ hnear)
  have asked : asks = [] := by
    refine List.filter_eq_nil_iff.mpr fun j hj => ?_
    rw [Bool.and_eq_true]
    rintro ⟨hfar, none⟩
    obtain ⟨x, hx, _⟩ := answered j hj hfar
    rw [hx] at none
    cases none
  have same : s2 = Ctx.wordsRead s c a := by
    unfold s2
    rw [asked]
    rfl
  have meets : yes = c.wordMeets s d a m := by
    funext j
    rw [wordMeets_eq]
    unfold yes
    rw [same]
    rfl
  have stay : no = notYet (.wait d a g 0 m) c.lanes (c.wordMeets s d a m) := congrArg (notYet _ _) meets
  have forgotten : c1 = { c with S := c.S.forget (c.lanes.filter (fun j => Ctx.farLane s c j a)) } := by
    unfold c1
    congr 2
    refine List.filter_congr fun j _ => ?_
    have out : (!no.contains j || !yes j) = true := by
      cases hc : no.contains j with
      | false => rfl
      | true =>
        rw [stay, List.contains_iff_mem] at hc
        rw [meets, (yes_of_mem_notYet hn hc).2.2]
        rfl
    exact (congrArg _ out).trans (Bool.and_true _)
  rw [fine, same, forgotten, stay]
  refine State.waitOut_of_some _ _ _ hn fun j hj => ?_
  have hp := (yes_of_mem_notYet hn hj).1
  unfold hold how
  rw [hp, asked]
  rfl

end Wait

/-! ### Fences (05 R110; 11 R256) -/

theorem exec_fence_of_done {s : State} {c : Ctx} {g : BitVec 3} (h : Issues s (.fence g) c)
    (hf : c.act ≠ 0 → (c.T.place.isUnit = true → s.nbStores c.t c.k c.T = false ∨
        ((scopeOf c.issue.hints).2 ≠ 0 ∧ isRelease c.issue.hints = false)) ∧
      (c.T.place.isUnit = false → isSystem c.issue.hints = true → s.acked c.t c.k = true)) :
    exec (.fence g) s = s.retire c (.fence g) (fun _ => []) := by
  refine (stepOp_of_issues h _).trans ?_
  by_cases ha : c.act = 0
  · exact if_pos ha
  obtain ⟨unit, core⟩ := hf ha
  refine (if_neg ha).trans ?_
  cases hu : c.T.place.isUnit with
  | true =>
    refine (if_pos rfl).trans (if_neg ?_)
    rcases unit hu with stores | ⟨order, release⟩
    · simp [stores]
    · simp [order, show bitAt (scopeOf c.issue.hints).2 1 = false from release]
  | false =>
    refine (if_neg Bool.false_ne_true).trans (if_neg ?_)
    cases hs : isSystem c.issue.hints with
    | true => simp [core hu hs]
    | false => simp

theorem fencesComplete : Claims.FencesComplete := by
  unfold Claims.FencesComplete
  intro s c g h hf
  exact gives_nothing_of_retire h (fun _ _ => rfl) (exec_fence_of_done h hf)

theorem waitsComplete : Claims.WaitsComplete := by
  unfold Claims.WaitsComplete
  intro s c d a g m
  refine ⟨fun h hw hn => ?_, fun h hb hn => ?_⟩
  · have reads : KeepsSets s (Ctx.wordsRead s c a) := KeepsSets.homeReads _ _ _ _
    exact completesFrom_of_without_from (S := c.S.forget (c.lanes.filter (fun j => Ctx.farLane s c j a))) h reads rfl _ _
      (exec_wait_memory h hw hn)
  · exact completesFrom_of_without h rfl _ _ (exec_wait_scratchpad h hb hn)

/-- Settles O21: the waits by which lanes stay, the fence by its conditions on the state. -/
theorem waitsAndFences : Obligations.WaitsAndFences := ⟨waitsComplete, fencesComplete⟩

end Sys2Proof.Machine
end

section
/-! O22: barrier objects (11 R258-R261). What one arrival leaves in memory, that neither arrivals nor waits make a set come or go, then each of
the two instructions. -/

namespace Sys2Proof.Machine

/-! ### Arrivals (11 R259) -/

theorem arrivalWrites : Claims.ArrivalWrites := by
  unfold Claims.ArrivalWrites
  intro s w a count expected gen last
  have words : (if count + 1 = expected then 0 else count + 1) = (if last then 0 else count + 1) ∧
      (if count + 1 = expected then gen + 1 else gen) % 2 ^ 32 = if last then (gen + 1) % 2 ^ 32 else gen % 2 ^ 32 := by
    by_cases h : count + 1 = expected
    · simp [last, h]
    · simp [last, h]
  rw [← words.1, ← words.2]
  rfl

theorem KeepsSets.arrive (s : State) (w a : Nat) : KeepsSets s (s.arrive w a).1 := by
  rw [arrivalWrites s w a]
  dsimp only
  refine trans ?_ (toSync _ w _)
  refine trans ?_ (expose _ w _ none)
  exact homeWrite s w _ _

theorem arrivals_cons (s : State) (w : Nat) (dpa : Nat → Nat) (j : Nat) (lanes : List Nat) : arrivals s w dpa (j :: lanes) =
    ((arrivals (s.arrive w (dpa j)).1 w dpa lanes).1, (j, (s.arrive w (dpa j)).2) :: (arrivals (s.arrive w (dpa j)).1 w dpa lanes).2) := rfl

theorem KeepsSets.arrivals (s : State) (w : Nat) (dpa : Nat → Nat) (lanes : List Nat) : KeepsSets s (arrivals s w dpa lanes).1 := by
  induction lanes generalizing s with
  | nil => exact refl s
  | cons j lanes ih =>
    rw [arrivals_cons]
    exact (arrive s w (dpa j)).trans (ih _)

/-- One arrival behind others, whose generations are gathered. -/
def arriveNext (w : Nat) (dpa : Nat → Nat) (p : State × Tab Nat) (j : Nat) : State × Tab Nat :=
  ((p.1.arrive w (dpa j)).1, p.2 ++ [(j, (p.1.arrive w (dpa j)).2)])

theorem foldl_eq_arrivals {w : Nat} {dpa : Nat → Nat} {next : State × Tab Nat → Nat → State × Tab Nat} (hn : ∀ p j, next p j = arriveNext w dpa p j)
    (lanes : List Nat) (s : State) (gens : Tab Nat) :
    lanes.foldl next (s, gens) = ((arrivals s w dpa lanes).1, gens ++ (arrivals s w dpa lanes).2) := by
  induction lanes generalizing s gens with
  | nil => exact congrArg _ (List.append_nil gens).symm
  | cons j lanes ih => rw [List.foldl_cons, hn, arriveNext, ih, arrivals_cons, List.append_assoc, List.singleton_append]

/-! ### Checks of a barrier object (11 R261) -/

theorem barCheck_of_barBad {s : State} {L : Launch} {k : Kind} {j va : Nat} (h : s.barBad L k j va = none) : s.barCheck L k j va = none := by
  unfold State.barBad at h
  cases hc : s.barCheck L k j va with
  | none => rfl
  | some e =>
    rw [hc] at h
    cases h

theorem filter_barCheck {s : State} {L : Launch} {k : Kind} {lanes : List Nat} {va : Nat → Nat} (h : ∀ j ∈ lanes, s.barBad L k j (va j) = none) :
    lanes.filter (fun j => (s.barCheck L k j (va j)).isNone) = lanes :=
  List.filter_eq_self.mpr fun j hj => by rw [barCheck_of_barBad (h j hj)]; rfl

/-! ### The instructions -/

section
variable {s : State} {c : Ctx} {d a : BitVec 7} {n : BitVec 4} {g : BitVec 3}

/-- Where the barrier object of a lane lies. -/
def Ctx.objectAt (s : State) (c : Ctx) (a : BitVec 7) (j : Nat) : Nat := s.dpaOf (s.launchOf c.T) (c.va j a)

/-- The machine once the homes have served the objects of an arrival. -/
def Ctx.objectsRead (s : State) (c : Ctx) (a : BitVec 7) : State :=
  s.homeReads (s.launchOf c.T).world ((s.doers c).map (fun j => (c.objectAt s a j, 32))) 0

/-- The arrivals of an instruction's lanes: the state, and the generations. -/
def Ctx.arrived (s : State) (c : Ctx) (a : BitVec 7) : State × Tab Nat :=
  arrivals (c.objectsRead s a) (s.launchOf c.T).world (c.objectAt s a) (s.doers c)

/-- A lane's object takes its arrival. -/
def Ctx.TakesArrival (s : State) (c : Ctx) (a : BitVec 7) (j : Nat) : Prop :=
  s.barBad (s.launchOf c.T) .store j (c.va j a) = none ∧
    (c.objectsRead s a).sealState (s.launchOf c.T).world (s.launchOf c.T).tcid (c.va j a) = 0 ∧
    (c.objectsRead s a).barInvalid (s.launchOf c.T).world (c.objectAt s a j) = false ∧
    (c.objectsRead s a).lineBusy (s.launchOf c.T).world (c.objectAt s a j / 128) = false

/-- What an arrival waits for has come (05 R110; 11 R259). -/
def Ctx.MayArrive (s : State) (c : Ctx) : Prop :=
  (c.T.place.isUnit = true → s.nbStores c.t c.k c.T = false) ∧ (∀ x ∈ s.drains, ¬ (x.troupe = c.t ∧ x.set = c.k)) ∧
    (isSystem c.issue.hints = true ∧ isRelease c.issue.hints = true → s.acked c.t c.k = true)

theorem exec_barArrive_of_ready (h : Issues s (.barArrive d a n g) c) (ht : ∀ j ∈ s.doers c, c.TakesArrival s a j)
    (hr : s.doers c ≠ [] → c.MayArrive (c.objectsRead s a)) :
    exec (.barArrive d a n g) s = (c.arrived s a).1.retire c (.barArrive d a n g)
      (fun j => if (s.doers c).contains j then [(d.toNat, BitVec.ofNat 32 (Tab.getD (c.arrived s a).2 j 0))] else []) := by
  refine (stepOp_of_issues h _).trans ?_
  extract_lets L lanes va dpa fails s0
  have read : s0 = c.objectsRead s a := congrArg (fun l => s.homeReads L.world (l.map (fun j => (dpa j, 32))) 0)
    (filter_barCheck fun j hj => (ht j hj).1)
  rw [read, orRaise_badLanes_of_none _ c fun j hj => ?fine]
  case fine =>
    obtain ⟨fine, unsealed, valid, _⟩ := ht j hj
    have invalid : ¬ (c.objectsRead s a).barInvalid L.world (dpa j) = true := Bool.eq_false_iff.mp valid
    rw [show fails j = none from fine, sealBad_of_not_sealed j (by simp [L, va, unsealed]), if_neg invalid]
    rfl
  by_cases he : s.doers c = []
  · rw [if_pos (List.isEmpty_iff.mpr he)]
    have none : (c.arrived s a).1 = c.objectsRead s a := by rw [Ctx.arrived, he, arrivals]
    rw [none, he]
    rfl
  obtain ⟨unit, drained, acked⟩ := hr he
  have draining : (c.objectsRead s a).draining L lanes va = [] := State.draining_eq_nil fun j hj => by simp [(ht j hj).2.1, L, va]
  rw [draining, if_neg (mt List.isEmpty_iff.mp he), if_neg, if_neg (by decide), if_neg, if_neg, if_neg]
  · rw [foldl_eq_arrivals (w := L.world) (dpa := dpa) (fun p j => ?step)]
    case step =>
      unfold arriveNext
      generalize p.1.arrive L.world (dpa j) = q
      rfl
    rw [List.nil_append]
    rfl
  · simp only [Bool.and_eq_true, Bool.not_eq_true', not_and, Bool.not_eq_false]
    exact acked
  · simp only [List.any_eq_true, not_exists, not_and]
    exact fun j hj => Bool.eq_false_iff.mp (ht j hj).2.2.2
  · simp only [List.any_eq_true, Bool.and_eq_true, beq_iff_eq, not_exists, not_and]
    exact fun x hx => not_and.mp (drained x hx)
  · simp only [Bool.and_eq_true, not_and]
    exact fun hu => Bool.eq_false_iff.mp (unit hu)

/-- The machine once the homes have served the generations of a barrier wait and have moved the objects to their sync stores (06 R128). -/
def Ctx.gensRead (s : State) (c : Ctx) (a : BitVec 7) : State :=
  c.lanes.foldl (fun t j => t.toSync (s.launchOf c.T).world (c.objectAt s a j / 128))
    (s.homeReads (s.launchOf c.T).world (c.lanes.map (fun j => (c.objectAt s a j + 8, 4))) 0)

theorem KeepsSets.gensRead (s : State) (c : Ctx) (a : BitVec 7) : KeepsSets s (c.gensRead s a) :=
  (homeReads s _ _ _).trans (foldl id (fun s _ => toSync s _ _) _ _)

/-- Has the object of a lane left the generation that the lane names? -/
def Ctx.genPassed (s : State) (c : Ctx) (d a : BitVec 7) (j : Nat) : Bool :=
  BitVec.ofNat 32 ((c.gensRead s a).seenNat (s.launchOf c.T).world (c.objectAt s a j + 8) 4) != c.rd j d

theorem exec_barWait_of_some (h : Issues s (.barWait d a g) c)
    (hb : ∀ j, inMask c.act j = true → s.barBad (s.launchOf c.T) .load j (c.va j a) = none)
    (hn : (notYet (.barWait d a g) c.lanes (c.genPassed s d a)).length < c.lanes.length ∨
      notYet (.barWait d a g) c.lanes (c.genPassed s d a) = []) :
    exec (.barWait d a g) s = (c.gensRead s a).retire (c.without (notYet (.barWait d a g) c.lanes (c.genPassed s d a))
      (fun j => .until [.word (c.objectAt s a j + 8) 1 (c.rd j d)])) (.barWait d a g) (fun _ => []) := by
  have fine : ∀ j ∈ c.lanes, s.barBad (s.launchOf c.T) .load j (c.va j a) = none := fun j hj => hb j (mem_lanesOf.mp hj)
  refine (stepOp_of_issues h _).trans ?_
  extract_lets L va dpa fails s0 s1 yes no wake
  rw [orRaise_badLanes_of_none s0 c fine]
  have read : s1 = c.gensRead s a := by
    unfold s1 s0
    rw [filter_barCheck fine]
    rfl
  have passed : yes = c.genPassed s d a := by
    unfold yes
    rw [read]
    rfl
  have stay : no = notYet (.barWait d a g) c.lanes (c.genPassed s d a) := congrArg (notYet _ _) passed
  rw [read, stay]
  refine State.waitOut_of_some _ _ _ hn fun j hj => ?_
  rw [(yes_of_mem_notYet hn hj).1]
  rfl

end

theorem barriersComplete : Claims.BarriersComplete := by
  unfold Claims.BarriersComplete
  intro s c d a n g
  refine ⟨fun h ht hr => ?_, fun h hb hn => ?_⟩
  · refine completesFrom_of_retire_from h ((KeepsSets.homeReads _ _ _ _).trans (KeepsSets.arrivals _ _ _ _)) (S := c.S) rfl (fun j => ?_)
      (exec_barArrive_of_ready h ht hr)
    split <;> simp
  · exact completesFrom_of_without_from (S := c.S) h (KeepsSets.gensRead s c a) rfl _ _ (exec_barWait_of_some h hb hn)

/-- Settles O22: the arrivals one after the other, the wait by which lanes stay, and the words of one arrival. -/
theorem barriers : Obligations.Barriers := ⟨barriersComplete, arrivalWrites⟩

end Sys2Proof.Machine
end

section
/-! O23: transactions (10 R233-R235; 11 R262-R265): what a fallback leaves of a set, then the begin, the end and the abort. -/

namespace Sys2Proof.Machine

/-! ### The fallback (10 R235; 11 R265) -/

/-- A thread that takes the fallback goes on at the target, if it lives. -/
def Thread.atTarget (x : Nat) (th : Thread) : Thread := if th.live then { th with pc := x, hold := .ready } else th

/-- The threads that a fallback starts from: those of the checkpoint after a squash or an overflow, else those that stand. -/
def SetState.fallbackThreads (S : SetState) (q : Chunk) (kind : Nat) : List Thread := if kind = 2 ∨ kind = 8 then q.start else S.threads

theorem SetState.fallback_eq {S : SetState} {q : Chunk} {x : Nat} (kind code : Nat) (hc : S.chunk = some q) (hx : q.tx = some x) :
    (S.fallback kind code).txCode = kind * 256 + code % 256 ∧ (S.fallback kind code).chunk = none ∧
      (S.fallback kind code).threads = (S.fallbackThreads q kind).map (Thread.atTarget x) := by
  have first : S.first? false = some q := hc
  unfold SetState.fallback SetState.undo SetState.fallbackThreads
  simp only [first, hx, Bool.or_eq_true, decide_eq_true_eq]
  exact ⟨trivial, trivial, rfl⟩

theorem fallbackRule : Claims.FallbackRule := by
  unfold Claims.FallbackRule
  intro S q x kind code hc hx
  obtain ⟨txCode, chunk, threads⟩ := SetState.fallback_eq kind code hc hx
  have fallen : Thread.atTarget x (Thread.fresh 0 false) = Thread.fresh 0 false := rfl
  refine ⟨txCode, chunk, fun j => ?_⟩
  change (S.fallback kind code).lane j = Thread.atTarget x _
  rw [SetState.lane, threads, ← fallen, List.getD_map, fallen, SetState.fallbackThreads]
  split <;> rfl

/-! ### The instructions (11 R262-R264) -/

theorem transactions : Claims.Transactions := by
  unfold Claims.Transactions
  intro s c o p k i g
  refine ⟨fun h => ?_, fun h => ⟨fun ht => ?_, fun ht => ?_⟩, fun h => ⟨fun ha => ?_, fun ha ht => ?_, fun ha ht => ?_⟩⟩
  · exact completesFrom_of_retire_withSet h rfl rfl (stepOp_of_issues h _)
  · refine (stepOp_of_issues h _).trans (if_pos ?_)
    rw [ht]
    rfl
  · refine ⟨_, _, (stepOp_of_issues h _).trans (if_neg ?_), State.done_onlySet (setAt?_of_issues h) _, ?_, SetState.retire_chunk _ _ _ _ _⟩
    · rw [ht]
      decide
    · refine SetState.retire_lanes ?_ ?_ _ _ _ ?_ ?_
      · exact fun _ => lt_of_issues h
      · exact fun _ => inMask_act_of_issues h
      · exact fun _ => List.nodup_nil
      · exact fun _ _ => Thread.combine_eq _ p k _
  · exact gives_nothing_of_retire h (fun _ _ => rfl) ((stepOp_of_issues h _).trans (if_pos ha))
  · exact (stepOp_of_issues h _).trans ((if_neg ha).trans (if_pos ht))
  · exact (stepOp_of_issues h _).trans ((if_neg ha).trans (if_neg (Bool.eq_false_iff.mp ht)))

/-- Settles O23: the three instructions by their conditions, and the fallback by the threads that it starts from. -/
theorem transactionsAndFallbacks : Obligations.TransactionsAndFallbacks := ⟨transactions, fallbackRule⟩

end Sys2Proof.Machine
end

section
/-! O24: seals (11 R266) and the flush and invalidation of outside lines (11 R268, R269). -/

namespace Sys2Proof.Machine

section
variable {s : State} {c : Ctx} {d a : BitVec 7} {g : BitVec 3} {n : BitVec 4}

/-! ### Seals (06 R137) -/

/-- Seals that pass one after the other leave no lane with a failure. -/
theorem foldl_sealNow_of_sealsPass {w tcid l : Nat} {va len : Nat → Nat} {next : State × Tab Nat → Nat → State × Tab Nat}
    (hn : ∀ p j t, p.1.sealNow w tcid l (va j) (len j) = .ok t → next p j = (t, p.2)) (lanes : List Nat) (s : State) (errs : Tab Nat)
    (hp : sealsPass w tcid l s (lanes.map (fun j => (va j, len j)))) : (lanes.foldl next (s, errs)).2 = errs := by
  induction lanes generalizing s with
  | nil => rfl
  | cons j lanes ih =>
    obtain ⟨t, ht, rest⟩ := hp
    rw [List.foldl_cons, hn (s, errs) j t ht]
    exact ih t rest

/-- A lane's range may be sealed: it is aligned and the lane may write it (11 R266). -/
def Ctx.mayBeSealed (s : State) (c : Ctx) (d a : BitVec 7) (j : Nat) : Prop :=
  c.va j a % 128 = 0 ∧ (c.rd j d).toNat % 128 = 0 ∧ s.sealRangeBad (s.launchOf c.T) (c.va j a) (max 1 (c.rd j d).toNat) = none

theorem exec_seal_of_pass (h : Issues s (.seal d a g) c)
    (hp : c.S.retry = 0 ∨ sealsPass (s.launchOf c.T).world (s.launchOf c.T).tcid c.T.launch
      (((c.S.chunk.map (·.seals)).getD []).foldl (fun t e => t.sealOr (s.launchOf c.T).world (s.launchOf c.T).tcid c.T.launch e) s.withSeals)
      ((s.doers c).map (fun j => (c.va j a, (c.rd j d).toNat))))
    (hm : ∀ j ∈ s.doers c, c.mayBeSealed s d a j) :
    exec (.seal d a g) s = s.retire { c with S := c.S.onChunk (fun k =>
      { k with seals := k.seals ++ (s.doers c).map (fun j => (c.va j a, (c.rd j d).toNat)) }) } (.seal d a g) (fun _ => []) := by
  refine (stepOp_of_issues h _).trans ?_
  extract_lets L lanes va len prior one errs
  have pass : errs = [] := by
    unfold errs
    split
    · rfl
    next retry => exact foldl_sealNow_of_sealsPass (fun p j t ht => by rw [ht]) _ _ _ (hp.resolve_left retry)
  refine (orRaise_badLanes_of_none s c (fun j hj => ?_) _).trans rfl
  obtain ⟨va0, len0, range⟩ := hm j hj
  rw [pass]
  simp [va, len, L, va0, len0, range, Tab.get?]

/-! ### Outside lines (11 R268, R269) -/

/-- The outside lines that an instruction with system scope names. -/
def Ctx.outside (s : State) (c : Ctx) (a : BitVec 7) (n : BitVec 4) : List Nat :=
  if isSystem c.issue.hints then
    (s.namedLines (s.launchOf c.T) (s.doers c) (fun j => c.va j a) (n.toNat + 1)).filter (fun l => isOutside (l * 128)) else []

/-- The dirty lines go out to their targets (11 R269). -/
def Ctx.flushed (s : State) (c : Ctx) (lines : List Nat) : State :=
  (lines.filter (s.copyDirty (s.launchOf c.T).world)).foldl
    (fun t l => t.flushLine c.t c.k c.issue.group c.T.launch (s.launchOf c.T).world l) s

theorem exec_cinv_of_pass (h : Issues s (.cinv a g n) c)
    (hb : ∀ j ∈ s.doers c, s.linesBad (s.launchOf c.T) j (c.va j a) (n.toNat + 1) = none)
    (hd : ∀ l ∈ c.outside s a n, ∀ x ∈ s.drains, x.world = (s.launchOf c.T).world → x.lines.contains l = false) :
    exec (.cinv a g n) s =
      if !((c.outside s a n).filter (s.copyDirty (s.launchOf c.T).world)).isEmpty then
        .next ((if s.acked c.t c.k then c.flushed s (c.outside s a n) else s).hold c c.mask (.until [.acked]))
      else ((c.outside s a n).foldl (fun t l => t.invalidate (s.launchOf c.T).world l) s).retire c (.cinv a g n) (fun _ => []) := by
  refine (stepOp_of_issues h _).trans ((orRaise_badLanes_of_none s c hb _).trans (if_neg ?_))
  simp only [List.any_eq_true, Bool.and_eq_true, beq_iff_eq, not_exists, not_and]
  exact fun l hl x hx hw => Bool.eq_false_iff.mp (hd l hl x hx hw)

end

/-- Settles O24: each instruction by what it does once its checks pass. -/
theorem sealsAndCacheLines : Obligations.SealsAndCacheLines := by
  unfold Obligations.SealsAndCacheLines
  intro s c d a g n
  refine ⟨fun h hp hm => ?_, fun h hb => ?_, fun h hb hd hx => ?_, fun h hb hd => ?_⟩
  · exact completesFrom_of_retire_withSet h rfl rfl (exec_seal_of_pass h hp hm)
  · exact completesFrom_of_retire_withSet h rfl rfl ((stepOp_of_issues h _).trans (orRaise_badLanes_of_none s c hb _))
  · obtain ⟨l, hl, dirty⟩ := hx
    refine (exec_cinv_of_pass h hb hd).trans (if_pos ?_)
    rw [Bool.not_eq_true', List.isEmpty_eq_false_iff]
    exact List.ne_nil_of_mem (List.mem_filter.mpr ⟨hl, dirty⟩)
  · refine completesFrom_of_retire_from h (KeepsSets.foldl id (fun t l => KeepsSets.invalidate t _ l) _ s) (S := c.S) rfl
      (fun _ => List.nodup_nil) ((exec_cinv_of_pass h hb (fun l hl => (hd l hl).2)).trans (if_neg ?_))
    have clean : (c.outside s a n).filter (s.copyDirty (s.launchOf c.T).world) = [] :=
      List.filter_eq_nil_iff.mpr fun l hl => Bool.eq_false_iff.mp (hd l hl).1
    rw [clean]
    decide

end Sys2Proof.Machine
end

section
/-! O18: stores and loads of memory (11 R243-R247). What the accesses leave at the clusters makes no set come or go; then each instruction. -/

namespace Sys2Proof.Machine

/-! ### Samples and translations (07 R147; 06 R139) -/

namespace KeepsSets

theorem sample (s : State) (cl w va core kind tcid : Nat) (miss : Bool) : KeepsSets s (s.sample cl w va core kind tcid miss) :=
  ite (refl s) (ite (of_troupes rfl) (of_troupes rfl))

theorem samples (s : State) (c : Ctx) (kind : Nat) (vas : List Nat) (write : Bool) : KeepsSets s (s.samples c kind vas write) :=
  foldl id (fun t _ => sample t _ _ _ _ _ _ _) _ s

theorem toTlb (s : State) (cl w tcid va : Nat) : KeepsSets s (s.toTlb cl w tcid va) := by
  unfold State.toTlb
  split
  · exact refl s
  · exact of_troupes rfl

theorem writeMisses (s : State) (c : Ctx) (vas : List Nat) : KeepsSets s (s.writeMisses c vas) :=
  foldl id (fun t _ => toTlb t _ _ _ _) _ s

/-- What a write of memory leaves beside its chunk: samples of its lines and translations of those that its L1 does not hold. -/
theorem writes (s : State) (c : Ctx) (kind : Nat) (vas : List Nat) : KeepsSets s ((s.samples c kind vas true).writeMisses c vas) :=
  (samples s c kind vas true).trans (writeMisses _ c vas)

end KeepsSets

/-- A write passes where its access does and its buffer is not sealed. -/
theorem writeBad_eq_none {s : State} {L : Launch} {j va n : Nat} (h : s.laneBad L .store j va n = none) (hs : s.sealState L.world L.tcid va = 0) :
    s.writeBad L j va n = none := by
  rw [State.writeBad, h, sealBad_of_not_sealed j (by rw [hs]; decide)]
  rfl

/-! ### Stores (11 R243-R247) -/

theorem storesComplete : Claims.StoresComplete := by
  unfold Claims.StoresComplete
  intro s c d a g m L n lanes dpa writes store vas h hb hw
  refine completesFrom_of_retire_from h (KeepsSets.writes s c 1 vas) (SetState.threads_onChunk c.S _) (fun _ => List.nodup_nil)
    ((stepOp_of_issues h _).trans ((orRaise_badLanes_of_none s c (fun j hj => writeBad_eq_none (hb j hj).1 (hb j hj).2) _).trans ?_))
  have draining : s.draining L lanes (fun j => c.va j a) = [] := State.draining_eq_nil fun j hj => by rw [(hb j hj).2]; decide
  refine (if_neg ?_).trans (if_neg (Nat.not_lt.mpr hw))
  rw [draining]
  decide


/-! ### Loads (11 R243, R245, R246) -/

section
variable {s : State} {c : Ctx} {d a : BitVec 7} {e : BitVec 4} {g : BitVec 3} {m : BitVec 4}

/-- Does a lane that reads at no target read now, at no miss's end or at its own? -/
def Ctx.nearLane (s : State) (c : Ctx) (a : BitVec 7) (j : Nat) : Bool :=
  s.live (s.launchOf c.T).world (s.launchOf c.T).tcid (c.va j a) (s.dpaOf (s.launchOf c.T) (c.va j a)) || Ctx.inL1 s c j a ||
    ((s.coreAt c.T.place.coreNo).missErr (s.launchOf c.T).world (s.launchOf c.T).tcid (c.va j a)).isSome ||
    (2 ≤ (cacheOf c.issue.hints).1 && (!isOutside (s.dpaOf (s.launchOf c.T) (c.va j a)) ||
      (s.copies.get? (lineKey (s.launchOf c.T).world (s.dpaOf (s.launchOf c.T) (c.va j a) / 128))).isSome))

/-- Lanes of a load that wait for an answer of their target. -/
def Ctx.askLanes (s : State) (c : Ctx) (a : BitVec 7) : List Nat :=
  c.lanes.filter (fun j => Ctx.farLane s c j a && (c.S.answers.get? j).isNone)

/-- Lanes of a load that wait for their line. -/
def Ctx.missLanes (s : State) (c : Ctx) (a : BitVec 7) : List Nat := c.lanes.filter (fun j => !Ctx.farLane s c j a && !c.nearLane s a j)

/-- Lanes of a load that read at their homes. -/
def Ctx.homeLanes (s : State) (c : Ctx) (a : BitVec 7) : List Nat := c.lanes.filter (fun j => !Ctx.farLane s c j a && !Ctx.inL1 s c j a)

/-- Lanes of a load of outside lines whose miss has ended in an error (07 R145). -/
def Ctx.missBad (s : State) (c : Ctx) (a : BitVec 7) : List LaneBad :=
  (c.lanes.filter (fun j => !Ctx.farLane s c j a && !Ctx.inL1 s c j a && isOutside (s.dpaOf (s.launchOf c.T) (c.va j a)))).filterMap (fun j =>
    ((s.coreAt c.T.place.coreNo).missErr (s.launchOf c.T).world (s.launchOf c.T).tcid (c.va j a)).map (fun e =>
      { lane := j, cause := e, reason := 0, addr := c.va j a, info := 0 }))

/-- Lanes of a load whose read fails: at its target, on its way, or at its home. -/
def Ctx.readsBad (s : State) (c : Ctx) (a : BitVec 7) : List LaneBad :=
  answersBad c (c.lanes.filter (fun j => Ctx.farLane s c j a)) (fun j => c.va j a) ++ c.missBad s a ++
    s.granBad (s.launchOf c.T).world ((c.homeLanes s a).map (fun j => (j, c.va j a, s.dpaOf (s.launchOf c.T) (c.va j a))))

theorem exec_ld_of_lanes (h : Issues s (.ld d a e g m) c)
    (hb : ∀ j ∈ c.lanes, s.laneBad (s.launchOf c.T) .load j (c.va j a) (widthOf m.toNat) = none) (ha : c.askLanes s a = []) (hm : c.missLanes s a = [])
    (hf : c.readsBad s a = []) (hs : (Ctx.homesRead s c a (widthOf m.toNat)).lostChunk c = false) :
    exec (.ld d a e g m) s = (Ctx.afterLoad s c a (widthOf m.toNat)).retire { c with S := Ctx.afterReads s c a } (.ld d a e g m)
      (fun j => loadRegs m.toNat d.toNat ((List.range (widthOf m.toNat)).map (Ctx.loaded s c a (widthOf m.toNat) j))) := by
  refine (stepOp_of_issues h _).trans ((orRaise_badLanes_of_none s c hb _).trans ?_)
  change (if (!(c.askLanes s a).isEmpty || !(c.missLanes s a).isEmpty) = true then _
    else if (Ctx.homesRead s c a (widthOf m.toNat)).lostChunk c = true then _
    else (Ctx.homesRead s c a (widthOf m.toNat)).orRaise _ (c.readsBad s a) _) = _
  rw [ha, hm, if_neg (by decide), hs, if_neg (by decide), hf]
  rfl

/-- A lane that may read at its target has an answer without an error there. -/
theorem Ctx.answered_of_readable {j : Nat} (h : Ctx.readable s c j a) (hf : Ctx.farLane s c j a = true) :
    ∃ x, c.S.answers.get? j = some x ∧ answerBad x = none := by
  unfold Ctx.readable at h
  rwa [if_pos hf] at h

/-- One that may read elsewhere reads now, and neither its miss nor its granule fails. -/
theorem Ctx.near_of_readable {j : Nat} (h : Ctx.readable s c j a) (hf : Ctx.farLane s c j a = false) : c.nearLane s a j = true ∧
    (Ctx.inL1 s c j a = false →
      (isOutside (s.dpaOf (s.launchOf c.T) (c.va j a)) = true →
        (s.coreAt c.T.place.coreNo).missErr (s.launchOf c.T).world (s.launchOf c.T).tcid (c.va j a) = none) ∧
      s.readFault (s.launchOf c.T).world (s.dpaOf (s.launchOf c.T) (c.va j a)) = none) := by
  unfold Ctx.readable at h
  rw [if_neg (Bool.eq_false_iff.mp hf)] at h
  obtain ⟨now, fine⟩ := h
  refine ⟨?_, fun away => fine.resolve_left (Bool.eq_false_iff.mp away)⟩
  unfold Ctx.nearLane
  rcases now with held | live | ⟨past, there⟩ | ⟨_, missed⟩
  · simp [held]
  · simp [live]
  · simp [past, there]
  · simp [missed]

theorem Ctx.askLanes_eq_nil (h : ∀ j ∈ c.lanes, Ctx.readable s c j a) : c.askLanes s a = [] := by
  refine List.filter_eq_nil_iff.mpr fun j hj => ?_
  rw [Bool.and_eq_true, not_and]
  intro far
  obtain ⟨x, hx, _⟩ := Ctx.answered_of_readable (h j hj) far
  rw [hx]
  exact Bool.false_ne_true

theorem Ctx.missLanes_eq_nil (h : ∀ j ∈ c.lanes, Ctx.readable s c j a) : c.missLanes s a = [] := by
  refine List.filter_eq_nil_iff.mpr fun j hj => ?_
  rw [Bool.and_eq_true, not_and, Bool.not_eq_true']
  intro far
  rw [(Ctx.near_of_readable (h j hj) far).1]
  decide

theorem Ctx.missBad_eq_nil (h : ∀ j ∈ c.lanes, Ctx.readable s c j a) : c.missBad s a = [] := by
  refine List.filterMap_eq_nil_iff.mpr fun j hj => ?_
  obtain ⟨hj, ask⟩ := List.mem_filter.mp hj
  simp only [Bool.and_eq_true, Bool.not_eq_true'] at ask
  obtain ⟨⟨far, away⟩, outside⟩ := ask
  rw [((Ctx.near_of_readable (h j hj) far).2 away).1 outside, Option.map_none]

theorem Ctx.readsBad_eq_nil (h : ∀ j ∈ c.lanes, Ctx.readable s c j a) : c.readsBad s a = [] := by
  refine List.append_eq_nil_iff.mpr ⟨List.append_eq_nil_iff.mpr ⟨answersBad_eq_nil _ fun j hj => ?_, c.missBad_eq_nil h⟩,
    granBad_eq_nil fun x hx => ?_⟩
  · obtain ⟨hj, far⟩ := List.mem_filter.mp hj
    exact Ctx.answered_of_readable (h j hj) far
  · obtain ⟨j, hj, rfl⟩ := List.mem_map.mp hx
    obtain ⟨hj, home⟩ := List.mem_filter.mp hj
    simp only [Bool.and_eq_true, Bool.not_eq_true'] at home
    exact ((Ctx.near_of_readable (h j hj) home.1).2 home.2).2

end

/-- A load fills each register of its group once. -/
theorem nodup_loadRegs (m d : Nat) (b : List Byte) : ((loadRegs m d b).map (·.1)).Nodup := by
  rw [map_fst_loadRegs]
  exact List.nodup_range.map (add_right_injective d)

theorem KeepsSets.afterLoad (s : State) (c : Ctx) (a : BitVec 7) (n : Nat) : KeepsSets s (Ctx.afterLoad s c a n) :=
  have cleared : KeepsSets s (s.onCore c.T.place.coreNo (fun C =>
      C.clearErrs (s.launchOf c.T).world (s.launchOf c.T).tcid (c.lanes.map (fun j => c.va j a / 128)))) := of_troupes rfl
  (cleared.trans (homeReads _ _ _ _)).trans (samples (Ctx.homesRead s c a n) c 0 _ false)

theorem loadsComplete : Claims.LoadsComplete := by
  unfold Claims.LoadsComplete
  intro s c d a e g m n h hr hs
  have able : ∀ j ∈ c.lanes, Ctx.readable s c j a := fun j hj => (hr j (mem_lanesOf.mp hj)).2
  refine completesFrom_of_retire_from h (KeepsSets.afterLoad s c a n) ?_ (fun j => ?_)
    (exec_ld_of_lanes h (fun j hj => (hr j (mem_lanesOf.mp hj)).1) (c.askLanes_eq_nil able) (c.missLanes_eq_nil able) (c.readsBad_eq_nil able) hs)
  · rfl
  · exact nodup_loadRegs _ _ _

/-- Settles O18: a load by where each lane may read, a store by its checks. -/
theorem loadsAndStores : Obligations.LoadsAndStores := ⟨loadsComplete, storesComplete⟩

end Sys2Proof.Machine
end

section
/-! O19: loads and stores of the scratchpad (11 R243, R244; 08 R168, R171). -/

namespace Sys2Proof.Machine

section
variable {s : State} {c : Ctx} {d a : BitVec 7} {e : BitVec 4} {g : BitVec 3} {m : BitVec 4}

/-- The bytes that lanes of a scratchpad access of `n` bytes touch, to write or to read. -/
def Ctx.padUses (s : State) (c : Ctx) (a : BitVec 7) (n : Nat) (lanes : List Nat) (write : Bool) : List (Nat × Nat × Nat × Bool) :=
  lanes.map (fun j => ((Ctx.padAt s c j a n).1, (Ctx.padAt s c j a n).2, (Ctx.padAt s c j a n).2 + n, write))

/-- The lanes of a scratchpad load whose line is empty. -/
def Ctx.emptyLanes (s : State) (c : Ctx) (a : BitVec 7) (n : Nat) : List Nat :=
  c.lanes.filter (fun j => !(s.lineSeen c.S (Ctx.padAt s c j a n).1 ((Ctx.padAt s c j a n).2 / 128)).1)

/-- The line that a lane of a scratchpad load waits for. -/
def Ctx.padWake (s : State) (c : Ctx) (a : BitVec 7) (n j : Nat) : Wake := .line (Ctx.padAt s c j a n).1 ((Ctx.padAt s c j a n).2 / 128)

/-- The chunk of a scratchpad load: the lines that it has read. -/
def Chunk.padRead (s : State) (c : Ctx) (a : BitVec 7) (n : Nat) (k : Chunk) : Chunk :=
  ({ k with spReads := addAll k.spReads (c.lanes.map (fun j => ((Ctx.padAt s c j a n).1, (Ctx.padAt s c j a n).2 / 128))) }).touch
    (c.lanes.map (fun j => (j, padKey (Ctx.padAt s c j a n).1 ((Ctx.padAt s c j a n).2 / 128), false)))

/-- The chunk of a scratchpad store: the bytes that wait in it, and their lines. -/
def Chunk.padWritten (s : State) (c : Ctx) (d a : BitVec 7) (m : BitVec 4) (k : Chunk) : Chunk :=
  let at' (j : Nat) := Ctx.padAt s c j a (widthOf m.toNat)
  ({ k with
      stored := true
      spStores := k.spStores ++ (s.doers c).map (fun j =>
        ({ troupe := (at' j).1, off := (at' j).2, bytes := c.storeBytes m.toNat j d, lane := j } : SpStore))
      spWrites := addAll k.spWrites ((s.doers c).map (fun j => ((at' j).1, (at' j).2 / 128))) }).touch
    ((s.doers c).map (fun j => (j, padKey (at' j).1 ((at' j).2 / 128), true)))

theorem exec_lds_of_fits (h : Issues s (.lds d a e g m) c)
    (hb : ∀ j, inMask c.act j = true → s.spadBad c j (c.sp j a) (widthOf m.toNat) = none)
    (hp : s.pending c (meetsAny (c.padUses s a (widthOf m.toNat) c.lanes false)) = false) :
    exec (.lds d a e g m) s = if !(c.emptyLanes s a (widthOf m.toNat)).isEmpty then
        .next (s.stall c.t c.k c.mask (majorOf (.lds d a e g m)) (fun j =>
          if (Instr.lds d a e g m).namesPort then addAll [] ((c.emptyLanes s a (widthOf m.toNat)).map (c.padWake s a (widthOf m.toNat)))
          else if (c.emptyLanes s a (widthOf m.toNat)).contains j then [c.padWake s a (widthOf m.toNat) j] else []))
      else s.retire { c with S := c.S.onChunk (Chunk.padRead s c a (widthOf m.toNat)) } (.lds d a e g m) (fun j =>
        loadRegs m.toNat d.toNat ((List.range (widthOf m.toNat)).map (fun b =>
          s.loadSpad c.S j (Ctx.padAt s c j a (widthOf m.toNat)).1 ((Ctx.padAt s c j a (widthOf m.toNat)).2 + b)))) :=
  (stepOp_of_issues h _).trans ((orRaise_badLanes_of_none s c (fun j hj => hb j (mem_lanesOf.mp hj)) _).trans
    (if_neg (Bool.eq_false_iff.mp hp)))

theorem exec_sts_of_fits (h : Issues s (.sts d a g m) c) (hb : ∀ j ∈ s.doers c, s.spadBad c j (c.sp j a) (widthOf m.toNat) = none)
    (hp : s.pending c (meetsAny (c.padUses s a (widthOf m.toNat) (s.doers c) true)) = false) :
    exec (.sts d a g m) s =
      s.retire { c with S := c.S.onChunk (Chunk.padWritten s c d a m) } (.sts d a g m) (fun _ => []) :=
  (stepOp_of_issues h _).trans ((orRaise_badLanes_of_none s c hb _).trans (if_neg (Bool.eq_false_iff.mp hp)))

end

/-- Settles O19: a load by whether some lane's line is empty, a store by its checks. -/
theorem scratchpadAccesses : Obligations.ScratchpadAccesses := by
  unfold Obligations.ScratchpadAccesses
  intro s c d a e g m
  refine ⟨fun h hb hp => ⟨fun he => ?_, fun he => ?_⟩, fun h hb hp => ?_⟩
  · have full : ¬ (!(c.emptyLanes s a (widthOf m.toNat)).isEmpty) = true := by
      rw [show c.emptyLanes s a (widthOf m.toNat) = [] from he]
      decide
    exact completesFrom_of_retire_from h (KeepsSets.refl s) (SetState.threads_onChunk c.S _) (fun _ => nodup_loadRegs _ _ _)
      ((exec_lds_of_fits h hb hp).trans (if_neg full))
  · refine (exec_lds_of_fits h hb hp).trans ((if_pos ?_).trans ?_)
    · rw [Bool.not_eq_true', List.isEmpty_eq_false_iff]
      exact he
    · simp only [List.contains_iff_mem]
      rfl
  · exact completesFrom_of_retire_withSet h rfl (SetState.threads_onChunk c.S _) (exec_sts_of_fits h hb hp)

end Sys2Proof.Machine
end

section
/-! O20: atomics (11 R249, R251; 06 R129) and reductions (11 R250, R251; 06 R132). -/

namespace Sys2Proof.Machine

section
variable {s : State} {c : Ctx} {d a : BitVec 7} {e : BitVec 4} {g : BitVec 3} {m : BitVec 4}

/-- An atomic passes where its write does and its target takes its operation (11 R251). -/
theorem atomicBad_eq_none {L : Launch} {far : Bool} {op j va w : Nat} (h : s.laneBad L .store j va w = none) (hs : s.sealState L.world L.tcid va = 0)
    (hf : far = true → farAtomicBad op (s.dpaOf L va) = none) : s.atomicBad L far op j va w = none := by
  rw [State.atomicBad, writeBad_eq_none h hs]
  cases far with
  | false => rfl
  | true =>
    rw [hf rfl]
    rfl

/-! ### Atomics -/

/-- The lanes of an atomic that go to their homes. -/
def Ctx.nearDoers (s : State) (c : Ctx) (a : BitVec 7) : List Nat := (s.doers c).filter (fun j => !Ctx.farLane s c j a)

theorem releaseWaits_eq_false {far : Bool} (h : isSystem c.issue.hints = true ∨ far = true → isRelease c.issue.hints = true → s.acked c.t c.k = true) :
    s.releaseWaits c far = false := by
  unfold State.releaseWaits
  cases hr : isRelease c.issue.hints with
  | false => simp
  | true =>
    cases hs : isSystem c.issue.hints || far with
    | false => simp
    | true => simp [h (by simpa using hs) hr]

theorem any_far_of_nearDoers (h : (s.doers c).any (fun j => Ctx.farLane s c j a) = true) : c.nearDoers s a ≠ s.doers c := by
  obtain ⟨j, hj, far⟩ := List.any_eq_true.mp h
  intro all
  have near := List.filter_eq_self.mp all j hj
  rw [far] at near
  cases near

/-- One lane of an atomic sends its operation, to its home or to its target. -/
def Ctx.askAtomic (s : State) (c : Ctx) (d a : BitVec 7) (m : BitVec 4) (t : State) (j : Nat) : State :=
  let L := s.launchOf c.T
  let op := (amoCode m.toNat).1
  let w := (amoCode m.toNat).2
  let x := c.atomArgs op w j d
  if Ctx.farLane s c j a then
    t.send (.atomic op w x.1 x.2) (.set c.t c.k j c.issue.group) L.world (s.dpaOf L (c.va j a)) c.T.launch (c.va j a)
  else
    t.enqueue
      { seq := 0, asker := .lane c.t c.k j, world := L.world, tcid := L.tcid, va := c.va j a, dpa := s.dpaOf L (c.va j a), op := op
        width := w, cmp := x.1, val := x.2 }

theorem exec_amo_of_fits (h : Issues s (.amo d a e g m) c)
    (hb : ∀ j ∈ s.doers c, s.laneBad (s.launchOf c.T) .store j (c.va j a) (amoCode m.toNat).2 = none ∧
      s.sealState (s.launchOf c.T).world (s.launchOf c.T).tcid (c.va j a) = 0 ∧
      (Ctx.farLane s c j a = true → farAtomicBad (amoCode m.toNat).1 (s.dpaOf (s.launchOf c.T) (c.va j a)) = none)) :
    exec (.amo d a e g m) s = if (s.doers c).isEmpty then s.retire c (.amo d a e g m) (fun _ => [])
      else if (c.nearDoers s a).any (fun j =>
          decide (128 < s.queued (s.home (s.launchOf c.T).world (s.dpaOf (s.launchOf c.T) (c.va j a) / 128)) + (c.nearDoers s a).length) ||
          s.redsHeld s.drains (s.home (s.launchOf c.T).world (s.dpaOf (s.launchOf c.T) (c.va j a) / 128))) then .next s.endIssue
      else if s.releaseWaits c ((s.doers c).any (fun j => Ctx.farLane s c j a)) then .next (s.hold c c.mask (.until [.acked]))
      else .next (((s.doers c).foldl (c.askAtomic s d a m) ((s.samples c 2 ((c.nearDoers s a).map (fun j => c.va j a)) true).writeMisses c
        ((c.nearDoers s a).map (fun j => c.va j a)))).await c (.amo d a e g m) (s.doers c) d.toNat (amoCode m.toNat).2 (fun j => c.va j a)) := by
  have draining : s.draining (s.launchOf c.T) (s.doers c) (fun j => c.va j a) = [] :=
    State.draining_eq_nil fun j hj => by rw [(hb j hj).2.1]; decide
  refine (stepOp_of_issues h _).trans
    ((orRaise_badLanes_of_none s c (fun j hj => atomicBad_eq_none (hb j hj).1 (hb j hj).2.1 (hb j hj).2.2) _).trans ?_)
  dsimp only
  rw [draining]
  rfl

end

theorem atomicsIssue : Claims.AtomicsIssue := by
  unfold Claims.AtomicsIssue
  intro s c d a e g m
  refine fun h hb => ⟨fun he => ?_, fun he ht hr => ?_⟩
  · exact gives_nothing_of_retire h (fun _ _ => rfl) ((exec_amo_of_fits h hb).trans (if_pos (List.isEmpty_iff.mpr he)))
  · refine (exec_amo_of_fits h hb).trans ((if_neg (mt List.isEmpty_iff.mp he)).trans ((if_neg ?_).trans (if_neg ?_)))
    · rw [List.any_eq_true]
      rintro ⟨j, hj, full⟩
      obtain ⟨room, none⟩ := ht j hj
      rw [Bool.or_eq_true, decide_eq_true_eq] at full
      exact full.elim (Nat.not_lt.mpr room) (Bool.eq_false_iff.mp none)
    · rw [releaseWaits_eq_false fun hs => hr (hs.imp_right any_far_of_nearDoers)]
      exact Bool.false_ne_true

/-! ### Reductions -/

theorem reductionsBuffer : Claims.ReductionsBuffer := by
  unfold Claims.ReductionsBuffer
  intro s c d a g m L op w lanes va dpa range far reds vas h hb
  have draining : s.draining L lanes va = [] := State.draining_eq_nil fun j hj => by rw [(hb j hj).2.1]; decide
  refine completesFrom_of_retire_from h (KeepsSets.writes s c 3 vas) (SetState.threads_onChunk c.S _) (fun _ => List.nodup_nil)
    ((stepOp_of_issues h _).trans ((orRaise_badLanes_of_none s c (fun j hj => ?fits) _).trans ?_))
  case fits =>
    obtain ⟨access, unsealed, takes⟩ := hb j hj
    split
    next r hr =>
      rw [show range j = some r from hr] at takes
      obtain ⟨taken, aligned⟩ := takes
      refine (congrArg (Option.orElse · _) access).trans (if_pos ?_)
      exact Bool.and_eq_true _ _ ▸ ⟨taken, beq_iff_eq.mpr aligned⟩
    next hr =>
      rw [show range j = none from hr] at takes
      exact atomicBad_eq_none access unsealed takes
  · dsimp only
    rw [draining]
    rfl

/-- Settles O20: atomics by where their lanes go, reductions by their checks. -/
theorem atomicsAndReductions : Obligations.AtomicsAndReductions := ⟨atomicsIssue, reductionsBuffer⟩

end Sys2Proof.Machine
end

section
/-! O33: memory instructions of the cue stream (11 R255, R257, R267, R270-R272; 10 R225, R229). First the stream that issues and the requests
that it has out, then reads, writes, atomics and the synchronisation of the stream. -/

namespace Sys2Proof.Machine

theorem Tab.mem_set {α : Type} (t : Tab α) (n : Nat) (x : α) : (n, x) ∈ Tab.set t n x := by
  induction t with
  | nil => exact List.mem_singleton_self _
  | cons e t ih =>
    obtain ⟨k, v⟩ := e
    rw [Tab.set]
    split
    · exact List.mem_cons_self
    split
    · exact List.mem_cons_self
    · exact List.mem_cons_of_mem _ ih

section
variable {s : State} {t : Nat} {T : Troupe} {u : Issue}

/-! ### The stream that issues -/

theorem troupe_of_cueAt (h : CueAt s t T u) : s.troupes.get? t = some T := by
  have issue := h.1
  unfold State.cueIssue? at issue
  split at issue
  · split at issue
    · obtain ⟨T', hT, he⟩ := Option.map_eq_some_iff.mp issue
      cases he
      exact hT
    · cases issue
  · cases issue

theorem prologue?_of_cueAt (h : CueAt s t T u) : s.prologue? = none := by
  have issue := h.1
  unfold State.cueIssue? at issue
  unfold State.prologue?
  split at issue
  next v hv =>
    split at issue
    next t' ht => rw [ht]
    next => cases issue
  next => cases issue

/-! ### Requests of the stream -/

theorem cueAsked_send (s : State) (t : Nat) (k : ReqKind) (w a l va : Nat) : (s.send k (.cue t) w a l va).cueAsked t = true := by
  refine Bool.or_eq_true _ _ ▸ .inl (List.any_eq_true.mpr ⟨_, Tab.mem_set s.requests s.nextId _, ?_⟩)
  exact beq_self_eq_true _

theorem cueAsked_enqueue (s : State) (t : Nat) {e : Atomic} (h : e.asker = .cue t) : (s.enqueue e).cueAsked t = true := by
  refine Bool.or_eq_true _ _ ▸ .inr (List.any_eq_true.mpr ⟨_, Tab.mem_set s.slices (s.home e.world (e.dpa / 128)) _, ?_⟩)
  refine List.any_eq_true.mpr ⟨_, List.mem_append_right _ (List.mem_singleton_self _), ?_⟩
  rw [h]
  exact beq_self_eq_true _

theorem cueAnswer_of_value (ht : s.troupes.get? t = some T) {x : Nat} (hx : T.cue.answers.get? 0 = some x) (hb : answerBad x = none) (va : Nat)
    (ask : Unit → State) (go : State → Nat → Out) : s.cueAnswer t u va ask go = go (s.cueForget t) x := by
  unfold State.cueAnswer
  rw [ht, Option.bind_some, hx]
  dsimp only
  rw [hb]

theorem cueAnswer_of_fault (ht : s.troupes.get? t = some T) {x : Nat} (hx : T.cue.answers.get? 0 = some x) {e r : Nat}
    (hb : answerBad x = some (e, r)) (va : Nat) (ask : Unit → State) (go : State → Nat → Out) :
    s.cueAnswer t u va ask go = .next ((s.cueForget t).raiseCue t u.group e r 0 va 0) := by
  unfold State.cueAnswer
  rw [ht, Option.bind_some, hx]
  dsimp only
  rw [hb]
  rfl

/-- A request that is not out yet goes out, and the stream waits for its answer. -/
theorem cueAnswer_of_unasked (ht : s.troupes.get? t = some T) (hn : T.cue.answers.get? 0 = none) (ha : s.cueAsked t = false) (va : Nat)
    {ask : Unit → State} (out : (ask ()).cueAsked t = true) (go : State → Nat → Out) :
    s.cueAnswer t u va ask go = .next ((ask ()).cueStall t [.answer 0]) := by
  unfold State.cueAnswer
  rw [ht, Option.bind_some, hn]
  simp only [ha, Bool.false_eq_true, if_false, out, if_true]

theorem cueStill_of_unsealed {L : Launch} {va : Nat} (h : s.sealState L.world L.tcid va = 0) (go : Unit → Out) :
    s.cueStill t u L T va go = go () := by
  unfold State.cueStill State.cueUnsealed
  rw [h]
  exact ite_self _

theorem cueStill_of_answer (L : Launch) {x : Nat} (hx : T.cue.answers.get? 0 = some x) (va : Nat) (go : Unit → Out) :
    s.cueStill t u L T va go = go () := by
  unfold State.cueStill
  rw [hx]
  exact if_pos rfl

theorem cueStill_of_sealed {L : Launch} {va : Nat} (h : s.sealState L.world L.tcid va = 1) (hn : T.cue.answers.get? 0 = none)
    (ha : s.cueAsked t = false) (go : Unit → Out) : s.cueStill t u L T va go = .next (s.raiseCue t u.group 0x2D 1 0 va 0) := by
  unfold State.cueStill State.cueUnsealed
  rw [h, hn, ha]
  rfl

/-! ### Accesses of the stream -/

theorem cueAccess_of_error {L : Launch} {k : Kind} {va n : Nat} {e : Nat × Nat} (h : s.laneAddr L k va n = .error e) (go : Nat → Out) :
    s.cueAccess t u L k va n go = .next (s.raiseCue t u.group e.1 e.2 0 va 0) := by
  unfold State.cueAccess State.cueAddr
  rw [h]
  rfl

theorem cueAccess_of_ok {L : Launch} {k : Kind} {va n dpa : Nat} (h : s.laneAddr L k va n = .ok dpa) (go : Nat → Out) :
    s.cueAccess t u L k va n go = go dpa := by
  unfold State.cueAccess State.cueAddr
  rw [h]

theorem cueReads_of_value {va dpa n l1 msc x : Nat} {s1 : State} (h : s.cueRead t T va dpa n (isSystem u.hints) l1 msc = .value s1 x)
    (go : State → Nat → Out) : s.cueReads t u T va dpa n l1 msc go = go (s1.cueForget t) x := by
  unfold State.cueReads
  rw [h]

theorem cueReads_of_wait {va dpa n l1 msc : Nat} {s1 : State} {ws : List Wake}
    (h : s.cueRead t T va dpa n (isSystem u.hints) l1 msc = .wait s1 ws) (go : State → Nat → Out) :
    s.cueReads t u T va dpa n l1 msc go = .next (s1.cueStall t ws) := by
  unfold State.cueReads
  rw [h]

theorem cueReads_of_fault {va dpa n l1 msc e r : Nat} {s1 : State} (h : s.cueRead t T va dpa n (isSystem u.hints) l1 msc = .fault s1 e r)
    (go : State → Nat → Out) : s.cueReads t u T va dpa n l1 msc go = .next ((s1.cueForget t).raiseCue t u.group e r 0 va 0) := by
  unfold State.cueReads
  rw [h]
  rfl

end

/-! ### Reads (11 R270, R272; 16 R387) -/

theorem exec_sld_of_cueAt {s : State} {t : Nat} {T : Troupe} {u : Issue} (hc : CueAt s t T u) (d : BitVec 9) (a : BitVec 8) (o h : BitVec 4) :
    exec (.sld d a o h) s = s.cueAccess t u (s.launchOf T) .load (cueTarget T u a o) 8 (fun dpa =>
      s.cueReads t u T (cueTarget T u a o) dpa 8 (cacheOf u.hints).1 (cacheOf u.hints).2 (fun s x =>
        (s.cueSample T (cueTarget T u a o) 0).cueWrite t u h.toNat d.toNat (BitVec.ofNat 64 x))) := by
  refine Eq.trans (b := execSld d a o h s) rfl ?_
  unfold execSld
  rw [prologue?_of_cueAt hc]
  exact cueDo_of_cueAt hc _

theorem cueLoads : Claims.CueLoads := by
  unfold Claims.CueLoads
  intro s d a o h
  refine ⟨fun t T u hc => ⟨fun e he => ?_, fun dpa hd => ⟨fun s1 x hr => ?_, fun s1 ws hr => ?_, fun s1 e r hr => ?_⟩⟩,
    fun l L u _ hp => ⟨fun s1 x hr => ?_, fun s1 ws hr => ?_, fun s1 e r hr => ?_⟩⟩
  · exact (exec_sld_of_cueAt hc d a o h).trans (cueAccess_of_error he _)
  · exact (exec_sld_of_cueAt hc d a o h).trans ((cueAccess_of_ok hd _).trans (cueReads_of_value hr _))
  · exact (exec_sld_of_cueAt hc d a o h).trans ((cueAccess_of_ok hd _).trans (cueReads_of_wait hr _))
  · exact (exec_sld_of_cueAt hc d a o h).trans ((cueAccess_of_ok hd _).trans (cueReads_of_fault hr _))
  all_goals
    refine Eq.trans (b := execSld d a o h s) rfl ?_
    unfold execSld
    rw [hp]
    dsimp only
    rw [hr]

section
variable {s : State} {t : Nat} {T : Troupe} {va a n l1 msc : Nat} {system : Bool}

/-- Does a cue read find its line in its core's L1? -/
def State.cueHit (s : State) (T : Troupe) (va a l1 : Nat) : Bool :=
  l1 != 3 && !s.live (s.launchOf T).world (s.launchOf T).tcid va a && !s.groupDown a &&
    (s.coreAt T.place.coreNo).hits (s.launchOf T).world (s.launchOf T).tcid va false

/-- Does one that does not go to the line's home, past the L1 or in a live range? -/
def State.cueAtHome (s : State) (T : Troupe) (va a l1 : Nat) : Bool :=
  s.live (s.launchOf T).world (s.launchOf T).tcid va a ||
    (2 ≤ l1 && (!isOutside a || (s.copies.get? (lineKey (s.launchOf T).world (a / 128))).isSome))

theorem cueRead_of_unverified (hf : s.far (s.launchOf T) system va a = false) (hu : s.anyUnverified (s.launchOf T).world [a / 128] = true) :
    s.cueRead t T va a n system l1 msc = .wait s [] :=
  (if_neg (Bool.eq_false_iff.mp hf)).trans (if_pos hu)

theorem cueRead_of_hit (hf : s.far (s.launchOf T) system va a = false) (hu : s.anyUnverified (s.launchOf T).world [a / 128] = false)
    (hh : s.cueHit T va a l1 = true) : s.cueRead t T va a n system l1 msc = .value s (s.seenNat (s.launchOf T).world a n) :=
  (if_neg (Bool.eq_false_iff.mp hf)).trans ((if_neg (Bool.eq_false_iff.mp hu)).trans (if_pos hh))

theorem cueRead_of_home (hf : s.far (s.launchOf T) system va a = false) (hu : s.anyUnverified (s.launchOf T).world [a / 128] = false)
    (hh : s.cueHit T va a l1 = false) (ha : s.cueAtHome T va a l1 = true) :
    s.cueRead t T va a n system l1 msc = s.cueHome (s.launchOf T).world a n msc :=
  (if_neg (Bool.eq_false_iff.mp hf)).trans ((if_neg (Bool.eq_false_iff.mp hu)).trans ((if_neg (Bool.eq_false_iff.mp hh)).trans (if_pos ha)))

theorem cueRead_of_answer (hf : s.far (s.launchOf T) system va a = true) {x : Nat} (hx : T.cue.answers.get? 0 = some x) :
    (answerBad x = none → s.cueRead t T va a n system l1 msc = .value s x) ∧
    (∀ e r, answerBad x = some (e, r) → s.cueRead t T va a n system l1 msc = .fault s e r) := by
  have target : s.cueRead t T va a n system l1 msc = _ := if_pos hf
  rw [target, hx]
  refine ⟨fun hb => ?_, fun e r hb => ?_⟩ <;> dsimp only <;> rw [hb]

theorem cueHit_iff : s.cueHit T va a l1 = true ↔ l1 ≠ 3 ∧ s.live (s.launchOf T).world (s.launchOf T).tcid va a = false ∧ s.groupDown a = false ∧
    (s.coreAt T.place.coreNo).hits (s.launchOf T).world (s.launchOf T).tcid va false = true := by
  simp [State.cueHit, and_assoc]

theorem cueAtHome_iff : s.cueAtHome T va a l1 = true ↔ s.live (s.launchOf T).world (s.launchOf T).tcid va a = true ∨
    (2 ≤ l1 ∧ (isOutside a = false ∨ (s.copies.get? (lineKey (s.launchOf T).world (a / 128))).isSome = true)) := by
  simp [State.cueAtHome]

end

theorem cueReadValue : Claims.CueReadValue := by
  unfold Claims.CueReadValue
  intro s t T va a n l1 msc system
  refine ⟨fun hf => ⟨fun hu => cueRead_of_unverified hf hu, fun hu => ⟨fun hit => ?_, fun hit home fine => ?_, fun hit home e fails => ?_⟩⟩,
    fun hf x hx => cueRead_of_answer hf hx⟩
  · exact cueRead_of_hit hf hu (cueHit_iff.mpr hit)
  · refine (cueRead_of_home hf hu (Bool.eq_false_iff.mpr (mt cueHit_iff.mp hit)) (cueAtHome_iff.mpr home)).trans ?_
    rw [State.cueHome, fine]
  · refine (cueRead_of_home hf hu (Bool.eq_false_iff.mpr (mt cueHit_iff.mp hit)) (cueAtHome_iff.mpr home)).trans ?_
    rw [State.cueHome, fails]

end Sys2Proof.Machine
end

section
/-! O33, continued: stores and atomics of the cue stream (11 R270, R271; 10 R225, R229). -/

namespace Sys2Proof.Machine

/-! ### The commit of a store at its target (10 R225, R229) -/

theorem runTab_leBytes (a n x : Nat) : ∃ rest, runTab a (leBytes (n + 1) x) = (a, BitVec.ofNat 8 x) :: rest :=
  ⟨_, by rw [leBytes, runTab, List.mapIdx_cons]; rfl⟩

section
variable {s : State} {w core a n x l1 msc : Nat}

theorem sstCommit_of_busy (hb : s.lineBusy w (a / 128) = true) : s.sstCommit w core (runTab a (leBytes (n + 1) x)) l1 msc = none := by
  obtain ⟨rest, bytes⟩ := runTab_leBytes a n x
  rw [bytes]
  exact if_pos hb

theorem sstCommit_of_down (hb : s.lineBusy w (a / 128) = false) (hd : s.linkDown w a = true) :
    s.sstCommit w core (runTab a (leBytes (n + 1) x)) l1 msc = some (.error 0x50) := by
  obtain ⟨rest, bytes⟩ := runTab_leBytes a n x
  rw [bytes]
  exact (if_neg (Bool.eq_false_iff.mp hb)).trans (if_pos hd)

theorem sstCommit_of_up (hb : s.lineBusy w (a / 128) = false) (hd : s.linkDown w a = false) :
    (s.ctl.poolc = false → s.sstCommit w core (runTab a (leBytes (n + 1) x)) l1 msc = some (.ok (s.expose w [a / 128]))) ∧
    (s.ctl.poolc = true →
      (∀ s', s.writeLine w (runTab a (leBytes (n + 1) x)) msc (if l1 < 2 then some core else none) = some (s', []) →
        s.sstCommit w core (runTab a (leBytes (n + 1) x)) l1 msc = some (.ok s')) ∧
      (∀ s' g e fs, s.writeLine w (runTab a (leBytes (n + 1) x)) msc (if l1 < 2 then some core else none) = some (s', (g, e) :: fs) →
        s.sstCommit w core (runTab a (leBytes (n + 1) x)) l1 msc = some (.error e))) := by
  obtain ⟨rest, bytes⟩ := runTab_leBytes a n x
  rw [bytes]
  have up : s.sstCommit w core ((a, BitVec.ofNat 8 x) :: rest) l1 msc = _ :=
    (if_neg (Bool.eq_false_iff.mp hb)).trans (if_neg (Bool.eq_false_iff.mp hd))
  refine ⟨fun hp => ?_, fun hp => ⟨fun s' hw => ?_, fun s' g e fs hw => ?_⟩⟩ <;> rw [up, hp]
  · rfl
  · rw [hw]
    rfl
  · rw [hw]
    rfl

end

/-! ### Stores (11 R270) -/

section
variable {s : State} {t : Nat} {T : Troupe} {u : Issue} {d : BitVec 9} {a : BitVec 8} {o h : BitVec 4} {dpa : Nat}

/-- The bytes of a cue store. -/
def cueBytes (T : Troupe) (d : BitVec 9) : List Byte := leBytes 8 (T.gets d.toNat).toNat

/-- The core whose L1 takes a cue store, unless its hint passes it by (11 Table 11-2). -/
def cueCore (T : Troupe) (u : Issue) : Option Nat := if (cacheOf u.hints).1 < 2 then some T.place.coreNo else none

theorem exec_sst_of_fault (hc : CueAt s t T u) {e : Nat × Nat} (he : s.laneAddr (s.launchOf T) .store (cueTarget T u a o) 8 = .error e) :
    exec (.sst d a o) s = .next (s.raiseCue t u.group e.1 e.2 0 (cueTarget T u a o) 0) :=
  (cueDo_of_cueAt hc _).trans (cueAccess_of_error he _)

theorem exec_sst_of_sealed (hc : CueAt s t T u) (hd : s.laneAddr (s.launchOf T) .store (cueTarget T u a o) 8 = .ok dpa)
    (hs : s.sealState (s.launchOf T).world (s.launchOf T).tcid (cueTarget T u a o) = 1) (hn : T.cue.answers.get? 0 = none)
    (ha : s.cueAsked t = false) : exec (.sst d a o) s = .next (s.raiseCue t u.group 0x2D 1 0 (cueTarget T u a o) 0) :=
  (cueDo_of_cueAt hc _).trans ((cueAccess_of_ok hd _).trans (cueStill_of_sealed hs hn ha _))

/-- How a store near its home goes on: with its line held back it waits, and it traps where a granule fails. -/
def State.sstWritten (s : State) (t : Nat) (T : Troupe) (u : Issue) (va line : Nat) : Option (State × List (Nat × Nat)) → Out
  | none => .next (s.cueStall t [.clear (s.launchOf T).world line])
  | some (s', []) => s'.cueNext t u
  | some (s', (_, e) :: _) => s'.cueTrap t u e 0 va 0

theorem exec_sst_near (hc : CueAt s t T u) (hd : s.laneAddr (s.launchOf T) .store (cueTarget T u a o) 8 = .ok dpa)
    (hs : s.sealState (s.launchOf T).world (s.launchOf T).tcid (cueTarget T u a o) = 0) (hf : s.atTarget (isSystem u.hints) dpa = false)
    (hk : s.contained (s.launchOf T).world dpa = false) :
    exec (.sst d a o) s = s.sstWritten t T u (cueTarget T u a o) (dpa / 128) ((s.cueSample T (cueTarget T u a o) 1).writeLine (s.launchOf T).world
      (runTab dpa (cueBytes T d)) (cacheOf u.hints).2 (cueCore T u)) := by
  refine (cueDo_of_cueAt hc _).trans ((cueAccess_of_ok hd _).trans ((cueStill_of_unsealed hs _).trans ?_))
  dsimp only
  rw [if_neg (Bool.eq_false_iff.mp hf), if_neg (Bool.eq_false_iff.mp hk)]
  rfl

/-- How a store at its target goes on once it has committed: it leaves, and waits for its acknowledgement (10 R229). -/
def State.sstCommitted (s : State) (t : Nat) (T : Troupe) (u : Issue) (bytes : List Byte) (va dpa : Nat) : Option (Except Nat State) → Out
  | none => .next (s.cueStall t [.clear (s.launchOf T).world (dpa / 128)])
  | some (.error e) => s.cueTrap t u e 0 va 0
  | some (.ok s') => .next ((s'.send (.write bytes) (.cue t) (s.launchOf T).world dpa T.launch).cueStall t [.answer 0])

theorem exec_sst_target (hc : CueAt s t T u) (hd : s.laneAddr (s.launchOf T) .store (cueTarget T u a o) 8 = .ok dpa)
    (hs : s.sealState (s.launchOf T).world (s.launchOf T).tcid (cueTarget T u a o) = 0) (hf : s.atTarget (isSystem u.hints) dpa = true)
    (hn : T.cue.answers.get? 0 = none) (ha : s.cueAsked t = false) :
    exec (.sst d a o) s = s.sstCommitted t T u (cueBytes T d) (cueTarget T u a o) dpa (s.sstCommit (s.launchOf T).world T.place.coreNo
      (runTab dpa (cueBytes T d)) (cacheOf u.hints).1 (cacheOf u.hints).2) := by
  have unasked : ¬ ((T.cue.answers.get? 0).isSome || s.cueAsked t) = true := by
    rw [hn, ha]
    decide
  exact (cueDo_of_cueAt hc _).trans ((cueAccess_of_ok hd _).trans ((cueStill_of_unsealed hs _).trans ((if_pos hf).trans (if_neg unasked))))

/-- A store at its target that has its acknowledgement goes on, or traps. -/
theorem exec_sst_answered (hc : CueAt s t T u) (hd : s.laneAddr (s.launchOf T) .store (cueTarget T u a o) 8 = .ok dpa)
    (hf : s.atTarget (isSystem u.hints) dpa = true) {y : Nat} (hy : T.cue.answers.get? 0 = some y) :
    exec (.sst d a o) s = s.cueAnswer t u (cueTarget T u a o) (fun _ => s) (fun s _ => (s.cueSample T (cueTarget T u a o) 1).cueNext t u) := by
  have answered : ((T.cue.answers.get? 0).isSome || s.cueAsked t) = true := by rw [hy]; rfl
  exact (cueDo_of_cueAt hc _).trans ((cueAccess_of_ok hd _).trans ((cueStill_of_answer _ hy _ _).trans ((if_pos hf).trans (if_pos answered))))

end

/-! ### Atomics (11 R271) -/

theorem nfld_zero_four (x : Nat) : nfld x 0 4 = x % 16 := by simp [nfld]

theorem bitAt_four (x : Nat) : bitAt x 4 = decide (x / 16 % 2 = 1) := Bool.eq_iff_iff.mpr (by simp [bitAt])

section
variable {s : State} {t : Nat} {T : Troupe} {u : Issue} {d : BitVec 9} {a : BitVec 8} {o h : BitVec 4} {dpa : Nat}

/-- The words of an atomic's register group. -/
def samoWord (T : Troupe) (d : BitVec 9) (k : Nat) : Nat := (T.gets (d.toNat + k)).toNat

/-- The operation of an atomic, by its control word. -/
def samoOp (T : Troupe) (d : BitVec 9) : Nat := samoWord T d 1 % 16

/-- Its width. -/
def samoWidth (T : Troupe) (d : BitVec 9) : Nat := if samoWord T d 1 / 16 % 2 = 1 then 4 else 8

/-- Its operands: what it compares with, and its value. -/
def samoArgs (T : Troupe) (d : BitVec 9) : Nat × Nat :=
  if samoOp T d = 9 then (samoWord T d 0 % 2 ^ (8 * samoWidth T d), samoWord T d 2 % 2 ^ (8 * samoWidth T d))
  else (0, samoWord T d 0 % 2 ^ (8 * samoWidth T d))

/-- A control word that no atomic has. -/
def samoMalformed (T : Troupe) (d : BitVec 9) : Bool :=
  decide (10 < samoOp T d) || samoWord T d 1 / 32 != 0 || (samoOp T d = 10 && samoWidth T d = 8) ||
    (samoOp T d = 9 && decide (T.uregs ≤ d.toNat + 2))

/-- An atomic goes out to its target or to its home's queue, where there is room. -/
def State.samoAsk (s : State) (t : Nat) (T : Troupe) (u : Issue) (d : BitVec 9) (va dpa : Nat) : State :=
  let L := s.launchOf T
  if s.far L (isSystem u.hints) va dpa then
    s.send (.atomic (samoOp T d) (samoWidth T d) (samoArgs T d).1 (samoArgs T d).2) (.cue t) L.world dpa T.launch va
  else if 128 ≤ s.queued (s.home L.world (dpa / 128)) || s.redsHeld s.drains (s.home L.world (dpa / 128)) then s
  else
    s.enqueue
      { seq := 0, asker := .cue t, world := L.world, tcid := L.tcid, va := va, dpa := dpa, op := samoOp T d, width := samoWidth T d
        cmp := (samoArgs T d).1, val := (samoArgs T d).2 }

/-- An atomic whose target does not take its operation traps; another is asked for, and takes its old value. -/
def State.samoGoes (s : State) (t : Nat) (T : Troupe) (u : Issue) (d : BitVec 9) (h : BitVec 4) (va dpa : Nat) : Option Nat → Out
  | some r => s.cueTrap t u 0x2A r va 0
  | none => s.cueAnswer t u va (fun _ => s.samoAsk t T u d va dpa) (fun s old =>
      (s.cueSample T va 2).cueWrite t u h.toNat d.toNat (BitVec.ofNat 64 old))

theorem exec_samo_of_cueAt (hc : CueAt s t T u) : exec (.samo d a o h) s =
    if samoMalformed T d then s.cueTrap t u 0x2A 3 (cueTarget T u a o) 0
    else s.cueAccess t u (s.launchOf T) .store (cueTarget T u a o) (samoWidth T d) (fun dpa =>
      s.cueStill t u (s.launchOf T) T (cueTarget T u a o) (fun _ => s.samoGoes t T u d h (cueTarget T u a o) dpa
        (if s.far (s.launchOf T) (isSystem u.hints) (cueTarget T u a o) dpa then farAtomicBad (samoOp T d) dpa else none))) := by
  refine (cueDo_of_cueAt hc _).trans ?_
  simp only [nfld_zero_four, bitAt_four, decide_eq_true_eq]
  rfl

theorem samoMalformed_iff : samoMalformed T d = true ↔ 10 < samoOp T d ∨ 32 ≤ samoWord T d 1 ∨ (samoOp T d = 10 ∧ samoWidth T d = 8) ∨
    (samoOp T d = 9 ∧ T.uregs ≤ d.toNat + 2) := by
  have high : samoWord T d 1 / 32 ≠ 0 ↔ 32 ≤ samoWord T d 1 := by omega
  simp only [samoMalformed, Bool.or_eq_true, Bool.and_eq_true, decide_eq_true_eq, bne_iff_ne, high, or_assoc]

theorem exec_samo_of_malformed (hc : CueAt s t T u) (hm : samoMalformed T d = true) :
    exec (.samo d a o h) s = .next (s.raiseCue t u.group 0x2A 3 0 (cueTarget T u a o) 0) :=
  (exec_samo_of_cueAt hc).trans (if_pos hm)

theorem exec_samo_of_ok (hc : CueAt s t T u) (hm : samoMalformed T d = false)
    (hd : s.laneAddr (s.launchOf T) .store (cueTarget T u a o) (samoWidth T d) = .ok dpa)
    (hs : s.sealState (s.launchOf T).world (s.launchOf T).tcid (cueTarget T u a o) = 0) :
    exec (.samo d a o h) s = s.samoGoes t T u d h (cueTarget T u a o) dpa
      (if s.far (s.launchOf T) (isSystem u.hints) (cueTarget T u a o) dpa then farAtomicBad (samoOp T d) dpa else none) :=
  (exec_samo_of_cueAt hc).trans ((if_neg (Bool.eq_false_iff.mp hm)).trans ((cueAccess_of_ok hd _).trans (cueStill_of_unsealed hs _)))

theorem samoAsk_of_far {va : Nat} (hf : s.far (s.launchOf T) (isSystem u.hints) va dpa = true) : s.samoAsk t T u d va dpa =
    s.send (.atomic (samoOp T d) (samoWidth T d) (samoArgs T d).1 (samoArgs T d).2) (.cue t) (s.launchOf T).world dpa T.launch va := if_pos hf

theorem samoAsk_of_near {va : Nat} (hf : s.far (s.launchOf T) (isSystem u.hints) va dpa = false)
    (hq : s.queued (s.home (s.launchOf T).world (dpa / 128)) < 128) (hr : s.redsHeld s.drains (s.home (s.launchOf T).world (dpa / 128)) = false) :
    s.samoAsk t T u d va dpa = s.enqueue
      { seq := 0, asker := .cue t, world := (s.launchOf T).world, tcid := (s.launchOf T).tcid, va := va, dpa := dpa, op := samoOp T d
        width := samoWidth T d, cmp := (samoArgs T d).1, val := (samoArgs T d).2 } := by
  refine (if_neg (Bool.eq_false_iff.mp hf)).trans (if_neg ?_)
  rw [hr, Bool.or_false, decide_eq_true_eq]
  exact Nat.not_le.mpr hq

theorem samoGoes_of_unasked (ht : s.troupes.get? t = some T) (hn : T.cue.answers.get? 0 = none) (ha : s.cueAsked t = false) {va : Nat}
    {s' : State} (ask : s.samoAsk t T u d va dpa = s') (out : s'.cueAsked t = true) :
    s.samoGoes t T u d h va dpa none = .next (s'.cueStall t [.answer 0]) := by
  subst ask
  rw [State.samoGoes]
  exact cueAnswer_of_unasked ht hn ha va out _

theorem samoGoes_of_value (ht : s.troupes.get? t = some T) {va old : Nat} (hx : T.cue.answers.get? 0 = some old) (hb : answerBad old = none) :
    s.samoGoes t T u d h va dpa none = .next (((s.cueForget t).cueSample T va 2).cueTo t (u.word + 4)
      (fun T => T.write h.toNat d.toNat (BitVec.ofNat 64 old))) := by
  rw [State.samoGoes]
  exact cueAnswer_of_value ht hx hb _ _ _

end

theorem cueStoresAndAtomics : Claims.CueStoresAndAtomics := by
  unfold Claims.CueStoresAndAtomics
  intro s t T u d a o h hc
  have ht := troupe_of_cueAt hc
  refine ⟨fun e he => exec_sst_of_fault hc he, fun dpa hd => ⟨fun hs hu => exec_sst_of_sealed hc hd hs hu.1 hu.2, fun hs hf hk => ?near,
    fun hs hf hu => ?target, fun hf y hy => ⟨fun hb => ?_, fun e r hb => ?_⟩⟩, fun hm => exec_samo_of_malformed hc (samoMalformed_iff.mpr hm),
    fun hm dpa hd hs => ?samo⟩
  case near =>
    have near := exec_sst_near (d := d) hc hd hs hf hk
    refine ⟨fun s' hw => ?_, fun s' g e fs hw => ?_, fun hw => ?_⟩
    all_goals exact near.trans (congrArg _ hw)
  case target =>
    have target := exec_sst_target (d := d) hc hd hs hf hu.1 hu.2
    refine ⟨fun hb => ?_, fun hb hl => ?_, fun hb hl => ⟨fun hp => ?_, fun hp => ⟨fun s' hw => ?_, fun s' g e fs hw => ?_⟩⟩⟩
    · exact target.trans (congrArg _ (sstCommit_of_busy hb))
    · exact target.trans (congrArg _ (sstCommit_of_down hb hl))
    · exact target.trans (congrArg _ ((sstCommit_of_up hb hl).1 hp))
    · exact target.trans (congrArg _ (((sstCommit_of_up hb hl).2 hp).1 s' hw))
    · exact target.trans (congrArg _ (((sstCommit_of_up hb hl).2 hp).2 s' g e fs hw))
  · exact (exec_sst_answered hc hd hf hy).trans (cueAnswer_of_value ht hy hb _ _ _)
  · exact (exec_sst_answered hc hd hf hy).trans (cueAnswer_of_fault ht hy hb _ _ _)
  case samo =>
    have goes := exec_samo_of_ok (h := h) hc (Bool.eq_false_iff.mpr (mt samoMalformed_iff.mp hm)) hd hs
    refine ⟨fun hf r hr => ?_, fun hf hu hq hr => ?_, fun hf hr hu => ?_, fun old hr hx hb => ?_⟩
    · exact goes.trans (congrArg _ ((if_pos hf).trans hr))
    · exact (goes.trans (congrArg _ (if_neg (Bool.eq_false_iff.mp hf)))).trans
        (samoGoes_of_unasked ht hu.1 hu.2 (samoAsk_of_near hf hq hr) (cueAsked_enqueue s t rfl))
    · exact (goes.trans (congrArg _ ((if_pos hf).trans hr))).trans
        (samoGoes_of_unasked ht hu.1 hu.2 (samoAsk_of_far hf) (cueAsked_send s t _ _ _ _ _))
    · refine (goes.trans (congrArg _ (?_ : _ = none))).trans (samoGoes_of_value ht hx hb)
      split
      next hf => exact hr hf
      next => rfl

end Sys2Proof.Machine
end

section
/-! O33, concluded: the fence, the wait and the seal of the cue stream (11 R255, R257, R267). -/

namespace Sys2Proof.Machine

section
variable {s : State} {t : Nat} {T : Troupe} {u : Issue} {d : BitVec 9} {a b : BitVec 8} {o : BitVec 4}

/-! ### Waits (11 R255) -/

/-- The control word of a wait: the word to compare with, the condition and the place. -/
def swaitWord (T : Troupe) (d : BitVec 9) : Nat := (T.gets d.toNat).toNat

/-- The condition that it names. -/
def swaitCond (T : Troupe) (d : BitVec 9) : Nat := nfld (swaitWord T d) 32 3

theorem swaitCond_eq : swaitCond T d = swaitWord T d / 2 ^ 32 % 8 := rfl

/-- A control word that no wait has. -/
def swaitMalformed (T : Troupe) (d : BitVec 9) : Bool := swaitWord T d / 2 ^ 36 != 0 || swaitCond T d == 7

/-- Does a word meet the condition of a wait? -/
def swaitMeets (T : Troupe) (d : BitVec 9) (x : Nat) : Bool :=
  waitCond (swaitCond T d) (BitVec.ofNat 32 x) (BitVec.ofNat 32 (swaitWord T d))

theorem swaitMalformed_iff : swaitMalformed T d = true ↔ 2 ^ 36 ≤ swaitWord T d ∨ swaitWord T d / 2 ^ 32 % 8 = 7 := by
  have high : swaitWord T d / 2 ^ 36 ≠ 0 ↔ 2 ^ 36 ≤ swaitWord T d := by omega
  simp only [swaitMalformed, Bool.or_eq_true, bne_iff_ne, beq_iff_eq, high, swaitCond_eq]

/-- A wait on a word in scratchpad goes on or waits. -/
def State.swaitPad (s : State) (t : Nat) (T : Troupe) (u : Issue) (d : BitVec 9) (va : Nat) : Except Nat (Nat × Nat) → Out
  | .error r => s.cueTrap t u 0x28 r va 0
  | .ok (x, off) =>
    if s.lineFull x off && swaitMeets T d (leNat (s.spadBytes x off 4)) then s.cueNext t u
    else .next (s.cueStall t [.pad x off (swaitCond T d) (BitVec.ofNat 32 (swaitWord T d))])

/-- A wait on a word in memory that has been read goes on, or looks again later. -/
def State.swaitRead (s s' : State) (t : Nat) (T : Troupe) (u : Issue) (d : BitVec 9) (va dpa x : Nat) : Out :=
  let far := s.far (s.launchOf T) (isSystem u.hints) va dpa
  let s1 := if far then s' else s'.cueSample T va 0
  if swaitMeets T d x then s1.cueNext t u
  else .next (s1.cueStall t (if far then [] else [.word dpa (swaitCond T d) (BitVec.ofNat 32 (swaitWord T d))]))

theorem exec_swait_of_cueAt (hc : CueAt s t T u) : exec (.swait d a o) s =
    if swaitMalformed T d then s.cueTrap t u 0x61 0 (cueTarget T u a o) 0
    else if bitAt (swaitWord T d) 35 then
      if cueTarget T u a o / 2 ^ 32 != 0 then s.cueTrap t u 0x28 2 (cueTarget T u a o) 0
      else if cueTarget T u a o % 4 != 0 then s.cueTrap t u 0x29 0 (cueTarget T u a o) 1
      else s.swaitPad t T u d (cueTarget T u a o) (s.spadAt t T (cueTarget T u a o) 4)
    else s.cueAccess t u (s.launchOf T) .load (cueTarget T u a o) 4 (fun dpa =>
      s.cueReads t u T (cueTarget T u a o) dpa 4 2 0 (fun s' x => s.swaitRead s' t T u d (cueTarget T u a o) dpa x)) := by
  refine (cueDo_of_cueAt hc _).trans ?_
  rfl

theorem exec_swait_of_malformed (hc : CueAt s t T u) (hm : swaitMalformed T d = true) :
    exec (.swait d a o) s = .next (s.raiseCue t u.group 0x61 0 0 (cueTarget T u a o) 0) :=
  (exec_swait_of_cueAt hc).trans (if_pos hm)

theorem exec_swait_pad (hc : CueAt s t T u) (hm : swaitMalformed T d = false) (hp : swaitWord T d / 2 ^ 35 % 2 = 1)
    (hv : cueTarget T u a o < 2 ^ 32) (ha : cueTarget T u a o % 4 = 0) {p : Nat × Nat} (hs : s.spadAt t T (cueTarget T u a o) 4 = .ok p) :
    exec (.swait d a o) s =
      if s.lineFull p.1 p.2 && swaitMeets T d (leNat (s.spadBytes p.1 p.2 4)) then s.cueNext t u
      else .next (s.cueStall t [.pad p.1 p.2 (swaitCond T d) (BitVec.ofNat 32 (swaitWord T d))]) := by
  have low : cueTarget T u a o / 2 ^ 32 = 0 := Nat.div_eq_of_lt hv
  have pad : bitAt (swaitWord T d) 35 = true := beq_iff_eq.mpr hp
  refine (exec_swait_of_cueAt hc).trans ?_
  rw [hm, if_neg Bool.false_ne_true, if_pos pad, low, ha, hs]
  rfl

theorem exec_swait_mem (hc : CueAt s t T u) (hm : swaitMalformed T d = false) (hp : swaitWord T d / 2 ^ 35 % 2 = 0) {dpa x : Nat} {s' : State}
    (hd : s.laneAddr (s.launchOf T) .load (cueTarget T u a o) 4 = .ok dpa)
    (hr : s.cueRead t T (cueTarget T u a o) dpa 4 (isSystem u.hints) 2 0 = .value s' x) :
    exec (.swait d a o) s = s.swaitRead (s'.cueForget t) t T u d (cueTarget T u a o) dpa x := by
  have memory : ¬ bitAt (swaitWord T d) 35 = true := by
    rw [bitAt, hp]
    decide
  exact (exec_swait_of_cueAt hc).trans ((if_neg (Bool.eq_false_iff.mp hm)).trans ((if_neg memory).trans
    ((cueAccess_of_ok hd _).trans (cueReads_of_value hr _))))

/-! ### Seals (11 R267) -/

theorem withSeals_of_drained (h : s.drains = []) : s.withSeals = s := by
  rw [State.withSeals, h]
  rfl

theorem sealOr_of_ok {w tcid l : Nat} {e : Nat × Nat} {s' : State} (h : s.sealNow w tcid l e.1 e.2 = .ok s') : s.sealOr w tcid l e = s' := by
  unfold State.sealOr
  rw [h]

/-- An aligned range that the stream may write is sealed or refused, behind the committed seals. -/
theorem exec_sseal_of_ok (hc : CueAt s t T u) (hb : (T.gets a.toNat).toNat % 128 = 0) (hl : (T.gets b.toNat).toNat % 128 = 0)
    (hs : (T.gets b.toNat).toNat < 2 ^ 32)
    (hr : s.sealRangeBad (s.launchOf T) (T.gets a.toNat).toNat (max 1 (T.gets b.toNat).toNat) = none) :
    (∀ r, s.withSeals.sealNow (s.launchOf T).world (s.launchOf T).tcid T.launch (T.gets a.toNat).toNat (T.gets b.toNat).toNat = .error r →
      exec (.sseal a b) s = .next (s.raiseCue t u.group 0x2D r 0 (T.gets a.toNat).toNat 0)) ∧
    (∀ s', s.withSeals.sealNow (s.launchOf T).world (s.launchOf T).tcid T.launch (T.gets a.toNat).toNat (T.gets b.toNat).toNat = .ok s' →
      exec (.sseal a b) s = .next ((s.sealOr (s.launchOf T).world (s.launchOf T).tcid T.launch
        ((T.gets a.toNat).toNat, (T.gets b.toNat).toNat)).cueTo t (u.word + 4) Troupe.tick)) := by
  have aligned : ¬ ((T.gets a.toNat).toNat % 128 != 0 || (T.gets b.toNat).toNat % 128 != 0 || (T.gets b.toNat).toNat / 2 ^ 32 != 0) = true := by
    rw [hb, hl, Nat.div_eq_of_lt hs]
    decide
  have checked : exec (.sseal a b) s = _ := (cueDo_of_cueAt hc _).trans (if_neg aligned)
  rw [hr] at checked
  refine ⟨fun r hn => ?_, fun s' hn => ?_⟩ <;> rw [hn] at checked <;> exact checked

theorem exec_sseal_of_unaligned (hc : CueAt s t T u)
    (h : (T.gets a.toNat).toNat % 128 ≠ 0 ∨ (T.gets b.toNat).toNat % 128 ≠ 0 ∨ 2 ^ 32 ≤ (T.gets b.toNat).toNat) :
    exec (.sseal a b) s = .next (s.raiseCue t u.group 0x2D 3 0 (T.gets a.toNat).toNat 0) := by
  have high : (T.gets b.toNat).toNat / 2 ^ 32 ≠ 0 ↔ 2 ^ 32 ≤ (T.gets b.toNat).toNat := by omega
  refine (cueDo_of_cueAt hc _).trans (if_pos ?_)
  simpa only [Bool.or_eq_true, bne_iff_ne, high, or_assoc] using h

/-! ### Fences (11 R257) -/

theorem exec_sfence_of_cueAt (hc : CueAt s t T u) :
    exec .sfence s = if isSystem u.hints && s.cueAsked t then .next (s.cueStall t [.acked]) else s.cueNext t u :=
  cueDo_of_cueAt hc _

end

theorem cueSynchronisation : Claims.CueSynchronisation := by
  unfold Claims.CueSynchronisation
  intro s t T u d a b o hc
  refine ⟨fun hf => ?_, fun hs ha => ?_, fun hm => exec_swait_of_malformed hc (swaitMalformed_iff.mpr hm),
    fun hm hp hv ha p hs => ⟨fun hl hx => ?_, fun hx => ?_⟩, fun hm hp dpa s' x hd hr => ?_, exec_sseal_of_unaligned hc,
    fun hb hl hs hr => ⟨(exec_sseal_of_ok hc hb hl hs hr).1, (exec_sseal_of_ok hc hb hl hs hr).2, fun hn s' hk => ?_⟩⟩
  · refine (exec_sfence_of_cueAt hc).trans (if_neg ?_)
    rw [Bool.and_eq_true]
    rintro ⟨system, asked⟩
    exact hf.elim (Bool.eq_false_iff.mp · system) (Bool.eq_false_iff.mp · asked)
  · refine (exec_sfence_of_cueAt hc).trans (if_pos ?_)
    rw [hs, ha]
    rfl
  · refine (exec_swait_pad hc (Bool.eq_false_iff.mpr (mt swaitMalformed_iff.mp hm)) hp hv ha hs).trans (if_pos ?_)
    exact Bool.and_eq_true _ _ ▸ ⟨hl, hx⟩
  · refine (exec_swait_pad hc (Bool.eq_false_iff.mpr (mt swaitMalformed_iff.mp hm)) hp hv ha hs).trans (if_neg ?_)
    rw [Bool.and_eq_true]
    rintro ⟨full, met⟩
    exact hx.elim (Bool.eq_false_iff.mp · full) (Bool.eq_false_iff.mp · met)
  · refine (exec_swait_mem hc (Bool.eq_false_iff.mpr (mt swaitMalformed_iff.mp hm)) hp hd hr).trans ?_
    exact (apply_ite Host.Outcome.next _ _ _).symm
  · have sealed := sealOr_of_ok (e := ((T.gets a.toNat).toNat, (T.gets b.toNat).toNat)) hk
    refine ((exec_sseal_of_ok hc hb hl hs hr).2 s' ?_).trans (by rw [sealed])
    rw [withSeals_of_drained hn]
    exact hk

/-- Settles O33: the reads of the stream and their values, its stores and atomics, its fence, wait and seal. -/
theorem cueMemory : Obligations.CueMemory := ⟨cueLoads, cueReadValue, cueStoresAndAtomics, cueSynchronisation⟩

end Sys2Proof.Machine
end

section
/-! O11: rounding (12 R274, R280, Table 12-2) and the generator (12 R285, R287; 14 R336). First a rounding to coarser units by the quotient and
the remainder, then the value of a code, which stands on the grid of its format, then the two instructions. -/

namespace Sys2Proof.Machine

/-! ### Rounding to units (12 Table 12-2) -/

section
variable {mode m k : Nat} {neg : Bool} {g : Word} {e eu : Int}

theorem roundUnits_of_le (h : eu ≤ e) : roundUnits mode neg g m e eu = m * 2 ^ (e - eu).toNat := if_pos h

theorem roundUnits_coarser_cases (hk : 0 < k) :
    roundUnits mode neg g m e (e + k) = m / 2 ^ k ∨ roundUnits mode neg g m e (e + k) = m / 2 ^ k + 1 := by
  have coarser : ¬ e + k ≤ e := by omega
  have shift : (e + k - e).toNat = k := by omega
  rw [roundUnits, if_neg coarser, shift]
  exact (ite_eq_or_eq _ _ _).symm

theorem roundUnits_nearest (hk : 0 < k) :
    roundUnits 0 neg g m e (e + k) =
      if 2 ^ k < 2 * (m % 2 ^ k) ∨ 2 * (m % 2 ^ k) = 2 ^ k ∧ m / 2 ^ k % 2 = 1 then m / 2 ^ k + 1 else m / 2 ^ k := by
  have coarser : ¬ e + k ≤ e := by omega
  simp [roundUnits, coarser]

theorem roundUnits_towardZero (hk : 0 < k) : roundUnits 1 neg g m e (e + k) = m / 2 ^ k := by
  have coarser : ¬ e + k ≤ e := by omega
  simp [roundUnits, coarser]

/-- Modes 2 and 3 go away from zero on the side of their own infinity. -/
theorem roundUnits_directed (hk : 0 < k) (hm : mode = 2 ∨ mode = 3) :
    roundUnits mode neg g m e (e + k) =
      if m % 2 ^ k ≠ 0 ∧ neg = decide (mode = 3) then m / 2 ^ k + 1 else m / 2 ^ k := by
  have coarser : ¬ e + k ≤ e := by omega
  obtain rfl | rfl := hm <;> simp [roundUnits, coarser]

end

theorem roundingModes : Claims.RoundingModes := by
  intro neg g m k e hk t
  have split : m = m / 2 ^ k * 2 ^ k + m % 2 ^ k := (Nat.div_add_mod' m (2 ^ k)).symm
  have small : m % 2 ^ k < 2 ^ k := Nat.mod_lt _ (Nat.two_pow_pos k)
  have above : (m / 2 ^ k + 1) * 2 ^ k = m / 2 ^ k * 2 ^ k + 2 ^ k := Nat.succ_mul _ _
  refine ⟨?_, ?_, ?_, fun mode hmode => ?_, roundUnits_coarser_cases hk⟩
  · simp only [t, roundUnits_nearest hk]
    split_ifs <;> omega
  · simp only [t, roundUnits_nearest hk]
    split_ifs <;> omega
  · simp only [t, roundUnits_towardZero hk]
    omega
  · by_cases away : neg = decide (mode = 3)
    · simp only [t, roundUnits_directed hk hmode, if_pos away, and_iff_left away]
      split_ifs <;> omega
    · simp only [t, roundUnits_directed hk hmode, away, and_false, if_false]
      omega

/-! ### Values of codes (12 R274, R280) -/

section
variable {F : Fmt} {mode m code : Nat} {sat neg : Bool} {g : Word} {e : Int}

/-- A magnitude that stands on the grid of its format, and not above the largest, is its own rounding. -/
theorem roundNum_of_grid (he : max F.low ((Nat.log2 m : Int) + e - F.fbits) = e) (ht : m + (e - F.low).toNat * 2 ^ F.fbits ≤ F.top) :
    F.roundNum mode sat g neg m e = (if neg then F.sign else 0) + (m + (e - F.low).toNat * 2 ^ F.fbits) := by
  simp only [Fmt.roundNum, he, roundUnits_of_le le_rfl, sub_self, Int.toNat_zero, pow_zero, mul_one]
  exact if_neg (Nat.not_lt.mpr ht)

/-- A code is its sign bit beside its magnitude. -/
theorem sign_add_magnitude (h : code < 2 ^ F.bits) :
    (if bitAt code (F.ebits + F.fbits) = true then F.sign else 0) + code % F.sign = code := by
  have split : code / F.sign * F.sign + code % F.sign = code := Nat.div_add_mod' code F.sign
  have bit : code / F.sign < 2 := Nat.div_lt_of_lt_mul (by rwa [Fmt.sign, ← pow_succ])
  change (if (code / F.sign % 2 == 1) = true then F.sign else 0) + _ = _
  rw [Nat.mod_eq_of_lt bit]
  obtain zero | one := Nat.le_one_iff_eq_zero_or_eq_one.mp (Nat.le_of_lt_succ bit)
  · rw [zero] at split ⊢
    simpa using split
  · rw [one] at split ⊢
    simpa using split

/-- A code of a finite value lies on the grid: with its exponent field 0 on the subnormal spacing, else with the leading bit that the code
leaves out. -/
theorem value_eq_num (h : F.value code = .num neg m e) :
    code % F.sign ≤ F.top ∧ neg = bitAt code (F.ebits + F.fbits) ∧
      ((e = F.low ∧ m = code % F.sign ∧ m < 2 ^ F.fbits) ∨
        ∃ E : Nat, e = F.low + E ∧ 2 ^ F.fbits ≤ m ∧ m < 2 ^ (F.fbits + 1) ∧ m + E * 2 ^ F.fbits = code % F.sign) := by
  have split := Nat.div_add_mod' (code % F.sign) (2 ^ F.fbits)
  have small : code % F.sign % 2 ^ F.fbits < 2 ^ F.fbits := Nat.mod_lt _ (Nat.two_pow_pos _)
  unfold Fmt.value at h
  simp only at h
  split_ifs at h with big infinite zero
  · obtain ⟨rfl, rfl, rfl⟩ := Fp.num.inj h
    rw [zero] at split
    exact ⟨by omega, rfl, .inl ⟨rfl, by omega, small⟩⟩
  · obtain ⟨rfl, rfl, rfl⟩ := Fp.num.inj h
    obtain ⟨E, hE⟩ := Nat.exists_eq_succ_of_ne_zero zero
    rw [hE, Nat.succ_mul] at split
    exact ⟨by omega, rfl, .inr ⟨E, by rw [hE]; push_cast; ring, by omega, by rw [pow_succ]; omega, by omega⟩⟩

/-- In every format, rounding the value of a code gives the code. -/
theorem round_value (hc : code < 2 ^ F.bits) (hv : F.value code = .num neg m e) : F.round mode sat g (.num neg m e) = code := by
  obtain ⟨top, rfl, grid⟩ := value_eq_num hv
  refine Eq.trans ?_ (sign_add_magnitude hc)
  rw [Fmt.round]
  by_cases hm : m = 0
  · have : code % F.sign = 0 := by
      obtain ⟨-, rfl, -⟩ | ⟨E, -, lead, -⟩ := grid
      · exact hm
      · have := Nat.two_pow_pos F.fbits
        omega
    rw [if_pos hm, this, Nat.add_zero]
  · rw [if_neg hm]
    obtain ⟨rfl, hmag, small⟩ | ⟨E, rfl, lead, lt, hmag⟩ := grid
    · have log : Nat.log2 m < F.fbits := (Nat.log2_lt hm).mpr small
      rw [roundNum_of_grid (by omega) (by simpa [hmag] using top)]
      simp [hmag]
    · have log : Nat.log2 m = F.fbits := (Nat.log2_eq_iff hm).mpr ⟨lead, lt⟩
      have exponent : (F.low + E - F.low).toNat = E := by omega
      rw [roundNum_of_grid (by omega) (by rw [exponent]; omega), exponent, hmag]

end

theorem exactResultsUnchanged : Claims.ExactResultsUnchanged :=
  fun _ _ _ _ _ _ _ _ _ hc hv => round_value hc hv

/-! ### The generator (12 R285, R287; 14 R336) -/

theorem seedOf_eq (x : Word) (n : Nat) :
    seedOf x n = if x + 0x9E3779B9 * BitVec.ofNat 32 (n + 1) = 0 then 1 else x + 0x9E3779B9 * BitVec.ofNat 32 (n + 1) := by
  have wraps : BitVec.ofNat 32 (x.toNat + 0x9E3779B9 * (n + 1)) = x + 0x9E3779B9 * BitVec.ofNat 32 (n + 1) := by
    rw [BitVec.ofNat_add, BitVec.ofNat_toNat, BitVec.setWidth_eq, BitVec.ofNat_mul]
    rfl
  rw [seedOf, wraps]

theorem generator : Claims.Generator := by
  intro s c d a g step
  refine ⟨fun h => ?_, fun h => ?_⟩
  · exact completes_of_vecOp h (fun c j => one d (c.random j 0)) (fun c j th => { th with gen := c.random j 0 }) _
      (fun _ => List.nodup_singleton _) (fun _ _ => rfl) rfl
  · refine completes_of_vecOp h (fun _ _ => [])
      (fun c j th => { th with gen := seedOf (c.rd j a) (globalIndex c.T (s.launchOf c.T).desc.troupes c.k j) }) _
      (fun _ => List.nodup_nil) (fun j _ => ?_) rfl
    rw [seedOf_eq]

/-- Settles O11: a rounding by quotient and remainder, the value of a code by the grid of its format, and the generator by its step. -/
theorem roundingIsCorrect : Obligations.RoundingIsCorrect := ⟨roundingModes, exactResultsUnchanged, generator⟩

end Sys2Proof.Machine
end

section
/-! O10: the series of exp (12 R288). Each of its terms is rounded down, so each loses a part of a unit; the number of terms has no bound that
holds at every precision, and so neither has what they lose together. At the argument 2 the terms of index `2 ^ i` lose half a unit each where
`2 ^ (p + 2)` leaves 1 modulo the odd part of every factorial that is met. -/

namespace Sys2Proof.Machine

open Finset
open scoped Nat

/-! ### The terms of exp 2 -/

/-- The term of index `k` of exp 2 over `2 ^ -p`, rounded down. -/
def expTwoTerm (p k : ℕ) : ℕ := 2 ^ (p + k) / k !

theorem expTwoTerm_step {p k t : ℕ} (ht : t ≤ expTwoTerm p k) :
    t * 2 ^ (p + 1) / 2 ^ p / (k + 1) ≤ expTwoTerm p (k + 1) := by
  have double : t * 2 ^ (p + 1) / 2 ^ p = t * 2 := by
    rw [pow_succ', ← mul_assoc, Nat.mul_div_cancel _ (Nat.two_pow_pos p)]
  have scaled : t * 2 * k ! ≤ 2 ^ (p + (k + 1)) := by
    rw [← add_assoc, pow_succ, mul_right_comm]
    exact Nat.mul_le_mul_right 2 ((Nat.le_div_iff_mul_le k.factorial_pos).mp ht)
  rw [double, expTwoTerm, Nat.le_div_iff_mul_le (k + 1).factorial_pos, Nat.factorial_succ, ← mul_assoc]
  exact (Nat.mul_le_mul_right _ (Nat.div_mul_le_self _ _)).trans scaled

/-- The model's series at 2 does not exceed the sum of the exact terms, each rounded down. -/
theorem expTerms_two_le_sum (p : ℕ) :
    ∀ {n k t : ℕ}, t ≤ expTwoTerm p k → expTerms p (2 ^ (p + 1)) n k t ≤ ∑ i ∈ range n, expTwoTerm p (k + i)
  | 0, _, _, _ => le_rfl
  | n + 1, k, t, ht => by
    rw [expTerms, sum_range_succ', add_comm]
    exact add_le_add ((expTerms_two_le_sum p (expTwoTerm_step ht)).trans_eq
      (sum_congr rfl fun i _ => by rw [add_assoc, add_comm 1 i])) ht

/-! ### What a term loses -/

/-- What rounding down takes from the term of index `k`. -/
noncomputable def expTwoLoss (p k : ℕ) : ℝ := 2 ^ p * (2 ^ k / (k ! : ℝ)) - expTwoTerm p k

theorem expTwoLoss_eq (p k : ℕ) : expTwoLoss p k = ((2 ^ (p + k) % k ! : ℕ) : ℝ) / (k ! : ℝ) := by
  have split : ((2 : ℝ) ^ (p + k)) = k ! * expTwoTerm p k + ((2 ^ (p + k) % k ! : ℕ) : ℝ) := by
    exact_mod_cast (Nat.div_add_mod (2 ^ (p + k)) (k !)).symm
  have pos : (k ! : ℝ) ≠ 0 := Nat.cast_ne_zero.mpr k.factorial_ne_zero
  rw [expTwoLoss, mul_div_assoc', ← pow_add, split]
  field_simp
  ring

theorem expTwoLoss_nonneg (p k : ℕ) : 0 ≤ expTwoLoss p k := by
  rw [expTwoLoss_eq]
  positivity

/-- The odd part of the factorial of `k`. -/
def oddFactorial (k : ℕ) : ℕ := ordCompl[2] k !

theorem odd_oddFactorial (k : ℕ) : Odd (oddFactorial k) :=
  Nat.odd_iff.mpr (Nat.two_dvd_ne_zero.mp (Nat.not_dvd_ordCompl Nat.prime_two k.factorial_ne_zero))

/-- By Legendre's formula the factorial of a power of two has one factor 2 less than its argument. -/
theorem factorial_two_pow (i : ℕ) : (2 ^ i)! = 2 ^ (2 ^ i - 1) * oddFactorial (2 ^ i) := by
  have legendre : padicValNat 2 (2 ^ i)! = 2 ^ i - 1 := by
    have digits : Nat.digits 2 (2 ^ i) = List.replicate i 0 ++ [1] := by
      simpa using Nat.digits_base_pow_mul (k := i) one_lt_two one_pos
    have := sub_one_mul_padicValNat_factorial (p := 2) (2 ^ i)
    rw [digits] at this
    simpa using this
  rw [oddFactorial, ← legendre, ← Nat.factorization_def _ Nat.prime_two, Nat.ordProj_mul_ordCompl_eq_self]

theorem one_lt_oddFactorial {i : ℕ} (hi : 2 ≤ i) : 1 < oddFactorial (2 ^ i) := by
  have three : 3 ∣ 2 ^ (2 ^ i - 1) * oddFactorial (2 ^ i) := by
    rw [← factorial_two_pow]
    exact Nat.dvd_factorial three_pos ((by norm_num : 3 ≤ 2 ^ 2).trans (Nat.pow_le_pow_right two_pos hi))
  have coprime : Nat.Coprime 3 (2 ^ (2 ^ i - 1)) := Nat.Coprime.pow_right _ (by norm_num)
  have := Nat.le_of_dvd (odd_oddFactorial _).pos (coprime.dvd_of_dvd_mul_left three)
  omega

/-- A number whose double leaves 1 modulo an odd `o` itself leaves more than half of `o`. -/
theorem half_le_mod {x o : ℕ} (h : 2 * x % o = 1) : o ≤ 2 * (x % o) := by
  by_contra small
  have : 2 * (x % o) % o = 1 := by rwa [Nat.mul_mod_mod]
  rw [Nat.mod_eq_of_lt (by omega)] at this
  omega

theorem half_le_expTwoLoss {p i : ℕ} (h : 2 ^ (p + 2) % oddFactorial (2 ^ i) = 1) : 1 / 2 ≤ expTwoLoss p (2 ^ i) := by
  have exponent : p + 2 ^ i = 2 ^ i - 1 + (p + 1) := by
    have := Nat.two_pow_pos i
    omega
  have half : (2 ^ i)! ≤ 2 * (2 ^ (p + 2 ^ i) % (2 ^ i)!) := by
    rw [exponent, pow_add, factorial_two_pow, Nat.mul_mod_mul_left, Nat.mul_left_comm]
    exact Nat.mul_le_mul_left _ (half_le_mod (by rwa [← pow_succ']))
  rw [expTwoLoss_eq, le_div_iff₀ (Nat.cast_pos.mpr (Nat.factorial_pos _))]
  have : ((2 ^ i)! : ℝ) ≤ 2 * ((2 ^ (p + 2 ^ i) % (2 ^ i)! : ℕ) : ℝ) := by exact_mod_cast half
  linarith

/-! ### A precision at which many terms lose half a unit -/

/-- By Euler's theorem 2 to this power and two more leaves 1 modulo every odd part met. -/
def lossyPrecision (N : ℕ) : ℕ := φ (oddFactorial (2 ^ N)) * (2 ^ N + 162) - 2

theorem le_totient_mul (N : ℕ) : 2 ^ N + 162 ≤ φ (oddFactorial (2 ^ N)) * (2 ^ N + 162) :=
  Nat.le_mul_of_pos_left _ (Nat.totient_pos.mpr (odd_oddFactorial (2 ^ N)).pos)

theorem le_lossyPrecision (N : ℕ) : 2 ^ N + 160 ≤ lossyPrecision N := Nat.le_sub_of_add_le (le_totient_mul N)

theorem lossyPrecision_add_two (N : ℕ) : lossyPrecision N + 2 = φ (oddFactorial (2 ^ N)) * (2 ^ N + 162) :=
  Nat.sub_add_cancel ((Nat.le_add_left 2 _).trans (le_totient_mul N))

theorem two_pow_lossyPrecision_mod {N i : ℕ} (hi : 2 ≤ i) (hN : i ≤ N) :
    2 ^ (lossyPrecision N + 2) % oddFactorial (2 ^ i) = 1 := by
  have dvd : oddFactorial (2 ^ i) ∣ oddFactorial (2 ^ N) :=
    Nat.ordCompl_dvd_ordCompl_of_dvd (Nat.factorial_dvd_factorial (Nat.pow_le_pow_right two_pos hN)) 2
  have euler : _ % _ = _ % _ := ((Nat.ModEq.pow_totient (odd_oddFactorial (2 ^ N)).coprime_two_left).pow (2 ^ N + 162)).of_dvd dvd
  rw [lossyPrecision_add_two, pow_mul, euler, one_pow, Nat.mod_eq_of_lt (one_lt_oddFactorial hi)]

/-- There the series loses more than `N / 2 - 1` units. -/
theorem expTerms_two_loss (N : ℕ) :
    ((N - 2 : ℕ) : ℝ) / 2 ≤ 2 ^ lossyPrecision N * Real.exp 2 -
      expTerms (lossyPrecision N) (2 ^ (lossyPrecision N + 1)) (lossyPrecision N) 0 (2 ^ lossyPrecision N) := by
  set p := lossyPrecision N
  have model : (expTerms p (2 ^ (p + 1)) p 0 (2 ^ p) : ℝ) ≤ ∑ k ∈ range p, (expTwoTerm p k : ℝ) := by
    have := expTerms_two_le_sum p (n := p) (k := 0) (t := 2 ^ p) (by simp [expTwoTerm])
    simp only [zero_add] at this
    exact_mod_cast this
  have series : 2 ^ p * ∑ k ∈ range p, (2 : ℝ) ^ k / k ! ≤ 2 ^ p * Real.exp 2 :=
    mul_le_mul_of_nonneg_left (Real.sum_le_exp_of_nonneg two_pos.le p) (by positivity)
  have indices : (Ico 2 N).image (2 ^ ·) ⊆ range p := by
    intro k hk
    obtain ⟨i, hi, rfl⟩ := mem_image.mp hk
    have := Nat.pow_lt_pow_right one_lt_two (mem_Ico.mp hi).2
    have := le_lossyPrecision N
    exact mem_range.mpr (by omega)
  calc ((N - 2 : ℕ) : ℝ) / 2
      = ∑ _i ∈ Ico 2 N, (1 / 2 : ℝ) := by rw [sum_const, Nat.card_Ico, nsmul_eq_mul]; ring
    _ ≤ ∑ i ∈ Ico 2 N, expTwoLoss p (2 ^ i) := sum_le_sum fun i hi =>
        have ⟨two, below⟩ := mem_Ico.mp hi
        half_le_expTwoLoss (two_pow_lossyPrecision_mod two below.le)
    _ = ∑ k ∈ (Ico 2 N).image (2 ^ ·), expTwoLoss p k :=
        (sum_image fun i _ j _ h => Nat.pow_right_injective le_rfl h).symm
    _ ≤ ∑ k ∈ range p, expTwoLoss p k := sum_le_sum_of_subset_of_nonneg indices fun k _ _ => expTwoLoss_nonneg p k
    _ = 2 ^ p * ∑ k ∈ range p, (2 : ℝ) ^ k / (k !) - ∑ k ∈ range p, (expTwoTerm p k : ℝ) := by
        simp only [expTwoLoss, sum_sub_distrib, mul_sum]
    _ ≤ _ := sub_le_sub series model

/-- Refutes O10: at the precision `lossyPrecision (2 ^ 50)` and the argument 2, the terms of exp of index `2 ^ i` for `i` from 2 to
`2 ^ 50 - 1` each lose half a unit or more, and together more than the `2 ^ 48` units that the clause allows at every precision. -/
theorem not_transcendentalRounding : ¬ Obligations.TranscendentalRounding := by
  unfold Obligations.TranscendentalRounding
  rintro ⟨-, -, -, -, -, expSeries, -⟩
  have loss := expTerms_two_loss (2 ^ 50)
  have precise := le_lossyPrecision (2 ^ 50)
  generalize lossyPrecision (2 ^ 50) = p at loss precise
  have argument : ((2 ^ (p + 1) : ℕ) : ℝ) / 2 ^ p = 2 := by
    rw [Nat.cast_pow, Nat.cast_two, pow_succ', mul_div_cancel_right₀ _ (by positivity)]
  have bound := expSeries p (2 ^ (p + 1)) ((Nat.le_add_left _ _).trans precise)
    (by rw [pow_succ']; exact Nat.mul_le_mul_right _ (by norm_num))
  rw [argument, abs_sub_comm] at bound
  have := loss.trans ((le_abs_self _).trans bound)
  norm_num at this

end Sys2Proof.Machine
end
